-- ==== Sys2Proof/Syntax.lean ====
section
/-! DEFINITION. The steps of the part: one constructor per row of spec/opcode_table.json.
The first 204 constructors are the words of R214 to R240, their arguments the fields of the word from
the highest bit down (register numbers, selectors and immediates as plain numbers; `WellFormed.lean`
bounds them).  The other 98 are the machine's own events, whose arguments name their subject. -/

namespace Sys2Proof

/-- One whole and indivisible step of an Agxidor package (spec/95, spec/opcode_table.json). -/
inductive Instr where
  -- R215: clause header (WAIT, SETA, SETB, LEN, YLD, RCV)
  | clauseHeader (wait seta setb len yld rcv : Nat)
  -- R245 to R255: control
  | bra (off g : Nat) | bru (off g : Nat) | call (off g : Nat)
  | loopn (sa off g : Nat)
  | reform (va off g : Nat)
  | callo (sa ent : Nat)
  | waitf (msk g : Nat) | waitl (msk g : Nat)
  | ret (g : Nat) | exit (g : Nat) | join (g : Nat)
  | launch (sa g : Nat)
  -- R256 to R261: uniform
  | sadd (sd sa sb x : Nat) | ssub (sd sa sb x : Nat) | sand (sd sa sb x : Nat)
  | sor (sd sa sb x : Nat) | sxor (sd sa sb x : Nat)
  | scmp (sa sb u cc k : Nat)
  | smov (sd sa : Nat)
  | smovi (sd imm : Nat)
  | smul (sd sa x : Nat) | sshl (sd sa x : Nat) | sshr (sd sa x : Nat) | sshrI32 (sd sa x : Nat)
  | movs (sd code : Nat)
  | wrs (code sa : Nat)
  | rdlane (sd va lane : Nat)
  -- R262 to R264: predicates and votes
  | setpI32 (pd pe va vb cc : Nat) | setpN32 (pd pe va vb cc : Nat)
  | setpF32 (pd pe va vb cc : Nat)
  | pand (pd pa pb na nb g : Nat) | por (pd pa pb na nb g : Nat) | pxor (pd pa pb na nb g : Nat)
  | pnot (pd pa na g : Nat) | pmov (pd pa na g : Nat)
  | ppop (sd pa g : Nat)
  | voteAny (pa pd g : Nat) | voteAll (pa pd g : Nat)
  | voteBallot (sd pa g : Nat)
  -- R265 to R270: cross-lane
  | shflIdx (vd va vb g : Nat)
  | shflUp (vd va d g : Nat) | shflDown (vd va d g : Nat)
  | shflXor (vd va m g : Nat)
  | bcast (vd va sb g : Nat)
  | scan (vd va excl op g : Nat)
  | segscanIncl (vd va ps op g : Nat) | segscanExcl (vd va ps op g : Nat)
  | red (vd va op g : Nat)
  | glean (vd pd sa g : Nat)
  -- R274: integer register forms
  | iadd (vd va vb g : Nat) | isub (vd va vb g : Nat) | imul (vd va vb g : Nat)
  | imad (vd va vb g : Nat) | and (vd va vb g : Nat) | or (vd va vb g : Nat)
  | xor (vd va vb g : Nat) | shl (vd va vb g : Nat) | shr (vd va vb g : Nat)
  | sar (vd va vb g : Nat) | sel (vd va vb pn : Nat) | lea (vd va vb g : Nat)
  -- R275: integer immediate forms
  | iaddImm (vd va imm g : Nat) | andImm (vd va imm g : Nat) | movi (vd imm g : Nat)
  -- R276, R277: integer family
  | mov (vd va g : Nat) | not (vd va g : Nat) | iabsI32 (vd va g : Nat) | inegI32 (vd va g : Nat)
  | popc (vd va g : Nat) | clz (vd va g : Nat) | brev (vd va g : Nat)
  | movSpecial (vd code g : Nat)
  | imulhI32 (vd va g : Nat) | imulhN32 (vd va g : Nat)
  | iminI32 (vd va g : Nat) | iminN32 (vd va g : Nat)
  | imaxI32 (vd va g : Nat) | imaxN32 (vd va g : Nat)
  | rotl (vd va g : Nat) | bfxI32 (vd va g : Nat) | bfxN32 (vd va g : Nat) | bfi (vd va g : Nat)
  | iaddI32Sat (vd va g : Nat) | iaddN32Sat (vd va g : Nat)
  | isubI32Sat (vd va g : Nat) | isubN32Sat (vd va g : Nat)
  -- R278: float register forms
  | faddF32 (vd va vb g : Nat) | fsubF32 (vd va vb g : Nat) | fmulF32 (vd va vb g : Nat)
  | ffmaF32 (vd va vb g : Nat)
  | faddF16x2 (vd va vb g : Nat) | fmulF16x2 (vd va vb g : Nat) | ffmaF16x2 (vd va vb g : Nat)
  | faddBf16x2 (vd va vb g : Nat) | fmulBf16x2 (vd va vb g : Nat) | ffmaBf16x2 (vd va vb g : Nat)
  -- R279, R280: float family (ty of R233)
  | frnd (vd va ty g : Nat) | frcp (vd va ty g : Nat) | frsq (vd va ty g : Nat)
  | fsqrt (vd va ty g : Nat) | fexp2 (vd va ty g : Nat) | flog2 (vd va ty g : Nat)
  | fsin (vd va ty g : Nat) | fcos (vd va ty g : Nat)
  | fmin (vd va ty g : Nat) | fmax (vd va ty g : Nat) | fsubTwoAddress (vd va ty g : Nat)
  -- R281 to R283: packed and pixel
  | hadd (vd va vb g : Nat) | hsub (vd va vb g : Nat) | hmad (vd va vb g : Nat)
  | hacs (vd va vb g : Nat)
  | hmul (vd va g : Nat)
  | haddsI16x2 (vd va g : Nat) | haddsN16x2 (vd va g : Nat)
  | hsubsI16x2 (vd va g : Nat) | hsubsN16x2 (vd va g : Nat)
  | hminI16x2 (vd va g : Nat) | hminN16x2 (vd va g : Nat)
  | hmaxI16x2 (vd va g : Nat) | hmaxN16x2 (vd va g : Nat)
  | hshl (vd va g : Nat) | hshrN16x2 (vd va g : Nat) | hshrI16x2 (vd va g : Nat)
  | hsel (vd va g : Nat) | hpack (vd va g : Nat)
  | pxavg (vd va g : Nat) | pxsad (vd va g : Nat) | pxclamp (vd va g : Nat)
  | pxpack (vd va g : Nat)
  | hunpackLoI16 (vd va g : Nat) | hunpackHiI16 (vd va g : Nat)
  | hunpackLoN16 (vd va g : Nat) | hunpackHiN16 (vd va g : Nat)
  | pxexpLo (vd va g : Nat) | pxexpHi (vd va g : Nat)
  -- R286 to R292: conversion; R284, R285: dot products
  | cvtSrcLow (vd va dst src g : Nat) | cvtSrcHigh (vd va dst src g : Nat)
  | rndt (vd va fmt g : Nat)
  | cvtTrl (sa sb sub fs k : Nat)
  | cvtChk (sa sub fs k : Nat)
  | dot4I8 (vd va vb g : Nat) | dot4N8 (vd va vb g : Nat)
  | dot8I4 (vd va vb g : Nat) | dot8N4 (vd va vb g : Nat)
  | dot4E4m3 (vd va bs g : Nat) | dot4E5m2 (vd va bs g : Nat) | dot8E2m1 (vd va bs g : Nat)
  -- R297: on-chip memory
  | ldsB32 (vd va off g : Nat) | ldsB64 (vd va off g : Nat)
  | stsB32 (vs va off g : Nat) | stsB64 (vs va off g : Nat)
  | ldgB32 (vd va off g : Nat) | ldgB64 (vd va off g : Nat)
  | stgB32 (vs va off g : Nat) | stgB64 (vs va off g : Nat)
  | ldk (vd va off g : Nat) | stk (vs va off g : Nat)
  -- R300: atomics
  | atom (vd va op sp ty g : Nat)
  -- R303, R307: far
  | fld (vd va cls scope fs sz : Nat) | fst (vs va cls scope fs sz : Nat)
  | fldacq (vd va cls scope fs sz : Nat)
  | fstrel (vs va cls scope fs set : Nat)
  | fatom (vd va cls scope fs op ty : Nat)
  -- R261
  | sld (sd sa imm : Nat)
  -- R309: synchronisation
  | hurdleArrive (va count g : Nat)
  | hurdleWait (va sb g : Nat)
  | waitst (va sb g : Nat) | waitstGranary (va sb g : Nat) | waitstFar (va sb g : Nat)
  | barb (g : Nat)
  -- R314, R315, R308: copies, LAND, FNC
  | cpy (sa cls scope fs : Nat) | cpyt (sa cls scope fs : Nat) | cpyq (sa cls scope fs : Nat)
  | land (sa : Nat)
  | fnc (set scope : Nat)
  -- R317 to R328: cube
  | batonArm (b w0 c g : Nat)
  | sign (b g : Nat)
  | cube (sa mode fmt fs b : Nat)
  | cubestn (sa fs : Nat) | cubestw (sa fs : Nat)
  | accld (acc va fs : Nat) | accst (acc va fs : Nat)
  | accz (acc fs : Nat)
  -- R331: planes
  | stepOpen (g : Nat)
  | stepClose (m fs g : Nat)
  | upd (sa fs g : Nat)
  | merge (fs g : Nat)
  -- R335: overlays
  | ovldImm (sa idx fs : Nat) | ovldReg (sa sb fs : Nat)
  | ovpin (sa fs : Nat) | ovunpin (sa fs : Nat)
  | ovev (sa : Nat)
  | ovq (sd st : Nat)
  -- R343 to R348: system
  | svc (va num g : Nat)
  | nop (g : Nat) | trap (code g : Nat) | bkpt (g : Nat) | eret (g : Nat)
  -- R353: hints
  | hintImm (imm : Nat)
  | hintXv (mp mn rm vc zi sat : Nat)
  | hintUwin (k1 k2 k3 : Nat)
  | hintSched (act : Nat)
  -- Events that a word or a clock brings about by itself (R32 to R56, R129 to R160, R298 to R408)
  | machineCheck (ev : Nat)
  | storeQueueDrain (blk wid n : Nat)
  | reconvergenceRelease (blk wid : Nat)
  | lateLaneArrival (blk wid : Nat)
  | barrierOpen (blk : Nat)
  | sheafIssue (blk : Nat)
  | sheafAgeLimit (blk n : Nat)
  | warpFree (blk wid : Nat)
  | lineAccessPerform (id : Nat)
  | farReply (id : Nat)
  | farAcknowledgement (id : Nat)
  | systemTimeout (kind id : Nat)
  | copyAccept (id : Nat)
  | copyElement (ev : Nat)
  | copyStampWrite (id : Nat)
  | overlayLoadComplete (core entry : Nat)
  | cubeAccept (blk b : Nat)
  | enginePass (core : Nat)
  | entryStarvation (core id : Nat)
  | cubeComplete (core id : Nat)
  | stationLoadComplete (core id : Nat)
  | accumulatorOpComplete (core id : Nat)
  | cubeHangTimeout (core : Nat)
  | updSliceApply (die : Nat)
  | divergenceTrap (blk wid : Nat)
  | pacerBlock (tensor block : Nat)
  | svcResume (blk wid : Nat)
  | gridAccept (die : Nat)
  | waitaPoll (grid : Nat)
  | gridStart (grid die : Nat)
  | blockClaim (core : Nat)
  | claimStarvation (grid die : Nat)
  | blockAdmit (core : Nat)
  | quantumEnd (blk : Nat)
  | idleSwap (blk : Nat)
  | waitingForCore (blk : Nat)
  | swapOut (blk ask : Nat)
  | swapIn (blk core : Nat)
  | gridRetire (grid : Nat)
  | shootdownDone (die : Nat)
  | migrationDone (die mst : Nat)
  -- R322: the one instruction with no field stands behind those that the compiled model builds
  | oprdy
  -- Copies (R133 to R139)
  | dropNotice (id : Nat)
  | reservationWindowExpiry (id : Nat)
  -- Cube engine (R126 to R129, R321, R328, R408)
  | engineInternalError (core : Nat)
  -- Planes (R149 to R158, R341)
  | stepCloseComplete
  | mergePoint
  | segmentRecord (bytes : List Nat)
  | roundManifest (bytes : List Nat)
  | roundAbandon
  | fold
  -- Services (R350, R352, R360, R418)
  | serviceCall (die known : Nat) (answers : List (List Nat))
  -- Faults, shootdown, migration, planes (R391 to R409)
  | shootdown (die value : Nat)
  | migration (die value : Nat)
  | planeDrain (die value : Nat)
  | planeMapWrite (die value : Nat)
  | resumea (die addr : Nat)
  | gkill (die gid : Nat)
  | cubectlRst (die value : Nat)
  | loftQuotaWrite (die idx j value : Nat)
  | leaderClaim (die value : Nat)
  | faultRingHeadWrite (die value : Nat)
  | requestRingHeadWrite (die value : Nat)
  | controlRegisterWrite (die off value : Nat)
  -- Service pairs, boot, reliability (R411 to R413, R419, R421 to R426)
  | heartbeatTimeout (die : Nat)
  | lockStepMismatch (die : Nat)
  | packageReset
  | coldBoot (die : Nat)
  | patrolScrub (ev : Nat)
  | rowRepair (line phase : Nat)
  | supplySagTrip (die : Nat)
  | supplyRecovery (die : Nat)
  | dieIsolation (ev : Nat)
  | slowLinkDatagram (kind : Nat) (bytes tag : List Nat)
  -- Host commands (R416): `lo` and then `hi` are the 32 bytes of the command's header (R415)
  | sessionOpen (hdr : List Nat) (cert offer : Nat)
  | sessionClose (lo hi : List Nat)
  | tenantSet (lo hi : List Nat) (n : Nat) (entry quotas : List Nat)
  | map (lo hi : List Nat) (slot va size count tier node frame perm : Nat)
  | unmap (lo hi : List Nat) (slot va size count : Nat)
  | islandSet (lo hi : List Nat) (isl dev : Nat)
  | hostLaunch (lo hi : List Nat) (addr tenant home : Nat)
  | gridWait (lo hi : List Nat) (gid : Nat)
  | gridKill (lo hi : List Nat) (gid : Nat)
  | memRead (lo hi : List Nat) (slot va n : Nat)
  | memWrite (lo hi : List Nat) (slot va : Nat) (bytes : List Nat)
  | planeCreate (lo hi : List Nat) (tenant : Nat) (scale : List Nat) (tensors groups : List (List Nat))
  | planeDestroy (lo hi : List Nat)
  | anchorSync (lo hi : List Nat) (mask r : Nat) (tensors : List (List Nat))
  | attest (lo hi nonce : List Nat)
  | fwStage (lo hi image : List Nat)
  | fwActivate (lo hi : List Nat)
  | telemetry (lo hi : List Nat)
  | unknownCommand (lo hi payload : List Nat)
  -- Host processors and the package's health (R187, R162, R423, R426, R416)
  | hostAccess (host kind addr value cmp : Nat)
  | switchPlaneFailure (plane : Nat)
  | linkTrainingComplete (stack restored : Nat)
  | spareCoreReplacement (core : Nat)
  | certificateRevocation (ev : Nat)
  | rpcReconnect (token : Nat)
  deriving DecidableEq, Repr

end Sys2Proof
end

