-- ==== Sys2Proof/Word.lean ====
section
/-! DEFINITION. The word types (R1, R57) and the one shape of a sparse map. -/

namespace Sys2Proof

/-- A 32-bit register or memory word (R57, R58). -/
abbrev Word := BitVec 32

/-- A byte of memory (R1). -/
abbrev Byte := BitVec 8

/-- A sparse map: key and value pairs, keys strictly rising, so that equal maps are equal lists. -/
abbrev SMap (α : Type) := List (Nat × α)

/-- Memory: the bytes that something has written, by rising address (`Host.Cell`). -/
abbrev Mem := List Host.Cell

end Sys2Proof
end

