-- ==== Sys2Proof/Machine/State.lean ====
section
/-! DEFINITION. The state of one package as plain data, what can stop a step, and reset.
The issuing warp and its block are held apart (`w`, `blk`); every other warp and block is in `blocks`.
-/

namespace Sys2Proof.Machine

/-- Why the machine stops. -/
inductive Fault where
  /-- Raised by the meaning of an encoded word when no warp is in focus. No step reaches it: the step
  issues only for a warp it has focused. Safe: the machine stops where the hardware has no such case. -/
  | noIssuingWarp
  deriving DecidableEq, Repr

/-- Why an instruction has no meaning. -/
inductive Refusal where
  /-- Raised by an arm of `exec` whose instruction has no meaning yet. Safe. -/
  | notModelled (mnemonic : String)
  deriving DecidableEq, Repr

/-- The state of a lane (R36). -/
inductive LaneState where
  | runnable | waiting | late | exited | vacant
  deriving DecidableEq, Repr

/-- The clause a lane is in (R215): its SETA and SETB fields, the body words still to come, and, as a mask, the flags that
its first word waits for (R44, R215). -/
structure Clause where
  seta : Nat
  setb : Nat
  left : Nat
  wait : Nat
  deriving DecidableEq, Repr

/-- The fields of a vector prefix (R226). -/
structure Xv where
  mp : Nat
  mn : Nat
  rm : Nat
  vc : Nat
  zi : Nat
  sat : Nat
  deriving DecidableEq, Repr

/-- Accesses of one unit that have left it and go unanswered (R162, R392): since which reference time, their lines by die and
locator, the first virtual address, and the flag operation whose gradient they read, or 1 for the last accesses of a grid. -/
structure Sent where
  since : Nat
  lines : List (Nat × Nat)
  addr : Nat
  op : Nat
  deriving DecidableEq, Repr

/-- The hint run a lane has issued and not yet applied (R224), and what marks the first issue of a stalled FNC. -/
structure HintRun where
  start : Option Word := none
  imm : Option Nat := none
  xv : Option Xv := none
  uwin : Option (Nat × Nat × Nat) := none
  sched : Option Nat := none
  dup : Bool := false
  /-- the lane stalls at an FNC: the number of the first far access issued after it (R308) -/
  fence : Option Nat := none
  /-- the lane stalls at a LAUNCH or a WAITST.far, a read of which goes unanswered (R392) -/
  sent : Option Sent := none
  /-- the lane stalls at a LAND: the copies whose permit has held it (R315) -/
  land : List Nat := []
  deriving DecidableEq, Repr

/-- A return-chain entry (R245, R341): the PC, and for a trap entry the clause to go back into (R343). -/
structure Ret where
  pc : Word
  clause : Option Clause
  deriving DecidableEq, Repr

/-- A thread and the lane it stands in (R14, R16). -/
structure Lane where
  id : Nat
  tid : Nat
  st : LaneState
  pc : Word
  depth : Nat
  chain : List Ret
  v : SMap Word
  p : BitVec 16
  h : Bool
  arr : BitVec 12
  lateMask : Nat
  arrived : Option Nat
  join : Option Nat
  spill : Mem
  clause : Option Clause
  hint : HintRun
  /-- it has yielded at the clause header it stands at (R56) -/
  yielded : Bool
  deriving DecidableEq, Repr

/-- One long-latency instruction that marked a flag, with its status once it has completed (R218). -/
structure FlagOp where
  id : Nat
  done : Option Nat
  cube : Bool
  deriving DecidableEq, Repr

/-- A completion flag (R60): busy while `ops` is not empty; `status` is that of the last use that ended. -/
structure Flag where
  ops : List FlagOp
  status : Nat
  /-- a cube-family instruction marked it in its present or last use (R408) -/
  cube : Bool
  /-- such a mark came before an engine reset (R408) -/
  lost : Bool
  deriving DecidableEq, Repr

/-- Where an ordinary store goes (R298). -/
inductive Space where
  | shared | granary (die : Nat) | spill (lane : Nat)
  deriving DecidableEq, Repr

/-- A queued store of a warp (R298); it leaves only after the far acquires in `after` (R305). -/
structure QStore where
  serial : Nat
  space : Space
  addr : Nat
  bytes : List Byte
  after : List Nat
  /-- the CVT.trl whose flag waits for it (R291) -/
  op : Option Nat
  /-- the thread that stored, and what the store comes after (R26): see `Orders` -/
  who : Nat
  clk : SMap Nat
  deriving DecidableEq, Repr

/-- What a read of the Granary is for: a lane's registers, a uniform register, or a byte of a CVT.chk's tile. -/
inductive GDest where
  | lane | uniform | tile
  deriving DecidableEq, Repr

/-- A read of the Granary that has issued and has not taken its value yet (R181, R261, R292, R312): of lane `lane` into
register `reg`; into uniform register `reg`; or of byte `lane` of the tile of operation `reg`. -/
structure GLoad where
  serial : Nat
  lane : Nat
  addr : Nat
  size : Nat
  reg : Nat
  dest : GDest
  /-- the threads that load, and what the load comes after (R26): see `Orders` -/
  whos : List Nat
  clk : SMap Nat
  deriving DecidableEq, Repr

/-- A warp parked at an SVC (R350). -/
structure Parked where
  id : Nat
  va : Nat
  mask : Nat
  deriving DecidableEq, Repr

/-- A register that an earlier instruction of the warp has yet to write or whose contents the
manual calls undefined until `op` completes (R45, R124). -/
structure PendReg where
  op : Nat
  lane : Nat
  reg : Nat
  deriving DecidableEq, Repr

/-- A short-latency result under the interlock of R44: vector (0), uniform (1) or predicate (2)
register `reg`, in the lanes of a mask, readable from clock `ready`. -/
structure Interlock where
  cls : Nat
  reg : Nat
  ready : Nat
  lanes : Nat
  deriving DecidableEq, Repr

/-- A fragment or tile window of R124, from SIGN to the wait on the operation's flag. -/
structure Window where
  op : Nat
  flag : Nat
  regs : List Nat
  lanes : List Nat
  tiles : List Nat
  deriving DecidableEq, Repr

/-- What slot B's word reads as it stood before slot A's word of the clock (R243): the uniform registers, the flags, the
lanes with H set, and %dthr of each tensor group. -/
structure View where
  s : SMap Word
  flags : SMap Flag
  handling : Nat
  dthr : List Word
  deriving DecidableEq, Repr

/-- A warp (R17, R18, R20 to R22, R44, R56, R58, R60). -/
structure Warp where
  wid : Nat
  role : Nat
  budget : Nat
  lanes : List Lane
  s : SMap Word
  /-- the lanes slot B issues (R41), and what its word reads (R243) -/
  second : Nat
  view : Option View
  flags : SMap Flag
  queue : List QStore
  gloads : List GLoad
  locks : List Interlock
  pend : List PendReg
  windows : List Window
  /-- it runs on the second core of its block's pair (R27) -/
  upper : Bool
  part : Nat
  half : Nat
  slot : Nat
  age : Nat
  parked : Option Parked
  divPend : Bool
  /-- the lanes whose boost stands (R228) -/
  boost : Nat
  defer : Bool
  /-- the copies whose permit a LAND of the warp has waited out (R315) -/
  landed : List Nat
  deriving DecidableEq, Repr

/-- A station of the cube engine (R115, R116): the load it holds, its place in that load, the element
format, K and N, and in the load's first station the B codes and scale codes by k·N + j. -/
structure Station where
  load : Nat
  place : Nat
  fmt : Nat
  k : Nat
  n : Nat
  codes : SMap Nat
  scales : SMap Nat
  deriving DecidableEq, Repr

/-- A cube descriptor as CUBE records it (R324), with its flag operation. -/
structure CubeDesc where
  words : List Nat
  mode : Nat
  fmt : Nat
  flag : Nat
  op : Nat
  deriving DecidableEq, Repr

/-- The fragment a lane supplies, as it stood when the lane signed (R121, R124). -/
structure Fragment where
  wid : Nat
  lane : Nat
  regs : SMap Word
  undef : List Nat
  deriving DecidableEq, Repr

/-- An armed baton (R123). An idle baton has no entry. -/
structure Baton where
  w0 : Nat
  c : Nat
  expected : Nat
  count : Nat
  descs : SMap CubeDesc
  signed : List (Nat × Nat)
  frags : List Fragment
  agreed : Bool
  /-- what the operation's accesses come after (R26): see `Orders` -/
  clk : SMap Nat
  deriving DecidableEq, Repr

/-- A sheaf (R50 to R53): its key, its threads in filing order, its age in clocks. -/
structure Sheaf where
  pc : Word
  key : Nat
  role : Nat
  budget : Nat
  threads : List Lane
  since : Nat
  due : Bool
  deriving DecidableEq, Repr

/-- A trap held for system software (R345, R400). -/
structure Held where
  cause : Nat
  detail : Nat
  reason : Nat
  wid : Nat
  pc : Word
  mask : Nat
  addr : Nat
  loc : Nat
  recorded : Bool
  deriving DecidableEq, Repr

/-- A block, resident on `core` or swapped out (R28, R29, R32, R62, R383 to R389, R403). -/
structure Block where
  key : Nat
  grid : Nat
  idx : Nat
  tenant : Nat
  core : Option Nat
  warps : SMap Warp
  /-- ended and freed warps: %warpid, and the lanes that were not vacant -/
  ended : List (Nat × Nat)
  template : List Word
  shared : Mem
  tiles : SMap Word
  stations : SMap Station
  batons : SMap Baton
  sheaves : List Sheaf
  seqs : SMap Word
  pins : SMap Nat
  launched : List (Nat × Nat)
  launchCount : Nat
  held : List Held
  stopped : Bool
  accLost : Bool
  /-- flag operations whose D a write inside their window made undefined (R124) -/
  spoiled : List Nat
  adm : Nat
  resStart : Nat
  quantumOver : Bool
  idleSince : Option Nat
  swapReason : Option Nat
  /-- its swap-out is deferred: the context pool had no room (R403) -/
  deferred : Bool
  outReason : Option Nat
  roomFor : Option Nat
  save : Option Nat
  /-- the masks its save area was written with: warp, vector mask, uniform-group mask (R404) -/
  saved : List (Nat × Nat × Nat)
  homeDie : Nat
  /-- the core the block last ran on (R83, R86) -/
  lastCore : Nat
  deriving DecidableEq, Repr

/-- A line access of a far instruction on its way (R159): stage 0 waiting to leave or to be performed,
1 accepted by a host endpoint, 2 performed; it is removed when its reply or acknowledgement arrives. -/
structure FarAcc where
  id : Nat
  op : Nat
  grid : Nat
  blk : Nat
  wid : Nat
  core : Nat
  /-- 0 load, 1 acquire load, 2 store, 3 release, 4 atomic -/
  kind : Nat
  cls : Nat
  scope : Nat
  set : Nat
  flag : Option Nat
  loc : Nat
  size : Nat
  aop : Nat
  aty : Nat
  /-- lane, locator, destination register, operand, new value of a cas -/
  lanes : List (Nat × Nat × Nat × Nat × Nat)
  got : List (Nat × Nat)
  stage : Nat
  /-- its reply or acknowledgement has arrived -/
  acked : Bool
  /-- the first nonzero status among the line accesses of its instruction so far -/
  st : Nat
  after : List Nat
  /-- the ordinary stores its send waits for: those with a smaller number (R306) -/
  queueTo : Nat
  /-- the reference time at which it left its unit (R392) -/
  born : Option Nat
  /-- lane, thread, and what the lane's access comes after (R26): see `Orders` -/
  clk : List (Nat × Nat × SMap Nat)
  deriving DecidableEq, Repr

/-- A CVT.chk of a tile, far or in the Granary, that is still being read (R292): its lanes, descriptor, formats, the
bytes that have come, and 0x13 once one read has met an uncorrectable error. -/
structure ChkOp where
  op : Nat
  blk : Nat
  wid : Nat
  lanes : List Nat
  words : List Nat
  sub : Nat
  k : Nat
  bytes : SMap Nat
  st : Nat
  /-- what its reads come after (R26): see `Orders` -/
  clk : SMap Nat
  deriving DecidableEq, Repr

/-- A parsed walk descriptor (R130). -/
structure Walk where
  sbase : Nat
  dbase : Nat
  stampa : Nat
  seq : Nat
  qfmt : Nat
  stsp : Nat
  dsp : Nat
  ssp : Nat
  esz : Nat
  ext : List Nat
  start : List Nat
  ss : List Int
  ds : List Int
  deriving DecidableEq, Repr

/-- A beat of a copy on its way (R139): where it lands, its bytes, and the reference time of its first send (R392). -/
structure Beat where
  loc : Nat
  bytes : List Byte
  born : Nat
  deriving DecidableEq, Repr

/-- An unfinished copy (R133 to R139). -/
structure Copy where
  id : Nat
  op : Nat
  grid : Nat
  blk : Nat
  wid : Nat
  flag : Nat
  core : Nat
  tenant : Nat
  /-- 0 CPY, 1 CPYT, 2 CPYQ -/
  kind : Nat
  cls : Nat
  scope : Nat
  walk : Walk
  accepted : Bool
  /-- the next ordinal to visit -/
  next : Nat
  /-- CPYT: the pixels of the tile that is landing; CPYQ: the payload bytes read so far -/
  pixels : List Nat
  landOn : Bool
  srcOn : Bool
  status : Nat
  /-- where the walk stopped: ordinal, faulting address, side (R136) -/
  stopAt : Option (Nat × Nat × Nat)
  /-- detail byte and last entry of the failed walk (R400) -/
  failed : Nat × Nat
  /-- the stamp slot as translated at acceptance (R133) -/
  slot : Nat
  /-- a beat was dropped and waits for a reservation window, requested this often (R139) -/
  resv : Option Nat
  /-- the index of its block in its grid, for its fault record (R400) -/
  idx : Nat
  /-- the host writes that its scope waits for, each with the first send of its beat (R314, R392) -/
  hostAcks : List (Nat × Nat)
  after : List Nat
  /-- beats of visited elements that have not landed, oldest first, within an 8-byte unit on-chip or a line (R134, R184) -/
  out : List Beat
  /-- on-chip bytes that a store under the landing permit has made undefined (R134) -/
  spoilt : List Nat
  /-- a read of its source that goes unanswered (R392) -/
  deadSince : Option Sent
  /-- what its accesses come after (R26): see `Orders` -/
  clk : SMap Nat
  deriving DecidableEq, Repr

/-- The state of an overlay-table entry (R77). -/
inductive LoftState where
  | absent | loading | resident | evictPending
  deriving DecidableEq, Repr

/-- An instruction that waits for an overlay load: block, warp, flag, operation, and whether it pins;
or, with `reload`, a swapped-out block that waits for its overlays (R89). -/
structure LoftWaiter where
  blk : Nat
  wid : Nat
  flag : Nat
  op : Nat
  pin : Bool
  reload : Bool
  deriving DecidableEq, Repr

/-- An overlay directory entry (R92). -/
structure DirEntry where
  image : Nat
  size : Nat
  count : Nat
  hash : Nat
  deriving DecidableEq, Repr

/-- An overlay-table entry with the code it holds (R77, R78, R81, R92, R93). -/
structure LoftEntry where
  tenant : Nat
  hash : Nat
  ovx : Nat
  gen : Nat
  st : LoftState
  grid : Nat
  /-- what its load reads: the container's address and its directory entry (R78, R92) -/
  cont : Nat
  dirE : DirEntry
  words : List Nat
  entries : List Nat
  safe : List (Nat × Nat)
  slots : Nat
  lastCall : Nat
  evictMark : Bool
  base : List Nat
  waiters : List LoftWaiter
  forced : Bool
  /-- what the load waits for (R185): a warp by block and number, its stores with a smaller serial number, far acquires -/
  due : Option (Nat × Nat × Nat × List Nat)
  /-- a read of its load that goes unanswered (R392) -/
  deadSince : Option Sent
  /-- what its reads come after (R26): see `Orders` -/
  clk : SMap Nat
  deriving DecidableEq, Repr

/-- What an accepted engine operation does (R129). -/
inductive EngineOp where
  | load (west : Bool) (words : List Nat)
  | cube (mode fmt : Nat) (words : List Nat) (frags : List Fragment) (signers : List (Nat × Nat))
      (descs : SMap CubeDesc)
  | accLoad (acc nt off : Nat)
  | accStore (acc nt off : Nat)
  | accZero (acc : Nat)
  deriving DecidableEq, Repr

/-- An entry of the reservation table (R129). -/
structure EngineEntry where
  id : Nat
  blk : Nat
  prio : Nat
  op : EngineOp
  /-- warp, flag, flag operation -/
  flags : List (Nat × Nat × Nat)
  passes : Nat
  lastGrant : Nat
  eligSince : Option Nat
  starved : Bool
  status : Nat
  done : Bool
  /-- gather: the row list and the scatter list once read (R128) -/
  rows : List Nat
  cols : List Nat
  /-- tiles of an accumulator operation that stand in a window of R124 -/
  bad : List Nat
  /-- bytes a station load has moved so far, by position in the stored plane and its scale array -/
  buf : SMap Nat
  /-- it starts once the stores of its warps with a smaller number have left their queues, and these far acquires are
  answered (R185) -/
  after : Nat
  acq : List Nat
  /-- what its accesses come after (R26): see `Orders` -/
  clk : SMap Nat
  deriving DecidableEq, Repr

/-- The launch packet of a grid (R373). -/
structure Packet where
  cont : Nat
  gx : Nat
  gy : Nat
  gz : Nat
  t : Nat
  wc : Nat
  pol : Nat
  roles : Bool
  plane : Bool
  nc : Nat
  nm : Nat
  ne : Nat
  vp : Nat
  vc : Nat
  vm : Nat
  ve : Nat
  ub : Nat
  shk : Nat
  acc : Nat
  z : Nat
  spl : Nat
  e : Nat
  prio : Nat
  chunk : Nat
  diem : Nat
  gran : Nat
  seed : Nat
  cnta : Nat
  waita : Nat
  waitv : Nat
  reta : Nat
  retv : Nat
  csa : Nat
  cslen : Nat
  args : List Nat
  deriving DecidableEq, Repr

/-- A live-mask record (R92). -/
structure LiveMask where
  pc : Nat
  vmask : Nat
  umask : Nat
  deriving DecidableEq, Repr

/-- A grid on one die (R377): its Granary allocation and its counter area. -/
structure GridDie where
  die : Nat
  off : Nat
  counters : SMap Nat
  deriving DecidableEq, Repr

/-- A grid record (R376 to R378). -/
structure Grid where
  id : Nat
  home : Nat
  parent : Option (Nat × Nat)
  depth : Nat
  prio : Nat
  tenant : Nat
  packet : Packet
  miss : Nat
  kernel : Nat
  dir : List DirEntry
  safe : List (Nat × Nat)
  live : List LiveMask
  joined : Bool
  session : Option Nat
  word : Nat
  depOk : Bool
  dies : List GridDie
  counter : Nat
  blocksEnded : Nat
  children : Nat
  skipSince : SMap Nat
  barring : List Nat
  /-- by die, accesses of its controllers that go unanswered: of WAITA, RETA, the counters or the constant segment (R392) -/
  deadSince : SMap Sent
  ended : Bool
  order : Nat
  /-- numbers of writes to host memory that its copies have made (R378) -/
  hostOut : List Nat
  deriving DecidableEq, Repr

/-- A launch packet on its way into a controller (R374): from a host command, or from a LAUNCH (whose
block takes the trap of R254 when it is rejected). -/
structure Inbound where
  die : Nat
  addr : Nat
  tenant : Nat
  parent : Option (Nat × Nat)
  rpc : Option (Nat × Nat)
  /-- a read of its controller that goes unanswered (R392) -/
  deadSince : Option Sent
  deriving DecidableEq, Repr

/-- A tensor-group record and its registers (R146). -/
structure Group where
  lr : Word
  b1 : Word
  omb1 : Word
  b2 : Word
  omb2 : Word
  eps : Word
  wd : Word
  olr : Word
  omu : Word
  p1 : Word
  p2 : Word
  bc1 : Word
  bc2 : Word
  dnorm : Word
  dthr : Word
  pv : Bool
  div : Bool
  deriving DecidableEq, Repr

/-- A plane-table entry (R144). -/
structure Tensor where
  val : Bool
  base : Nat
  nel : Nat
  hdie : Nat
  grp : Nat
  deriving DecidableEq, Repr

/-- An accepted UPD (R150, R334). -/
structure UpdOp where
  op : Nat
  blk : Nat
  wid : Nat
  flag : Nat
  tenant : Nat
  core : Nat
  gaddr : Nat
  first : Nat
  cnt : Nat
  gsp : Nat
  gfmt : Nat
  tid : Nat
  after : Nat
  acq : List Nat
  /-- what its accesses come after (R26): see `Orders` -/
  clk : SMap Nat
  deriving DecidableEq, Repr

/-- A STEP.CLOSE or MERGE under way (R149, R156): 0 waiting for its UPDs, 1 waiting to merge. -/
structure PlaneOp where
  op : Nat
  blk : Nat
  wid : Nat
  flag : Nat
  close : Bool
  merge : Bool
  stage : Nat
  status : Nat
  /-- as for an engine operation (R185) -/
  after : Nat
  acq : List Nat
  clk : SMap Nat
  deriving DecidableEq, Repr

/-- The round an island takes part in (R154): contributions by island, element. -/
structure Round where
  r : Nat
  mask : Nat
  isls : List Nat
  deadline : Nat
  /-- island, tensor, element, contribution as 256 times its scale code plus its code (R152) -/
  got : List (Nat × Nat × Nat × Nat)
  sent : List (Nat × Nat)
  deriving DecidableEq, Repr

/-- The state of the step (R143, R332). -/
inductive StepState where
  | closed | open | closing
  deriving DecidableEq, Repr

/-- A plane session (R143, R146, R149, R154). -/
structure Session where
  tenant : Nat
  seed : Nat
  ls : Word
  n : Nat
  lsmin : Word
  lsmax : Word
  clean : Nat
  step : StepState
  ovf : Bool
  tensors : SMap Tensor
  groups : List Group
  upds : List UpdOp
  ops : List PlaneOp
  /-- dies whose update unit and Pacer an engine fault has stopped (R399) -/
  stopped : List Nat
  /-- accesses of the plane engines that go unanswered (R392), by 4 times the die plus 0 for an UPD, 1 for a merge, 2 for a
  fold, 3 for the Pacer -/
  deadSince : SMap Sent
  nextRound : Nat
  round : Option Round
  /-- the inter-island key, and the coordinator certificates that the island trusts (R419) -/
  key : Nat
  trust : List Nat
  deriving DecidableEq, Repr

/-- A fault record waiting for, or written to, a die's ring (R400). -/
structure FaultRec where
  die : Nat
  kind : Nat
  held : Held
  tenant : Nat
  core : Nat
  grid : Nat
  block : Nat
  save : Nat
  deriving DecidableEq, Repr

/-- A service call in a die's ring (R348 to R350). -/
structure SvcCall where
  id : Nat
  die : Nat
  blk : Nat
  wid : Nat
  tenant : Nat
  num : Nat
  mask : Nat
  slots : Nat
  args : List (Nat × List Word)
  replies : List (Nat × List Word)
  consumed : Bool
  deriving DecidableEq, Repr

/-- A buffer that service 7 has granted (R360): its tenant, the RPC session of the calling grid, the pages it mapped. -/
structure Buffer where
  tenant : Nat
  session : Option Nat
  pages : List Nat
  deriving DecidableEq, Repr

/-- An RPC session (R415 to R417). -/
structure Rpc where
  token : Nat
  tenant : Nat
  owner : Bool
  word : Nat
  seq : Nat
  /-- sequence number, status, payload of the reply -/
  journal : List (Nat × Nat × List Nat)
  openCmds : List (Nat × Nat × Nat)
  closing : Option Nat
  /-- the command code of each sequence number begun (R415) -/
  codes : SMap Nat
  deriving DecidableEq, Repr

/-- The journal of the leader (R414): commit number, RPC sessions with their replies, the tenant table as offset and word,
the plane session, and the service calls with the replies of their lanes. -/
structure Journal where
  num : Nat
  rpcs : List Rpc
  tenants : SMap Word
  plane : Option Session
  calls : List SvcCall
  deriving DecidableEq, Repr

/-- A kept translation (R396): die, tenant-table entry, page base, page size, leaf. -/
structure TlbEntry where
  die : Nat
  slot : Nat
  va : Nat
  size : Nat
  leaf : Nat
  deriving DecidableEq, Repr

/-- A page migration under way or still forwarding (R406, R407), or lines frozen by a repair (R424). -/
structure Migration where
  die : Nat
  src : Nat
  dst : Nat
  size : Nat
  /-- every line has switched over -/
  switched : Bool
  /-- lines that have switched over, and lines frozen now, counted from the page's first (R188) -/
  gone : List Nat
  held : List Nat
  ended : Bool
  deriving DecidableEq, Repr

/-- A shootdown under way (R397): its range, the pages whose translations it dropped, the far accesses and copies that
must finish first, and its reference time: accesses that go unanswered since then or before must finish too. -/
structure Shoot where
  die : Nat
  slot : Nat
  va : Nat
  len : Nat
  pages : List (Nat × Nat)
  waits : List Nat
  since : Nat
  deriving DecidableEq, Repr

/-- Issue state of one partition half (R55). -/
structure IssueState where
  last : Option (Nat × Nat)
  slot : Nat
  standing : Bool
  /-- the warp that holds this clock's choice, having passed its clause header (R215) -/
  turn : Option (Nat × Nat)
  /-- the warp that has yielded in this clock (R56, R357) -/
  given : Option (Nat × Nat)
  /-- the slot's last choice ended in a trap (R341) -/
  trapped : Bool
  /-- the clock before which the slot takes no new instruction (R42) -/
  busyTill : Nat
  /-- the block that last issued through the slot, and the clock in which it did (R388) -/
  hit : Option (Nat × Nat)
  deriving DecidableEq, Repr

/-- A firmware image of the module's flash (R421). -/
structure Image where
  version : Nat
  rollback : Nat
  hash : List Nat
  valid : Bool
  deriving DecidableEq, Repr

/-- A die: clock, control space, service pair, health (R63, R368, R410 to R413, R421, R425, R426). -/
structure Die where
  clock : Nat
  /-- reference time in full-rate clocks (R392, R425) -/
  ref : Nat
  ctl : SMap Word
  /-- the control space as it stood at the last core clock: what scheduling goes by (R368) -/
  sched : SMap Word
  granary : Mem
  /-- sag phase: none at full rate; otherwise the clocks spent at half rate, and the skipped tick -/
  sag : Option (Nat × Bool)
  isolated : Bool
  pairFailed : Bool
  /-- the reference time at which HBEAT last changed (R413) -/
  beatSince : Nat
  faultSeq : Nat
  backlog : List FaultRec
  svcId : Nat
  gridSeq : Nat
  /-- the firmware image the pair runs; none in boot ROM (R421) -/
  running : Option Nat
  sparesUsed : Nat
  startQ : SMap (List (Nat × Nat))
  /-- count of request-ring slots whose calls the journal holds as committed (R414) -/
  svcDone : Nat
  /-- the journal copy in its stacks (R414) -/
  journal : Option Journal
  /-- it has derived its device identity key (R422) -/
  keyed : Bool
  /-- once it is isolated, which base dies still answer: those of its first and its second stack (R8, R426) -/
  baseUp : List Bool
  deriving DecidableEq, Repr

/-- A slot to be tried in this clock: core, partition, slot (0 A, 1 B). -/
structure SlotRef where
  core : Nat
  part : Nat
  slot : Nat
  deriving DecidableEq, Repr

/-- The MODEL's own: which accesses come before which, for the hurdles of R26 (`Orders.lean`). What an access comes after is a
map from threads to counts. -/
structure Orders where
  /-- by thread: what its later accesses to shared memory come after, its own entries counting what it has handed on -/
  know : SMap (SMap Nat) := []
  /-- by thread: what all of its later accesses come after -/
  past : SMap (SMap Nat) := []
  /-- by thread, or warp, and flag: what a wait on the flag teaches -/
  owed : SMap (SMap Nat) := []
  /-- by byte: what a read of it learns -/
  bytes : SMap (SMap Nat) := []
  /-- by 8-byte unit of shared memory: the arrivals and reads of waits there, each with its threads and their counts -/
  events : SMap (List (SMap Nat)) := []
  /-- by unit: the stores there, by thread, with its count -/
  stores : SMap (SMap Nat) := []
  /-- by register: what stands behind its value; and what the word that issues has read into it -/
  dep : SMap (SMap Nat) := []
  read : SMap (SMap Nat) := []
  /-- by thread: what its reads of the Granary have learnt -/
  seen : SMap (SMap Nat) := []
  /-- by thread, and whether the Granary: what its ordinary stores come after, themselves among it -/
  did : SMap (SMap Nat) := []
  /-- by thread, class, and whether beyond the package: what its far accesses come after and have learnt -/
  farSeen : SMap (SMap Nat) := []
  /-- by warp and line, and by warp, target and plane in class O: what the warp's performed far accesses come after and have
  learnt (R182) -/
  fifo : SMap (SMap Nat) := []
  deriving DecidableEq, Repr

/-- A host processor's store that has not yet left its buffer (R187). -/
structure HostStore where
  host : Nat
  loc : Nat
  value : Nat
  /-- what it comes after (R26): see `Orders` -/
  clk : SMap Nat
  deriving DecidableEq, Repr

end Sys2Proof.Machine

namespace Sys2Proof.Machine

/-- One package, and the far memory of its island. -/
structure State where
  /-- the MODEL's own: events about to happen, in order -/
  agenda : List Instr
  /-- the MODEL's own: issue slots left in this clock -/
  slots : List SlotRef
  /-- the MODEL's own: index of the next free value -/
  fresh : Nat
  /-- the MODEL's own: number of the next operation, access, copy or block -/
  serial : Nat
  /-- the MODEL's own: the focused warp, by block key and %warpid -/
  cur : Option (Nat × Nat)
  blk : Block
  w : Warp
  /-- the issuing lanes, a mask (R39) -/
  im : Nat
  /-- the MODEL's own: the last word to issue stalled and took no effect -/
  stalled : Bool
  blocks : SMap Block
  dies : List Die
  far : Mem
  hostView : Mem
  hostStores : List HostStore
  farQ : List FarAcc
  /-- writes accepted by a host endpoint and not yet visible to host processors (R169, R187) -/
  hostQ : List (Nat × Nat × List Byte)
  /-- the numbers of those that a read of the island has returned (R190) -/
  hostSeen : List Nat
  copies : List Copy
  chks : List ChkOp
  loft : SMap LoftEntry
  engines : SMap (List EngineEntry)
  session : Option Session
  grids : SMap Grid
  inbound : List Inbound
  calls : List SvcCall
  rpcs : List Rpc
  tlb : List TlbEntry
  moves : List Migration
  shoots : List Shoot
  deadPlanes : List Nat
  issue : SMap IssueState
  admCount : Nat
  trained : List Bool
  failedCores : List Nat
  images : List Image
  fusedRollback : Nat
  measureLog : List (List Nat)
  /-- far lines whose contents have an uncorrectable error (R424): an input to the machine -/
  badLines : List Nat
  /-- on-chip bytes with an uncorrectable error, by memory number and address: an input to the machine (R135, R292, R321,
  R328) -/
  badChip : List (Nat × Nat)
  /-- shrinks of a Loft quota still to be met: core, tenant (R88) -/
  shrinks : List (Nat × Nat)
  /-- link-training results kept in flash, by stack: the lanes' results and their CRC-32C (R423) -/
  laneSets : SMap (List Nat × Nat)
  /-- IDENT as the module's configuration in flash gives it (R411): an input to the machine -/
  flashIdent : Nat
  /-- host certificates that system software has enrolled: tenant, and whether for the package's owner (R415) -/
  certs : List (Nat × Bool)
  /-- buffers of host memory that kernels hold (R360) -/
  buffers : List Buffer
  /-- commands that came to their end while no pair led, for the next leader to answer (R414): token, sequence number, status,
  payload -/
  outcomes : List (Nat × Nat × Nat × List Nat)
  /-- the MODEL's own: the order of accesses that R26 asks about -/
  order : Orders
  /-- what the package has sent out: kind, bytes or words -/
  outbox : List (Nat × List Nat)
  deriving DecidableEq, Repr

/-- A die at package reset (R63, R368). (DESIGN CHOICE, log 3) -/
def Die.reset : Die where
  clock := 0
  ref := 0
  ctl := []
  sched := []
  granary := []
  sag := none
  isolated := false
  pairFailed := false
  beatSince := 0
  faultSeq := 0
  backlog := []
  svcId := 1
  gridSeq := 0
  running := none
  sparesUsed := 0
  startQ := []
  svcDone := 0
  journal := none
  keyed := false
  baseUp := [true, true]

/-- No warp: what `w` holds while nothing is in focus. -/
def Warp.empty : Warp where
  wid := 0
  role := 0
  budget := 0
  lanes := []
  s := []
  second := 0
  view := none
  flags := []
  queue := []
  gloads := []
  locks := []
  pend := []
  windows := []
  upper := false
  part := 0
  half := 0
  slot := 0
  age := 0
  parked := none
  divPend := false
  boost := 0
  defer := false
  landed := []

/-- No block: what `blk` holds while nothing is in focus. -/
def Block.empty : Block where
  key := 0
  grid := 0
  idx := 0
  tenant := 0
  core := none
  warps := []
  ended := []
  template := []
  shared := []
  tiles := []
  stations := []
  batons := []
  sheaves := []
  seqs := []
  pins := []
  launched := []
  launchCount := 0
  held := []
  stopped := false
  accLost := false
  spoiled := []
  adm := 0
  resStart := 0
  quantumOver := false
  idleSince := none
  swapReason := none
  deferred := false
  outReason := none
  roomFor := none
  save := none
  saved := []
  homeDie := 0
  lastCore := 0

/-- The package right after reset: control registers at their Reset values (R368, `Ctl.lean`), clocks 0
(R63), no grid, no block, nothing written anywhere. (DESIGN CHOICE, log 3) -/
def State.reset : State where
  agenda := []
  slots := []
  fresh := 0
  serial := 1
  cur := none
  blk := Block.empty
  w := Warp.empty
  im := 0
  stalled := false
  blocks := []
  dies := List.replicate 4 Die.reset
  far := []
  hostView := []
  hostStores := []
  farQ := []
  hostQ := []
  hostSeen := []
  copies := []
  chks := []
  loft := []
  engines := []
  session := none
  grids := []
  inbound := []
  calls := []
  rpcs := []
  tlb := []
  moves := []
  shoots := []
  deadPlanes := []
  issue := []
  admCount := 0
  trained := List.replicate 8 false
  failedCores := []
  images := []
  fusedRollback := 0
  measureLog := []
  badLines := []
  badChip := []
  shrinks := []
  laneSets := []
  flashIdent := 0
  certs := []
  buffers := []
  outcomes := []
  order := {}
  outbox := []

end Sys2Proof.Machine
end

