-- ==== Sys2Proof/Config.lean ====
section
/-! DEFINITION. What the manual leaves to the implementation or to the outside: constants with no
body, of which nothing can be proved but that they are some value of their type (DESIGN CHOICE, log 4, 5, 34). -/

namespace Sys2Proof.Config

/-- An undefined 32-bit value (R7), one for each index (DESIGN CHOICE, log 4). -/
opaque freeWord : Nat → BitVec 32

/-- An undefined byte of memory (R7, R69, R70): memory number, address (DESIGN CHOICE, log 5). -/
opaque freeByte : Nat → Nat → BitVec 8

/-- An undefined choice the device makes (R7): index (DESIGN CHOICE, log 4). -/
opaque freeNat : Nat → Nat

/-- The verdict of an ECDSA P-256 signature check (R154, R419, R421): the key (0 the Onamond key whose hash is fused into the
die, otherwise a coordinator certificate), signed bytes, signature bytes. -/
opaque ecdsaValid : Nat → List Nat → List Nat → Bool

/-- The ECDSA P-256 signature a die's identity key makes (R422): die, signed bytes, index of a byte of the signature. -/
opaque ecdsaSign : Nat → List Nat → Nat → BitVec 8

/-- The AES-128-GCM tag of a record (R419): the inter-island key, the record's bytes, the index of a byte of the tag. -/
opaque gcmTagByte : Nat → List Nat → Nat → BitVec 8

/-- The certificate chain of a die's identity key (R422). -/
opaque certChain : Nat → List Nat

/-- Where system software has placed the parking record of a service call (R349, R350): 4 times the call id
plus the die. -/
opaque parkingAddr : Nat → Nat

/-- The bytes of a telemetry reply (R416): sequence number. -/
opaque telemetryBytes : Nat → List Nat

/-- SHA-256 of the boot ROM (R422), byte by byte. -/
opaque bootRomHash : Nat → BitVec 8

end Sys2Proof.Config
end

