-- ==== Sys2Proof/Machine/Store.lean ====
section
/-! DEFINITION. The sparse maps and byte stores every space is held in, with little-endian access (R1). -/

namespace Sys2Proof.Machine

/-- The value at a key. -/
def smGet {α : Type} : SMap α → Nat → Option α
  | [], _ => none
  | (j, x) :: r, k => if j = k then some x else smGet r k

/-- Put a value at a key, keeping the keys strictly rising. -/
def smSet {α : Type} : SMap α → Nat → α → SMap α
  | [], k, v => [(k, v)]
  | (j, x) :: r, k, v =>
    if k < j then (k, v) :: (j, x) :: r
    else if k = j then (k, v) :: r
    else (j, x) :: smSet r k v

/-- Remove a key. -/
def smDel {α : Type} : SMap α → Nat → SMap α
  | [], _ => []
  | (j, x) :: r, k => if j = k then r else (j, x) :: smDel r k

/-- Change the value at a key, where there is one. -/
def smMod {α : Type} (m : SMap α) (k : Nat) (f : α → α) : SMap α :=
  match smGet m k with
  | some x => smSet m k (f x)
  | none => m

/-- Remove every key of a range. -/
def smCut {α : Type} (m : SMap α) (lo n : Nat) : SMap α :=
  m.filter fun e => !(decide (lo ≤ e.1) && decide (e.1 < lo + n))

/-- The canonical form: keys strictly rising. -/
def smWf {α : Type} : SMap α → Bool
  | [] => true
  | (j, _) :: r =>
    (match r with
      | [] => true
      | (k, _) :: _ => decide (j < k)) && smWf r

/-- The canonical form of a memory. An unlisted address holds a byte nothing has written, whose value
the manual leaves undefined (R7): no entry is equal to it by definition. -/
abbrev Memory.wf (m : Mem) : Bool := smWf m

/-- One byte of memory number `tag`. (DESIGN CHOICE, log 5) -/
def memByte (m : Mem) (tag a : Nat) : Byte := (smGet m a).getD (Config.freeByte tag a)

/-- `n` bytes from `a` up. -/
def memBytes (m : Mem) (tag a n : Nat) : List Byte := (List.range n).map fun i => memByte m tag (a + i)

/-- Write bytes from `a` up. -/
def memWrite (m : Mem) (a : Nat) : List Byte → Mem
  | [] => m
  | b :: r => memWrite (smSet m a b) (a + 1) r

/-- The number whose little-endian bytes these are (R1). -/
def leNat : List Byte → Nat
  | [] => 0
  | b :: r => b.toNat + 256 * leNat r

/-- The `n` little-endian bytes of a number (R1). -/
def leBytes : Nat → Nat → List Byte
  | 0, _ => []
  | n + 1, x => BitVec.ofNat 8 x :: leBytes n (x / 256)

/-- The little-endian number of `n` bytes at `a`. -/
def memNat (m : Mem) (tag a n : Nat) : Nat := leNat (memBytes m tag a n)

/-- Split bytes into numbers of `n` bytes each. -/
def leWords (n : Nat) : Nat → List Byte → List Nat
  | 0, _ => []
  | k + 1, bs => leNat (bs.take n) :: leWords n k (bs.drop n)

/-- Bit `i` of a number. -/
abbrev bit (x i : Nat) : Bool := x.testBit i

/-- The number with the bits of a list set. -/
def bitsOf : List Nat → Nat
  | [] => 0
  | i :: r => (2 ^ i) ||| bitsOf r

/-- The bits of `x` from `lo` up, `len` of them. -/
abbrev field (x lo len : Nat) : Nat := x / 2 ^ lo % 2 ^ len

/-- `x` with its `len` bits from `lo` up replaced. -/
def putField (x lo len v : Nat) : Nat :=
  x - field x lo len * 2 ^ lo + v % 2 ^ len * 2 ^ lo

/-- The signed value of the low `n` bits. -/
def signed (n x : Nat) : Int :=
  let y := x % 2 ^ n
  if y < 2 ^ (n - 1) then (y : Int) else (y : Int) - (2 ^ n : Nat)

/-- The low `n` bits of an integer, as a number. -/
def wrapNat (n : Nat) (x : Int) : Nat := (x % (2 ^ n : Nat)).toNat

/-- The low 32 bits of a number, as a word. -/
abbrev w32 (x : Nat) : Word := BitVec.ofNat 32 x

/-- The low 32 bits of an integer, as a word. -/
abbrev w32i (x : Int) : Word := BitVec.ofInt 32 x

/-- Low and high word of a 64-bit number. -/
abbrev lo32 (x : Nat) : Word := w32 x
/-- See `lo32`. -/
abbrev hi32 (x : Nat) : Word := w32 (x / 2 ^ 32)

/-- The 64-bit number of two words. -/
abbrev pair64 (lo hi : Word) : Nat := lo.toNat + 2 ^ 32 * hi.toNat

/-- A list with position `i` changed. -/
def listMod {α : Type} : List α → Nat → (α → α) → List α
  | [], _, _ => []
  | x :: r, 0, f => f x :: r
  | x :: r, i + 1, f => x :: listMod r i f

end Sys2Proof.Machine
end

