-- ==== Sys2Proof/Machine/Orders.lean ====
section
/-! DEFINITION. Which accesses come before which: the MODEL's own record of the order that R26 asks about.

Every thread counts, under one key its stores and under another its arrivals and reads at hurdles, and its counts go up
whenever it hands on what it has done: to the bytes of a store, an atomic, an arrival or a release, as far as the rules of
R181 to R186 order its earlier accesses before that one. Who reads such a byte learns what it was handed, for the accesses
that those rules order after the read: at once, once a flag has been waited on, or through the registers that take the
value. (DEDUCED, log 42) -/

namespace Sys2Proof.Machine

/-- Up to which count a key is known. -/
def countOf (who : Nat) (clk : SMap Nat) : Nat := (smGet clk who).getD 0

/-- What two parties have learnt together. -/
def joinClk (a b : SMap Nat) : SMap Nat := b.foldl (fun m x => smSet m x.1 (max x.2 (countOf x.1 m))) a

/-- What stands under a key. -/
def clkAt (m : SMap (SMap Nat)) (k : Nat) : SMap Nat := (smGet m k).getD []

/-- What stands under some keys together. -/
def clkOver (m : SMap (SMap Nat)) (ks : List Nat) : SMap Nat := ks.foldl (fun c k => joinClk c (clkAt m k)) []

/-- An event of some threads, each at its count, comes before what stands for `clk`. -/
def comesBefore (ev clk : SMap Nat) : Bool := ev.any fun m => decide (m.2 < countOf m.1 clk)

/-- Add what is learnt under a key. -/
def addClk (m : SMap (SMap Nat)) (k : Nat) (c : SMap Nat) : SMap (SMap Nat) :=
  if c.isEmpty then m else smSet m k (joinClk (clkAt m k) c)

/-- Add it under some keys. -/
def addClks (m : SMap (SMap Nat)) (ks : List Nat) (c : SMap Nat) : SMap (SMap Nat) := ks.foldl (fun m k => addClk m k c) m

/-- A byte of a memory as a key. -/
def byteKey (tag a : Nat) : Nat := tag * 2 ^ 64 + a

/-- A flag of a thread, or of a warp, as a key. -/
def flagKey (who k : Nat) : Nat := who * 16 + k

/-- A warp as the owner of keys: no thread has its number. -/
def warpParty (blk wid : Nat) : Nat := 2 ^ 90 + blk * 2 ^ 20 + wid

/-- A host processor as a party. -/
def hostParty (host : Nat) : Nat := 2 ^ 91 + host

/-- The key under which a thread counts its arrivals and reads at hurdles. -/
def hurdleKey (who : Nat) : Nat := 2 ^ 92 + who

/-- A copy as the owner of a key. -/
def copyParty (id : Nat) : Nat := 2 ^ 93 + id

/-- A register as a key: vector register `n` of a thread, or uniform register `n` of a warp. -/
def regKey (party n : Nat) : Nat := party * 4096 + n

/-- A thread's stores to shared memory and the spill stack, or to the Granary, as a key. -/
def spaceKey (who : Nat) (granary : Bool) : Nat := 2 * who + granary.toNat

/-- A thread's far accesses of a class, in the package or beyond, as a key. -/
def classKey (who cls : Nat) (beyond : Bool) : Nat := who * 8 + cls * 2 + beyond.toNat

/-- A count of a thread. -/
def Orders.count (o : Orders) (who key : Nat) : Nat := countOf key (clkAt o.know who)

/-- What a thread's next access to shared memory comes after, its own accesses so far among them (R181). -/
def Orders.tell (o : Orders) (who : Nat) : SMap Nat :=
  smSet (smSet (clkAt o.know who) who (o.count who who + 1)) (hurdleKey who) (o.count who (hurdleKey who) + 1)

/-- What a thread's next store to shared memory comes after: its earlier stores there, with all that those come after, among it
(R181). -/
def Orders.tellStore (o : Orders) (who : Nat) : SMap Nat := joinClk (o.tell who) (clkAt o.did (spaceKey who false))

/-- What a release of a thread comes after: every ordinary access of its (R183). -/
def Orders.hand (o : Orders) (who : Nat) : SMap Nat :=
  joinClk (joinClk (o.tellStore who) (clkAt o.did (spaceKey who true))) (clkAt o.seen who)

/-- The same of an event of several threads. -/
def Orders.handAll (o : Orders) (whos : List Nat) : SMap Nat := whos.foldl (fun c w => joinClk c (o.hand w)) []

/-- What an access of a thread to other memory comes after (R183). -/
def Orders.pastOf (o : Orders) (who : Nat) : SMap Nat := clkAt o.past who

/-- What a thread's next load from shared memory comes after: not its own stores to other places (R181). -/
def Orders.loadClk (o : Orders) (who : Nat) : SMap Nat :=
  joinClk (o.pastOf who) ((clkAt o.know who).filter fun x => x.1 != who && x.1 != hurdleKey who)

/-- Threads have handed on what they did. -/
def Orders.told (o : Orders) (whos : List Nat) : Orders := { o with know := whos.foldl (fun m w => smSet m w (o.tell w)) o.know }

/-- Threads have made an ordinary store that comes after `c`. -/
def Orders.wrote (o : Orders) (whos : List Nat) (granary : Bool) (c : SMap Nat) : Orders :=
  { o with did := addClks o.did (whos.map (spaceKey · granary)) c }

/-- What bytes hand on. -/
def Orders.handed (o : Orders) (keys : List Nat) : SMap Nat := clkOver o.bytes keys

/-- Bytes are handed what an access comes after. -/
def Orders.give (o : Orders) (keys : List Nat) (c : SMap Nat) : Orders := { o with bytes := addClks o.bytes keys c }

/-- Threads learn; `all` says whether for all of their later accesses, or for those to shared memory (R181, R183). -/
def Orders.learn (o : Orders) (whos : List Nat) (c : SMap Nat) (all : Bool) : Orders :=
  { o with know := addClks o.know whos c, past := if all then addClks o.past whos c else o.past }

/-- What stands behind the values of registers. -/
def Orders.ofRegs (o : Orders) (keys : List Nat) : SMap Nat := clkOver o.dep keys

/-- A register takes a value behind which `c` stands. -/
def Orders.setDep (o : Orders) (key : Nat) (c : SMap Nat) : Orders :=
  { o with dep := if c.isEmpty then smDel o.dep key else smSet o.dep key c }

/-- A value that has been read comes into registers that wait for it. -/
def Orders.intoRegs (o : Orders) (keys : List Nat) (c : SMap Nat) : Orders := { o with dep := addClks o.dep keys c }

/-- The word that issues reads a value into registers. -/
def Orders.reads (o : Orders) (keys : List Nat) (c : SMap Nat) : Orders := { o with read := addClks o.read keys c }

/-- A wait at a hurdle has completed: all later accesses of its threads come after it, and after what it comes after
(R183). -/
def Orders.waitedAt (o : Orders) (whos : List Nat) (c : SMap Nat) : Orders :=
  let own (w : Nat) : SMap Nat := joinClk (joinClk c (o.loadClk w)) [(hurdleKey w, o.count w (hurdleKey w) + 1)]
  let t := whos.foldl (fun t w => t.learn [w] (own w) true) o
  t.told whos

/-- A fence of threads: their later accesses come after their earlier stores, and after the far accesses that it covers
(R183). -/
def Orders.fence (o : Orders) (whos : List Nat) (far : Nat → List Nat) : Orders :=
  let own (w : Nat) : SMap Nat :=
    joinClk (joinClk (clkOver o.did [spaceKey w false, spaceKey w true]) (clkOver o.farSeen (far w)))
      [(w, o.count w w + 1), (hurdleKey w, o.count w (hurdleKey w) + 1)]
  whos.foldl (fun t w => t.learn [w] (own w) true) (o.told whos)

/-- What an engine operation that threads issue comes after: what a fence, a wait or an acquire of theirs orders before all that
follows, their ordinary stores, and what stands behind the registers that it reads (R185). -/
def Orders.engine (o : Orders) (whos keys : List Nat) : SMap Nat :=
  whos.foldl (fun c w => joinClk (joinClk (joinClk c (o.pastOf w)) (clkOver o.did [spaceKey w false, spaceKey w true]))
    [(w, o.count w w + 1), (hurdleKey w, o.count w (hurdleKey w) + 1)]) (o.ofRegs keys)

/-- A wait on flags: what the threads' far accesses and the warp's engine operations under them come after and have learnt counts
from now on (R183, R185). -/
def Orders.waited (o : Orders) (warp : Nat) (whos : List Nat) (flags : Nat) : Orders :=
  let ks := (List.range 12).filter fun k => flags.testBit k
  whos.foldl (fun t w => t.learn [w] (clkOver o.owed (ks.flatMap fun k => [flagKey w k, flagKey warp k])) true) o

/-- Threads have reached the hurdle in a unit: one event, which stands for an earlier one of the same threads (R309). -/
def Orders.reach (o : Orders) (unit : Nat) (whos : List Nat) : Orders :=
  let keys := whos.map hurdleKey
  let old := ((smGet o.events unit).getD []).filter fun e => e.map (·.1) != keys
  { o with events := smSet o.events unit (old ++ [whos.map fun w => (hurdleKey w, o.count w (hurdleKey w))]) }

/-- A store of a thread, which comes after `clk`, has reached a unit. -/
def Orders.stored (o : Orders) (unit who : Nat) (clk : SMap Nat) : Orders :=
  { o with stores := smSet o.stores unit (smSet (clkAt o.stores unit) who (countOf who clk - 1)) }

/-- A store that comes after `clk` meets the hurdle of a unit in use: some event there does not come before it (R26). -/
def Orders.inUse (o : Orders) (unit : Nat) (clk : SMap Nat) : Bool := ((smGet o.events unit).getD []).any fun e => !comesBefore e clk

/-- Threads that reach the hurdle of a unit meet a store there that does not come before them (R26). -/
def Orders.unmet (o : Orders) (unit : Nat) (whos : List Nat) : Bool :=
  (clkAt o.stores unit).any fun m => whos.all fun w => decide (countOf m.1 (o.tell w) ≤ m.2)

/-- What a wait on a flag of a thread, or of a warp, teaches (R183, R185). -/
def Orders.owe (o : Orders) (who flag : Nat) (c : SMap Nat) : Orders := { o with owed := addClk o.owed (flagKey who flag) c }

/-- The barrier of a block opens: every ordinary access of its threads comes before every later one (R183). -/
def Orders.barrier (o : Orders) (tag : Nat) (whos : List Nat) : Orders :=
  let t := (o.told whos).learn whos (o.handAll whos) true
  { t with events := t.events.filter fun e => e.1 / 2 ^ 64 != tag, stores := t.stores.filter fun e => e.1 / 2 ^ 64 != tag }

/-- A warp begins: nothing stands behind its uniform registers and its flags. -/
def Orders.newWarp (o : Orders) (warp : Nat) : Orders :=
  { o with dep := o.dep.filter fun x => x.1 / 4096 != warp, owed := o.owed.filter fun x => x.1 / 16 != warp }

end Sys2Proof.Machine
end

