-- ==== Sys2Proof/WellFormed.lean ====
section
/-! DEFINITION. Which instruction words are legal as they stand: every field within its width (R219,
R220), every field value one that the tables give a meaning (R221, R230 to R240), group bases and
register pairs aligned (R57, R222).  What depends on the machine's state (warp width, hints, place in
the clause, flags) is checked at issue in `Machine/Operands.lean`. -/

namespace Sys2Proof

namespace WellFormed

/-- A field of `n` bits. -/
abbrev fits (n x : Nat) : Bool := decide (x < 2 ^ n)

/-- A multiple of `n`, as a group base or pair must be (R57, R222). -/
abbrev aligned (n x : Nat) : Bool := decide (x % n = 0)

/-- Guarded three-register word: `vd va vb g` of the VR, VI, VU and VM formats. -/
abbrev vr (a b c g : Nat) : Bool := fits 7 a && fits 7 b && fits 7 c && fits 4 g

/-- Guarded two-register word of the VF layout. -/
abbrev vf (a b g : Nat) : Bool := fits 7 a && fits 7 b && fits 4 g

/-- SR word. -/
abbrev sr (d a b x : Nat) : Bool := fits 8 d && fits 8 a && fits 8 b && fits 1 x

/-- SF word. -/
abbrev sf (d a x : Nat) : Bool := fits 8 d && fits 8 a && fits 1 x

/-- FM word: class and scope legal (R163, R168), an even address pair (R71). -/
abbrev fm (d a cls scope fs : Nat) : Bool :=
  fits 7 d && fits 7 a && aligned 2 a && decide (cls < 3) && decide (scope < 6) && fits 1 fs

/-- The special-register codes of R235. -/
def specialCode (c : Nat) : Bool :=
  decide (c ≤ 0x0D) || decide (0x10 ≤ c ∧ c ≤ 0x2F) || decide (0x30 ≤ c ∧ c ≤ 0x3B)

/-- A SETA or SETB field (R216). -/
def setField (x : Nat) : Bool := decide (x < 12) || decide (x = 15)

/-- A size code of FLD, FST, FLDACQ with its data register (R57, R238). -/
abbrev farData (d sz : Nat) : Bool := decide (sz < 4) && (decide (sz ≠ 3) || aligned 2 d)

end WellFormed

open WellFormed in
/-- Legal as a word (R214 to R240). Events carry no encoding and are always well formed. -/
def Instr.wf : Instr → Bool
  | .clauseHeader w a b l y r =>
    fits 12 w && setField a && setField b && (decide (a ≠ b) || decide (a = 15)) && fits 4 l &&
      fits 1 y && fits 1 r
  | .bra o g | .bru o g | .call o g => fits 21 o && fits 4 g
  | .loopn s o g => fits 8 s && fits 13 o && fits 4 g
  | .reform a o g => fits 7 a && fits 14 o && fits 4 g
  | .callo s e => fits 8 s && fits 16 e
  | .waitf m g | .waitl m g => fits 12 m && decide (m ≠ 0) && fits 4 g
  | .ret g | .exit g | .join g | .barb g | .stepOpen g | .nop g | .bkpt g | .eret g => fits 4 g
  | .launch s g => fits 8 s && aligned 2 s && fits 4 g
  | .sadd d a b x | .ssub d a b x | .sand d a b x | .sor d a b x | .sxor d a b x => sr d a b x
  | .scmp a b u c k => fits 8 a && fits 8 b && fits 1 u && decide (c < 6) && fits 4 k
  | .smov d a | .smovi d a => fits 8 d && fits 8 a
  | .smul d a x | .sshl d a x | .sshr d a x | .sshrI32 d a x => sf d a x
  | .movs d c => fits 8 d && specialCode c && decide (2 ≤ c) && (decide (c ≠ 0x0C) || aligned 2 d)
  | .wrs c a => decide (0x20 ≤ c) && decide (c ≤ 0x2F) && fits 8 a
  | .rdlane d v l => fits 8 d && fits 7 v && fits 6 l
  | .setpI32 d e a b c | .setpN32 d e a b c | .setpF32 d e a b c =>
    fits 4 d && fits 4 e && (decide (d ≠ e) || decide (e = 0)) && fits 7 a && fits 7 b &&
      decide (c < 6)
  | .pand d a b m n g | .por d a b m n g | .pxor d a b m n g =>
    fits 4 d && fits 4 a && fits 4 b && fits 1 m && fits 1 n && fits 4 g
  | .pnot d a m g | .pmov d a m g => fits 4 d && fits 4 a && fits 1 m && fits 4 g
  | .ppop d a g | .voteBallot d a g => fits 8 d && fits 4 a && fits 4 g
  | .voteAny a d g | .voteAll a d g => fits 4 a && fits 4 d && fits 4 g
  | .shflUp d a f g | .shflDown d a f g | .shflXor d a f g => vf d a g && fits 6 f
  | .bcast d a s g => vr d a s g
  | .scan d a e o g => vf d a g && fits 1 e && fits 3 o
  | .segscanIncl d a p o g | .segscanExcl d a p o g => vf d a g && fits 4 p && fits 3 o
  | .red d a o g => vf d a g && fits 3 o
  | .glean d p s g => fits 7 d && fits 4 p && fits 8 s && aligned 4 s && fits 4 g
  | .shflIdx d a b g | .iadd d a b g | .isub d a b g | .imul d a b g | .imad d a b g
  | .and d a b g | .or d a b g | .xor d a b g | .shl d a b g | .shr d a b g | .sar d a b g
  | .sel d a b g | .iaddImm d a b g | .andImm d a b g
  | .faddF32 d a b g | .fsubF32 d a b g | .fmulF32 d a b g | .ffmaF32 d a b g
  | .faddF16x2 d a b g | .fmulF16x2 d a b g | .ffmaF16x2 d a b g
  | .faddBf16x2 d a b g | .fmulBf16x2 d a b g | .ffmaBf16x2 d a b g
  | .hadd d a b g | .hsub d a b g | .hmad d a b g
  | .dot4I8 d a b g | .dot4N8 d a b g | .dot8I4 d a b g | .dot8N4 d a b g
  | .ldsB32 d a b g | .stsB32 d a b g | .ldgB32 d a b g | .stgB32 d a b g | .ldk d a b g
  | .stk d a b g => vr d a b g
  | .lea d a b g => vr d a b g && aligned 2 d && aligned 2 a
  | .hacs d a b g | .ldsB64 d a b g | .stsB64 d a b g | .ldgB64 d a b g | .stgB64 d a b g =>
    vr d a b g && aligned 2 d
  | .movi d i g => vf d i g
  | .mov d a g | .not d a g | .iabsI32 d a g | .inegI32 d a g | .popc d a g | .clz d a g
  | .brev d a g | .imulhI32 d a g | .imulhN32 d a g | .iminI32 d a g | .iminN32 d a g
  | .imaxI32 d a g | .imaxN32 d a g | .rotl d a g | .bfxI32 d a g | .bfxN32 d a g | .bfi d a g
  | .iaddI32Sat d a g | .iaddN32Sat d a g | .isubI32Sat d a g | .isubN32Sat d a g
  | .hmul d a g | .haddsI16x2 d a g | .haddsN16x2 d a g | .hsubsI16x2 d a g
  | .hsubsN16x2 d a g | .hminI16x2 d a g | .hminN16x2 d a g | .hmaxI16x2 d a g
  | .hmaxN16x2 d a g | .hshl d a g | .hshrN16x2 d a g | .hshrI16x2 d a g | .hsel d a g
  | .hpack d a g | .pxavg d a g | .pxsad d a g | .pxclamp d a g | .pxpack d a g
  | .hunpackLoI16 d a g | .hunpackHiI16 d a g | .hunpackLoN16 d a g | .hunpackHiN16 d a g
  | .pxexpLo d a g | .pxexpHi d a g => vf d a g
  | .movSpecial d c g => fits 7 d && specialCode c && fits 4 g
  | .frnd d a t g | .frcp d a t g | .frsq d a t g | .fsqrt d a t g | .fexp2 d a t g
  | .flog2 d a t g | .fsin d a t g | .fcos d a t g | .fmin d a t g | .fmax d a t g
  | .fsubTwoAddress d a t g => vf d a g && decide (t < 3)
  | .cvtSrcLow d a t s g | .cvtSrcHigh d a t s g => vf d a g && fits 4 t && fits 3 s
  | .rndt d a f g => vf d a g && decide (f ≤ 6)
  | .cvtTrl a b u f k =>
    fits 8 a && aligned 4 a && fits 8 b && decide (u ≤ 12) && fits 1 f && fits 4 k &&
      decide (k ≠ 13)
  | .cvtChk a u f k =>
    fits 8 a && aligned 4 a && decide (u ≤ 12) && fits 1 f && fits 4 k && decide (k ≠ 13)
  | .dot4E4m3 d a b g | .dot4E5m2 d a b g | .dot8E2m1 d a b g => vf d a g && aligned 2 a && fits 2 b
  | .atom d a o p t g =>
    vf d a g && fits 3 o && fits 1 p && decide (t < 3) && (decide (t ≠ 2) || decide (o < 3)) &&
      (decide (o ≠ 7) || aligned 2 d)
  | .fld d a c s f z | .fst d a c s f z | .fldacq d a c s f z => fm d a c s f && farData d z
  | .fstrel d a c s f k => fm d a c s f && fits 3 k && decide (k ≠ 0)
  | .fatom d a c s f o t =>
    fm d a c s f && fits 3 o && fits 2 t && (decide (t ≠ 3) || decide (o < 3) || decide (o = 6)) &&
      (decide (t ≠ 2) || aligned 2 d) && (decide (o ≠ 7) || aligned 2 d) &&
      (decide (t ≠ 2) || decide (o ≠ 7) || aligned 4 d)
  | .sld d a i => fits 8 d && fits 8 a && fits 9 i
  | .hurdleArrive a c g => vf a c g && decide (c ≠ 0)
  | .hurdleWait a s g => vf a s g
  | .waitst a s g | .waitstGranary a s g => vf a s g && aligned 2 s
  | .waitstFar a s g => vf a s g && aligned 2 s && aligned 2 a
  | .cpy s c p f | .cpyt s c p f | .cpyq s c p f =>
    fits 8 s && aligned 32 s && decide (c < 3) && decide (p < 6) && fits 1 f
  | .land s => fits 8 s && aligned 2 s
  | .fnc k p => fits 3 k && decide (k ≠ 0) && decide (p < 6)
  | .batonArm b w c g => fits 4 b && fits 8 w && fits 8 c && decide (c ≠ 0) && fits 4 g
  | .sign b g => fits 4 b && fits 4 g
  | .cube s m t f b =>
    fits 8 s && aligned 4 s && decide (m ≤ 4) && decide (1 ≤ t) && decide (t ≤ 10) && fits 1 f &&
      fits 4 b
  | .cubestn s f | .cubestw s f => fits 8 s && aligned 4 s && fits 1 f
  | .oprdy => true
  | .accld a v f | .accst a v f => fits 8 a && fits 7 v && fits 1 f
  | .accz a f => fits 8 a && fits 1 f
  | .stepClose m f g => fits 1 m && fits 1 f && fits 4 g
  | .upd s f g => fits 8 s && aligned 8 s && fits 1 f && fits 4 g
  | .merge f g => fits 1 f && fits 4 g
  | .ovldImm s i f | .ovldReg s i f => fits 8 s && fits 8 i && fits 1 f
  | .ovpin s f | .ovunpin s f => fits 8 s && fits 1 f
  | .ovev s => fits 8 s
  | .ovq d t => fits 8 d && fits 8 t
  | .svc a n g => fits 7 a && aligned 8 a && fits 14 n && fits 4 g
  | .trap c g => fits 8 c && fits 4 g
  | .hintImm i => fits 25 i
  | .hintXv p n r v z s => fits 4 p && fits 1 n && fits 3 r && fits 7 v && fits 1 z && fits 1 s
  | .hintUwin a b c => fits 2 a && fits 2 b && fits 2 c
  | .hintSched a => fits 2 a
  | _ => true

end Sys2Proof
end

