-- ==== Sys2Proof/Decode.lean ====
section
/-! DEFINITION. From words to instructions and back (R214 to R240).  A word is a number below 2^32;
`fld` reads a field.  `decode` gives the row whose fixed bits the word holds, with its fields as they
stand; a field value without a meaning is left to `Instr.wf` (R221), a pattern of no row is refused. -/

namespace Sys2Proof

/-- Bits [lo+len-1 : lo] of a word (R1). -/
def fld (w lo len : Nat) : Nat := w / 2 ^ lo % 2 ^ len

/-- OP 0x00 to 0x0F: control and uniform (R230, R235, R236, R250). -/
def decodeControl (w : Nat) : Option Instr :=
  match w / 2 ^ 25 with
  | 0x01 =>
    some (.bra (fld w 4 21) (fld w 0 4))
  | 0x02 =>
    some (.bru (fld w 4 21) (fld w 0 4))
  | 0x03 =>
    some (.call (fld w 4 21) (fld w 0 4))
  | 0x04 =>
    some (.loopn (fld w 17 8) (fld w 4 13) (fld w 0 4))
  | 0x05 =>
    some (.reform (fld w 18 7) (fld w 4 14) (fld w 0 4))
  | 0x06 =>
    if fld w 0 1 = 0 then some (.callo (fld w 17 8) (fld w 1 16))
    else none
  | 0x07 =>
    if fld w 4 9 = 0 then some (.waitf (fld w 13 12) (fld w 0 4))
    else if fld w 4 9 = 1 then some (.waitl (fld w 13 12) (fld w 0 4))
    else none
  | 0x08 =>
    if fld w 4 21 = 0 then some (.ret (fld w 0 4))
    else if fld w 4 21 = 512 then some (.exit (fld w 0 4))
    else if fld w 4 21 = 1024 then some (.join (fld w 0 4))
    else if fld w 4 13 = 1536 then some (.launch (fld w 17 8) (fld w 0 4))
    else none
  | 0x09 =>
    some (.sadd (fld w 17 8) (fld w 9 8) (fld w 1 8) (fld w 0 1))
  | 0x0A =>
    some (.ssub (fld w 17 8) (fld w 9 8) (fld w 1 8) (fld w 0 1))
  | 0x0B =>
    some (.sand (fld w 17 8) (fld w 9 8) (fld w 1 8) (fld w 0 1))
  | 0x0C =>
    some (.sor (fld w 17 8) (fld w 9 8) (fld w 1 8) (fld w 0 1))
  | 0x0D =>
    some (.sxor (fld w 17 8) (fld w 9 8) (fld w 1 8) (fld w 0 1))
  | 0x0E =>
    if fld w 4 1 = 0 then some (.scmp (fld w 17 8) (fld w 9 8) (fld w 8 1) (fld w 5 3) (fld w 0 4))
    else none
  | 0x0F =>
    if fld w 0 9 = 0 then some (.smov (fld w 17 8) (fld w 9 8))
    else if fld w 0 9 = 3 then some (.smovi (fld w 17 8) (fld w 9 8))
    else if fld w 1 8 = 2 then some (.smul (fld w 17 8) (fld w 9 8) (fld w 0 1))
    else if fld w 1 8 = 3 then some (.sshl (fld w 17 8) (fld w 9 8) (fld w 0 1))
    else if fld w 1 8 = 4 then some (.sshr (fld w 17 8) (fld w 9 8) (fld w 0 1))
    else if fld w 1 8 = 5 then some (.sshrI32 (fld w 17 8) (fld w 9 8) (fld w 0 1))
    else if fld w 0 9 = 12 then some (.movs (fld w 17 8) (fld w 9 8))
    else if fld w 0 9 = 14 then some (.wrs (fld w 17 8) (fld w 9 8))
    else if fld w 0 1 = 0 ∧ fld w 7 2 = 1 ∧ fld w 16 1 = 0 then some (.rdlane (fld w 17 8) (fld w 9 7) (fld w 1 6))
    else none
  | _ => none

/-- OP 0x10 to 0x1F: predicates and cross-lane (R237). -/
def decodeCross (w : Nat) : Option Instr :=
  match w / 2 ^ 25 with
  | 0x10 =>
    some (.setpI32 (fld w 21 4) (fld w 17 4) (fld w 10 7) (fld w 3 7) (fld w 0 3))
  | 0x11 =>
    some (.setpN32 (fld w 21 4) (fld w 17 4) (fld w 10 7) (fld w 3 7) (fld w 0 3))
  | 0x12 =>
    some (.setpF32 (fld w 21 4) (fld w 17 4) (fld w 10 7) (fld w 3 7) (fld w 0 3))
  | 0x13 =>
    if fld w 4 7 = 0 then some (.pand (fld w 21 4) (fld w 17 4) (fld w 13 4) (fld w 12 1) (fld w 11 1) (fld w 0 4))
    else if fld w 4 7 = 16 then some (.por (fld w 21 4) (fld w 17 4) (fld w 13 4) (fld w 12 1) (fld w 11 1) (fld w 0 4))
    else if fld w 4 7 = 32 then some (.pxor (fld w 21 4) (fld w 17 4) (fld w 13 4) (fld w 12 1) (fld w 11 1) (fld w 0 4))
    else if fld w 4 8 = 48 ∧ fld w 13 4 = 0 then some (.pnot (fld w 21 4) (fld w 17 4) (fld w 12 1) (fld w 0 4))
    else if fld w 4 8 = 64 ∧ fld w 13 4 = 0 then some (.pmov (fld w 21 4) (fld w 17 4) (fld w 12 1) (fld w 0 4))
    else none
  | 0x14 =>
    if fld w 4 9 = 0 then some (.ppop (fld w 17 8) (fld w 13 4) (fld w 0 4))
    else if fld w 4 5 = 4 ∧ fld w 17 8 = 0 then some (.voteAny (fld w 13 4) (fld w 9 4) (fld w 0 4))
    else if fld w 4 5 = 8 ∧ fld w 17 8 = 0 then some (.voteAll (fld w 13 4) (fld w 9 4) (fld w 0 4))
    else if fld w 4 9 = 12 then some (.voteBallot (fld w 17 8) (fld w 13 4) (fld w 0 4))
    else none
  | 0x15 =>
    some (.shflIdx (fld w 18 7) (fld w 11 7) (fld w 4 7) (fld w 0 4))
  | 0x16 =>
    if fld w 10 1 = 0 then some (.shflUp (fld w 18 7) (fld w 11 7) (fld w 4 6) (fld w 0 4))
    else if fld w 10 1 = 1 then some (.shflDown (fld w 18 7) (fld w 11 7) (fld w 4 6) (fld w 0 4))
    else none
  | 0x17 =>
    if fld w 10 1 = 0 then some (.shflXor (fld w 18 7) (fld w 11 7) (fld w 4 6) (fld w 0 4))
    else none
  | 0x18 =>
    some (.bcast (fld w 18 7) (fld w 11 7) (fld w 4 7) (fld w 0 4))
  | 0x19 =>
    if fld w 4 3 = 0 then some (.scan (fld w 18 7) (fld w 11 7) (fld w 10 1) (fld w 7 3) (fld w 0 4))
    else none
  | 0x1A =>
    some (.segscanIncl (fld w 18 7) (fld w 11 7) (fld w 7 4) (fld w 4 3) (fld w 0 4))
  | 0x1B =>
    some (.segscanExcl (fld w 18 7) (fld w 11 7) (fld w 7 4) (fld w 4 3) (fld w 0 4))
  | 0x1C =>
    if fld w 4 3 = 0 ∧ fld w 10 1 = 0 then some (.red (fld w 18 7) (fld w 11 7) (fld w 7 3) (fld w 0 4))
    else none
  | 0x1D =>
    if fld w 4 2 = 0 then some (.glean (fld w 18 7) (fld w 14 4) (fld w 6 8) (fld w 0 4))
    else none
  | _ => none

/-- OP 0x20 to 0x2F: vector integer (R232). -/
def decodeInteger (w : Nat) : Option Instr :=
  match w / 2 ^ 25 with
  | 0x20 =>
    some (.iadd (fld w 18 7) (fld w 11 7) (fld w 4 7) (fld w 0 4))
  | 0x21 =>
    some (.isub (fld w 18 7) (fld w 11 7) (fld w 4 7) (fld w 0 4))
  | 0x22 =>
    some (.imul (fld w 18 7) (fld w 11 7) (fld w 4 7) (fld w 0 4))
  | 0x23 =>
    some (.imad (fld w 18 7) (fld w 11 7) (fld w 4 7) (fld w 0 4))
  | 0x24 =>
    some (.and (fld w 18 7) (fld w 11 7) (fld w 4 7) (fld w 0 4))
  | 0x25 =>
    some (.or (fld w 18 7) (fld w 11 7) (fld w 4 7) (fld w 0 4))
  | 0x26 =>
    some (.xor (fld w 18 7) (fld w 11 7) (fld w 4 7) (fld w 0 4))
  | 0x27 =>
    some (.shl (fld w 18 7) (fld w 11 7) (fld w 4 7) (fld w 0 4))
  | 0x28 =>
    some (.shr (fld w 18 7) (fld w 11 7) (fld w 4 7) (fld w 0 4))
  | 0x29 =>
    some (.sar (fld w 18 7) (fld w 11 7) (fld w 4 7) (fld w 0 4))
  | 0x2A =>
    some (.sel (fld w 18 7) (fld w 11 7) (fld w 4 7) (fld w 0 4))
  | 0x2B =>
    some (.lea (fld w 18 7) (fld w 11 7) (fld w 4 7) (fld w 0 4))
  | 0x2C =>
    some (.iaddImm (fld w 18 7) (fld w 11 7) (fld w 4 7) (fld w 0 4))
  | 0x2D =>
    some (.andImm (fld w 18 7) (fld w 11 7) (fld w 4 7) (fld w 0 4))
  | 0x2E =>
    if fld w 11 7 = 0 then some (.movi (fld w 18 7) (fld w 4 7) (fld w 0 4))
    else none
  | 0x2F =>
    if fld w 4 7 = 0 then some (.mov (fld w 18 7) (fld w 11 7) (fld w 0 4))
    else if fld w 4 7 = 1 then some (.not (fld w 18 7) (fld w 11 7) (fld w 0 4))
    else if fld w 4 7 = 2 then some (.iabsI32 (fld w 18 7) (fld w 11 7) (fld w 0 4))
    else if fld w 4 7 = 3 then some (.inegI32 (fld w 18 7) (fld w 11 7) (fld w 0 4))
    else if fld w 4 7 = 4 then some (.popc (fld w 18 7) (fld w 11 7) (fld w 0 4))
    else if fld w 4 7 = 5 then some (.clz (fld w 18 7) (fld w 11 7) (fld w 0 4))
    else if fld w 4 7 = 6 then some (.brev (fld w 18 7) (fld w 11 7) (fld w 0 4))
    else if fld w 4 7 = 7 then some (.movSpecial (fld w 18 7) (fld w 11 7) (fld w 0 4))
    else if fld w 4 7 = 16 then some (.imulhI32 (fld w 18 7) (fld w 11 7) (fld w 0 4))
    else if fld w 4 7 = 17 then some (.imulhN32 (fld w 18 7) (fld w 11 7) (fld w 0 4))
    else if fld w 4 7 = 18 then some (.iminI32 (fld w 18 7) (fld w 11 7) (fld w 0 4))
    else if fld w 4 7 = 19 then some (.iminN32 (fld w 18 7) (fld w 11 7) (fld w 0 4))
    else if fld w 4 7 = 20 then some (.imaxI32 (fld w 18 7) (fld w 11 7) (fld w 0 4))
    else if fld w 4 7 = 21 then some (.imaxN32 (fld w 18 7) (fld w 11 7) (fld w 0 4))
    else if fld w 4 7 = 22 then some (.rotl (fld w 18 7) (fld w 11 7) (fld w 0 4))
    else if fld w 4 7 = 23 then some (.bfxI32 (fld w 18 7) (fld w 11 7) (fld w 0 4))
    else if fld w 4 7 = 24 then some (.bfxN32 (fld w 18 7) (fld w 11 7) (fld w 0 4))
    else if fld w 4 7 = 25 then some (.bfi (fld w 18 7) (fld w 11 7) (fld w 0 4))
    else if fld w 4 7 = 26 then some (.iaddI32Sat (fld w 18 7) (fld w 11 7) (fld w 0 4))
    else if fld w 4 7 = 27 then some (.iaddN32Sat (fld w 18 7) (fld w 11 7) (fld w 0 4))
    else if fld w 4 7 = 28 then some (.isubI32Sat (fld w 18 7) (fld w 11 7) (fld w 0 4))
    else if fld w 4 7 = 29 then some (.isubN32Sat (fld w 18 7) (fld w 11 7) (fld w 0 4))
    else none
  | _ => none

/-- OP 0x30 to 0x3F: vector float, packed and pixel (R233, R234). -/
def decodeFloat (w : Nat) : Option Instr :=
  match w / 2 ^ 25 with
  | 0x30 =>
    some (.faddF32 (fld w 18 7) (fld w 11 7) (fld w 4 7) (fld w 0 4))
  | 0x31 =>
    some (.fsubF32 (fld w 18 7) (fld w 11 7) (fld w 4 7) (fld w 0 4))
  | 0x32 =>
    some (.fmulF32 (fld w 18 7) (fld w 11 7) (fld w 4 7) (fld w 0 4))
  | 0x33 =>
    some (.ffmaF32 (fld w 18 7) (fld w 11 7) (fld w 4 7) (fld w 0 4))
  | 0x34 =>
    some (.faddF16x2 (fld w 18 7) (fld w 11 7) (fld w 4 7) (fld w 0 4))
  | 0x35 =>
    some (.fmulF16x2 (fld w 18 7) (fld w 11 7) (fld w 4 7) (fld w 0 4))
  | 0x36 =>
    some (.ffmaF16x2 (fld w 18 7) (fld w 11 7) (fld w 4 7) (fld w 0 4))
  | 0x37 =>
    some (.faddBf16x2 (fld w 18 7) (fld w 11 7) (fld w 4 7) (fld w 0 4))
  | 0x38 =>
    some (.fmulBf16x2 (fld w 18 7) (fld w 11 7) (fld w 4 7) (fld w 0 4))
  | 0x39 =>
    some (.ffmaBf16x2 (fld w 18 7) (fld w 11 7) (fld w 4 7) (fld w 0 4))
  | 0x3A =>
    if fld w 4 5 = 0 then some (.frnd (fld w 18 7) (fld w 11 7) (fld w 9 2) (fld w 0 4))
    else if fld w 4 5 = 1 then some (.frcp (fld w 18 7) (fld w 11 7) (fld w 9 2) (fld w 0 4))
    else if fld w 4 5 = 2 then some (.frsq (fld w 18 7) (fld w 11 7) (fld w 9 2) (fld w 0 4))
    else if fld w 4 5 = 3 then some (.fsqrt (fld w 18 7) (fld w 11 7) (fld w 9 2) (fld w 0 4))
    else if fld w 4 5 = 4 then some (.fexp2 (fld w 18 7) (fld w 11 7) (fld w 9 2) (fld w 0 4))
    else if fld w 4 5 = 5 then some (.flog2 (fld w 18 7) (fld w 11 7) (fld w 9 2) (fld w 0 4))
    else if fld w 4 5 = 6 then some (.fsin (fld w 18 7) (fld w 11 7) (fld w 9 2) (fld w 0 4))
    else if fld w 4 5 = 7 then some (.fcos (fld w 18 7) (fld w 11 7) (fld w 9 2) (fld w 0 4))
    else if fld w 4 5 = 8 then some (.fmin (fld w 18 7) (fld w 11 7) (fld w 9 2) (fld w 0 4))
    else if fld w 4 5 = 9 then some (.fmax (fld w 18 7) (fld w 11 7) (fld w 9 2) (fld w 0 4))
    else if fld w 4 5 = 10 then some (.fsubTwoAddress (fld w 18 7) (fld w 11 7) (fld w 9 2) (fld w 0 4))
    else none
  | 0x3B =>
    some (.hadd (fld w 18 7) (fld w 11 7) (fld w 4 7) (fld w 0 4))
  | 0x3C =>
    some (.hsub (fld w 18 7) (fld w 11 7) (fld w 4 7) (fld w 0 4))
  | 0x3D =>
    some (.hmad (fld w 18 7) (fld w 11 7) (fld w 4 7) (fld w 0 4))
  | 0x3E =>
    some (.hacs (fld w 18 7) (fld w 11 7) (fld w 4 7) (fld w 0 4))
  | 0x3F =>
    if fld w 4 7 = 0 then some (.hmul (fld w 18 7) (fld w 11 7) (fld w 0 4))
    else if fld w 4 7 = 1 then some (.haddsI16x2 (fld w 18 7) (fld w 11 7) (fld w 0 4))
    else if fld w 4 7 = 2 then some (.haddsN16x2 (fld w 18 7) (fld w 11 7) (fld w 0 4))
    else if fld w 4 7 = 3 then some (.hsubsI16x2 (fld w 18 7) (fld w 11 7) (fld w 0 4))
    else if fld w 4 7 = 4 then some (.hsubsN16x2 (fld w 18 7) (fld w 11 7) (fld w 0 4))
    else if fld w 4 7 = 5 then some (.hminI16x2 (fld w 18 7) (fld w 11 7) (fld w 0 4))
    else if fld w 4 7 = 6 then some (.hminN16x2 (fld w 18 7) (fld w 11 7) (fld w 0 4))
    else if fld w 4 7 = 7 then some (.hmaxI16x2 (fld w 18 7) (fld w 11 7) (fld w 0 4))
    else if fld w 4 7 = 8 then some (.hmaxN16x2 (fld w 18 7) (fld w 11 7) (fld w 0 4))
    else if fld w 4 7 = 9 then some (.hshl (fld w 18 7) (fld w 11 7) (fld w 0 4))
    else if fld w 4 7 = 10 then some (.hshrN16x2 (fld w 18 7) (fld w 11 7) (fld w 0 4))
    else if fld w 4 7 = 11 then some (.hshrI16x2 (fld w 18 7) (fld w 11 7) (fld w 0 4))
    else if fld w 4 7 = 12 then some (.hsel (fld w 18 7) (fld w 11 7) (fld w 0 4))
    else if fld w 4 7 = 13 then some (.hpack (fld w 18 7) (fld w 11 7) (fld w 0 4))
    else if fld w 4 7 = 14 then some (.pxavg (fld w 18 7) (fld w 11 7) (fld w 0 4))
    else if fld w 4 7 = 15 then some (.pxsad (fld w 18 7) (fld w 11 7) (fld w 0 4))
    else if fld w 4 7 = 16 then some (.pxclamp (fld w 18 7) (fld w 11 7) (fld w 0 4))
    else if fld w 4 7 = 17 then some (.pxpack (fld w 18 7) (fld w 11 7) (fld w 0 4))
    else if fld w 4 7 = 32 then some (.hunpackLoI16 (fld w 18 7) (fld w 11 7) (fld w 0 4))
    else if fld w 4 7 = 33 then some (.hunpackHiI16 (fld w 18 7) (fld w 11 7) (fld w 0 4))
    else if fld w 4 7 = 34 then some (.hunpackLoN16 (fld w 18 7) (fld w 11 7) (fld w 0 4))
    else if fld w 4 7 = 35 then some (.hunpackHiN16 (fld w 18 7) (fld w 11 7) (fld w 0 4))
    else if fld w 4 7 = 36 then some (.pxexpLo (fld w 18 7) (fld w 11 7) (fld w 0 4))
    else if fld w 4 7 = 37 then some (.pxexpHi (fld w 18 7) (fld w 11 7) (fld w 0 4))
    else none
  | _ => none

/-- OP 0x40 to 0x4F: conversion and dot products (R231, R285). -/
def decodeConvert (w : Nat) : Option Instr :=
  match w / 2 ^ 25 with
  | 0x40 =>
    some (.cvtSrcLow (fld w 18 7) (fld w 11 7) (fld w 7 4) (fld w 4 3) (fld w 0 4))
  | 0x41 =>
    some (.cvtSrcHigh (fld w 18 7) (fld w 11 7) (fld w 7 4) (fld w 4 3) (fld w 0 4))
  | 0x42 =>
    if fld w 4 3 = 0 then some (.rndt (fld w 18 7) (fld w 11 7) (fld w 7 4) (fld w 0 4))
    else none
  | 0x43 =>
    some (.cvtTrl (fld w 17 8) (fld w 9 8) (fld w 5 4) (fld w 4 1) (fld w 0 4))
  | 0x44 =>
    if fld w 9 8 = 0 then some (.cvtChk (fld w 17 8) (fld w 5 4) (fld w 4 1) (fld w 0 4))
    else none
  | 0x45 =>
    some (.dot4I8 (fld w 18 7) (fld w 11 7) (fld w 4 7) (fld w 0 4))
  | 0x46 =>
    some (.dot4N8 (fld w 18 7) (fld w 11 7) (fld w 4 7) (fld w 0 4))
  | 0x47 =>
    some (.dot8I4 (fld w 18 7) (fld w 11 7) (fld w 4 7) (fld w 0 4))
  | 0x48 =>
    some (.dot8N4 (fld w 18 7) (fld w 11 7) (fld w 4 7) (fld w 0 4))
  | 0x49 =>
    if fld w 4 5 = 0 then some (.dot4E4m3 (fld w 18 7) (fld w 11 7) (fld w 9 2) (fld w 0 4))
    else if fld w 4 5 = 8 then some (.dot4E5m2 (fld w 18 7) (fld w 11 7) (fld w 9 2) (fld w 0 4))
    else if fld w 4 5 = 16 then some (.dot8E2m1 (fld w 18 7) (fld w 11 7) (fld w 9 2) (fld w 0 4))
    else none
  | _ => none

/-- OP 0x50 to 0x5F: memory, far, synchronisation, copies (R238, R239). -/
def decodeMemory (w : Nat) : Option Instr :=
  match w / 2 ^ 25 with
  | 0x50 =>
    some (.ldsB32 (fld w 18 7) (fld w 11 7) (fld w 4 7) (fld w 0 4))
  | 0x51 =>
    some (.ldsB64 (fld w 18 7) (fld w 11 7) (fld w 4 7) (fld w 0 4))
  | 0x52 =>
    some (.stsB32 (fld w 18 7) (fld w 11 7) (fld w 4 7) (fld w 0 4))
  | 0x53 =>
    some (.stsB64 (fld w 18 7) (fld w 11 7) (fld w 4 7) (fld w 0 4))
  | 0x54 =>
    some (.ldgB32 (fld w 18 7) (fld w 11 7) (fld w 4 7) (fld w 0 4))
  | 0x55 =>
    some (.ldgB64 (fld w 18 7) (fld w 11 7) (fld w 4 7) (fld w 0 4))
  | 0x56 =>
    some (.stgB32 (fld w 18 7) (fld w 11 7) (fld w 4 7) (fld w 0 4))
  | 0x57 =>
    some (.stgB64 (fld w 18 7) (fld w 11 7) (fld w 4 7) (fld w 0 4))
  | 0x58 =>
    some (.ldk (fld w 18 7) (fld w 11 7) (fld w 4 7) (fld w 0 4))
  | 0x59 =>
    some (.stk (fld w 18 7) (fld w 11 7) (fld w 4 7) (fld w 0 4))
  | 0x5A =>
    if fld w 4 1 = 0 then some (.atom (fld w 18 7) (fld w 11 7) (fld w 8 3) (fld w 7 1) (fld w 5 2) (fld w 0 4))
    else none
  | 0x5B =>
    if fld w 0 2 = 0 then some (.fld (fld w 18 7) (fld w 11 7) (fld w 9 2) (fld w 6 3) (fld w 5 1) (fld w 2 3))
    else if fld w 0 2 = 1 then some (.fst (fld w 18 7) (fld w 11 7) (fld w 9 2) (fld w 6 3) (fld w 5 1) (fld w 2 3))
    else if fld w 0 2 = 2 then some (.fldacq (fld w 18 7) (fld w 11 7) (fld w 9 2) (fld w 6 3) (fld w 5 1) (fld w 2 3))
    else if fld w 0 2 = 3 then some (.fstrel (fld w 18 7) (fld w 11 7) (fld w 9 2) (fld w 6 3) (fld w 5 1) (fld w 2 3))
    else none
  | 0x5C =>
    some (.fatom (fld w 18 7) (fld w 11 7) (fld w 9 2) (fld w 6 3) (fld w 5 1) (fld w 2 3) (fld w 0 2))
  | 0x5D =>
    some (.sld (fld w 17 8) (fld w 9 8) (fld w 0 9))
  | 0x5E =>
    if fld w 18 7 = 0 then some (.hurdleArrive (fld w 11 7) (fld w 4 7) (fld w 0 4))
    else if fld w 18 7 = 1 then some (.hurdleWait (fld w 11 7) (fld w 4 7) (fld w 0 4))
    else if fld w 18 7 = 2 then some (.waitst (fld w 11 7) (fld w 4 7) (fld w 0 4))
    else if fld w 18 7 = 3 then some (.waitstGranary (fld w 11 7) (fld w 4 7) (fld w 0 4))
    else if fld w 18 7 = 4 then some (.waitstFar (fld w 11 7) (fld w 4 7) (fld w 0 4))
    else if fld w 4 21 = 81920 then some (.barb (fld w 0 4))
    else none
  | 0x5F =>
    if fld w 0 4 = 0 ∧ fld w 5 7 = 0 then some (.cpy (fld w 17 8) (fld w 15 2) (fld w 12 3) (fld w 4 1))
    else if fld w 0 4 = 0 ∧ fld w 5 7 = 1 then some (.cpyt (fld w 17 8) (fld w 15 2) (fld w 12 3) (fld w 4 1))
    else if fld w 0 4 = 0 ∧ fld w 5 7 = 2 then some (.cpyq (fld w 17 8) (fld w 15 2) (fld w 12 3) (fld w 4 1))
    else if fld w 0 17 = 96 then some (.land (fld w 17 8))
    else if fld w 0 11 = 128 ∧ fld w 17 8 = 0 then some (.fnc (fld w 14 3) (fld w 11 3))
    else none
  | _ => none

/-- OP 0x60 to 0x6F: cube, planes, overlays, system (R236, R240). -/
def decodeSystem (w : Nat) : Option Instr :=
  match w / 2 ^ 25 with
  | 0x60 =>
    if fld w 4 1 = 0 then some (.batonArm (fld w 21 4) (fld w 13 8) (fld w 5 8) (fld w 0 4))
    else if fld w 4 17 = 1 then some (.sign (fld w 21 4) (fld w 0 4))
    else none
  | 0x61 =>
    if fld w 5 5 = 0 then some (.cube (fld w 17 8) (fld w 14 3) (fld w 10 4) (fld w 4 1) (fld w 0 4))
    else none
  | 0x62 =>
    if fld w 0 4 = 0 ∧ fld w 5 12 = 0 then some (.cubestn (fld w 17 8) (fld w 4 1))
    else if fld w 0 4 = 0 ∧ fld w 5 12 = 1 then some (.cubestw (fld w 17 8) (fld w 4 1))
    else if fld w 0 25 = 64 then some (.oprdy)
    else none
  | 0x63 =>
    if fld w 0 4 = 0 ∧ fld w 5 5 = 0 then some (.accld (fld w 17 8) (fld w 10 7) (fld w 4 1))
    else if fld w 0 4 = 0 ∧ fld w 5 5 = 8 then some (.accst (fld w 17 8) (fld w 10 7) (fld w 4 1))
    else if fld w 0 4 = 0 ∧ fld w 5 12 = 16 then some (.accz (fld w 17 8) (fld w 4 1))
    else none
  | 0x64 =>
    if fld w 4 21 = 0 then some (.stepOpen (fld w 0 4))
    else if fld w 5 8 = 0 ∧ fld w 14 11 = 1 then some (.stepClose (fld w 13 1) (fld w 4 1) (fld w 0 4))
    else if fld w 5 12 = 1024 then some (.upd (fld w 17 8) (fld w 4 1) (fld w 0 4))
    else if fld w 5 20 = 1536 then some (.merge (fld w 4 1) (fld w 0 4))
    else none
  | 0x65 =>
    if fld w 0 4 = 0 ∧ fld w 5 4 = 0 then some (.ovldImm (fld w 17 8) (fld w 9 8) (fld w 4 1))
    else if fld w 0 4 = 0 ∧ fld w 5 4 = 1 then some (.ovldReg (fld w 17 8) (fld w 9 8) (fld w 4 1))
    else if fld w 0 4 = 0 ∧ fld w 5 12 = 2 then some (.ovpin (fld w 17 8) (fld w 4 1))
    else if fld w 0 4 = 0 ∧ fld w 5 12 = 3 then some (.ovunpin (fld w 17 8) (fld w 4 1))
    else if fld w 0 17 = 128 then some (.ovev (fld w 17 8))
    else if fld w 0 9 = 160 then some (.ovq (fld w 17 8) (fld w 9 8))
    else none
  | 0x66 =>
    some (.svc (fld w 18 7) (fld w 4 14) (fld w 0 4))
  | 0x67 =>
    if fld w 4 21 = 0 then some (.nop (fld w 0 4))
    else if fld w 4 13 = 512 then some (.trap (fld w 17 8) (fld w 0 4))
    else if fld w 4 21 = 1024 then some (.bkpt (fld w 0 4))
    else if fld w 4 21 = 1536 then some (.eret (fld w 0 4))
    else none
  | _ => none

/-- OP 0x70 to 0x77: hint words (R225 to R228). -/
def decodeHint (w : Nat) : Option Instr :=
  match w / 2 ^ 25 with
  | 0x70 =>
    some (.hintImm (fld w 0 25))
  | 0x71 =>
    if fld w 0 8 = 0 then some (.hintXv (fld w 21 4) (fld w 20 1) (fld w 17 3) (fld w 10 7) (fld w 9 1) (fld w 8 1))
    else none
  | 0x72 =>
    if fld w 0 19 = 0 then some (.hintUwin (fld w 23 2) (fld w 21 2) (fld w 19 2))
    else none
  | 0x73 =>
    if fld w 0 23 = 0 then some (.hintSched (fld w 23 2))
    else none
  | _ => none

/-- A clause header is known by [31:28] = 1111; its bits [1:0] are 00 (R215, R216). -/
def decodeHeader (w : Nat) : Option Instr :=
  if fld w 0 2 = 0 then
    some (.clauseHeader (fld w 16 12) (fld w 12 4) (fld w 8 4) (fld w 4 4) (fld w 3 1) (fld w 2 1))
  else none

/-- Whether a word has the header pattern (R214). -/
def isHeader (w : Nat) : Bool := decide (w / 2 ^ 28 = 15)

/-- The decoder: a word is read by its OP alone (R214). -/
def decode (w : Nat) : Option Instr :=
  match w / 2 ^ 29 with
  | 0 => decodeControl w
  | 1 => decodeCross w
  | 2 => decodeInteger w
  | 3 => decodeFloat w
  | 4 => decodeConvert w
  | 5 => decodeMemory w
  | 6 => decodeSystem w
  | 7 => if isHeader w then decodeHeader w else decodeHint w
  | _ => none

/-- The number that little-endian bytes stand for (R1). -/
def bytesToNat : List (BitVec 8) → Nat
  | [] => 0
  | b :: bs => b.toNat + 256 * bytesToNat bs

/-- The low `n` bytes of a number, little-endian (R1). -/
def natToBytes : Nat → Nat → List (BitVec 8)
  | 0, _ => []
  | n + 1, x => BitVec.ofNat 8 x :: natToBytes n (x / 256)

/-- One instruction word off the front of a byte stream, with the rest (R1: words are 32 bits,
little-endian). -/
def decodeBytes : List (BitVec 8) → Option (Instr × List (BitVec 8))
  | a :: b :: c :: d :: rest => (decode (bytesToNat [a, b, c, d])).map (·, rest)
  | _ => none

/-- The host's question: the instruction whose bits are `w`, laid out as the Loft stores it. -/
def decodeTableWord (nbits w : Nat) : Option Instr :=
  if nbits ≤ 32 then (decodeBytes (natToBytes 4 w)).map (·.1) else none

/-- Fields put in their places above the fixed bits of a row. -/
def pack (base : Nat) : List (Nat × Nat) → Nat
  | [] => base
  | (x, lo) :: fs => pack (base + x * 2 ^ lo) fs

/-- The words of OP 0x00 to 0x0F: control and uniform (R230, R235, R236, R250). -/
def encodeControl : Instr → Option Nat
  | .bra off g => some (pack 0x02000000 [(off, 4), (g, 0)])
  | .bru off g => some (pack 0x04000000 [(off, 4), (g, 0)])
  | .call off g => some (pack 0x06000000 [(off, 4), (g, 0)])
  | .loopn sa off g => some (pack 0x08000000 [(sa, 17), (off, 4), (g, 0)])
  | .reform va off g => some (pack 0x0A000000 [(va, 18), (off, 4), (g, 0)])
  | .callo sa ent => some (pack 0x0C000000 [(sa, 17), (ent, 1)])
  | .waitf msk g => some (pack 0x0E000000 [(msk, 13), (g, 0)])
  | .waitl msk g => some (pack 0x0E000010 [(msk, 13), (g, 0)])
  | .ret g => some (pack 0x10000000 [(g, 0)])
  | .exit g => some (pack 0x10002000 [(g, 0)])
  | .join g => some (pack 0x10004000 [(g, 0)])
  | .launch sa g => some (pack 0x10006000 [(sa, 17), (g, 0)])
  | .sadd sd sa sb x => some (pack 0x12000000 [(sd, 17), (sa, 9), (sb, 1), (x, 0)])
  | .ssub sd sa sb x => some (pack 0x14000000 [(sd, 17), (sa, 9), (sb, 1), (x, 0)])
  | .sand sd sa sb x => some (pack 0x16000000 [(sd, 17), (sa, 9), (sb, 1), (x, 0)])
  | .sor sd sa sb x => some (pack 0x18000000 [(sd, 17), (sa, 9), (sb, 1), (x, 0)])
  | .sxor sd sa sb x => some (pack 0x1A000000 [(sd, 17), (sa, 9), (sb, 1), (x, 0)])
  | .scmp sa sb u cc k => some (pack 0x1C000000 [(sa, 17), (sb, 9), (u, 8), (cc, 5), (k, 0)])
  | .smov sd sa => some (pack 0x1E000000 [(sd, 17), (sa, 9)])
  | .smovi sd imm => some (pack 0x1E000003 [(sd, 17), (imm, 9)])
  | .smul sd sa x => some (pack 0x1E000004 [(sd, 17), (sa, 9), (x, 0)])
  | .sshl sd sa x => some (pack 0x1E000006 [(sd, 17), (sa, 9), (x, 0)])
  | .sshr sd sa x => some (pack 0x1E000008 [(sd, 17), (sa, 9), (x, 0)])
  | .sshrI32 sd sa x => some (pack 0x1E00000A [(sd, 17), (sa, 9), (x, 0)])
  | .movs sd code => some (pack 0x1E00000C [(sd, 17), (code, 9)])
  | .wrs code sa => some (pack 0x1E00000E [(code, 17), (sa, 9)])
  | .rdlane sd va lane => some (pack 0x1E000080 [(sd, 17), (va, 9), (lane, 1)])
  | _ => none

/-- The words of OP 0x10 to 0x1F: predicates and cross-lane (R237). -/
def encodeCross : Instr → Option Nat
  | .setpI32 pd pe va vb cc =>
    some (pack 0x20000000 [(pd, 21), (pe, 17), (va, 10), (vb, 3), (cc, 0)])
  | .setpN32 pd pe va vb cc =>
    some (pack 0x22000000 [(pd, 21), (pe, 17), (va, 10), (vb, 3), (cc, 0)])
  | .setpF32 pd pe va vb cc =>
    some (pack 0x24000000 [(pd, 21), (pe, 17), (va, 10), (vb, 3), (cc, 0)])
  | .pand pd pa pb na nb g =>
    some (pack 0x26000000 [(pd, 21), (pa, 17), (pb, 13), (na, 12), (nb, 11), (g, 0)])
  | .por pd pa pb na nb g =>
    some (pack 0x26000100 [(pd, 21), (pa, 17), (pb, 13), (na, 12), (nb, 11), (g, 0)])
  | .pxor pd pa pb na nb g =>
    some (pack 0x26000200 [(pd, 21), (pa, 17), (pb, 13), (na, 12), (nb, 11), (g, 0)])
  | .pnot pd pa na g => some (pack 0x26000300 [(pd, 21), (pa, 17), (na, 12), (g, 0)])
  | .pmov pd pa na g => some (pack 0x26000400 [(pd, 21), (pa, 17), (na, 12), (g, 0)])
  | .ppop sd pa g => some (pack 0x28000000 [(sd, 17), (pa, 13), (g, 0)])
  | .voteAny pa pd g => some (pack 0x28000040 [(pa, 13), (pd, 9), (g, 0)])
  | .voteAll pa pd g => some (pack 0x28000080 [(pa, 13), (pd, 9), (g, 0)])
  | .voteBallot sd pa g => some (pack 0x280000C0 [(sd, 17), (pa, 13), (g, 0)])
  | .shflIdx vd va vb g => some (pack 0x2A000000 [(vd, 18), (va, 11), (vb, 4), (g, 0)])
  | .shflUp vd va d g => some (pack 0x2C000000 [(vd, 18), (va, 11), (d, 4), (g, 0)])
  | .shflDown vd va d g => some (pack 0x2C000400 [(vd, 18), (va, 11), (d, 4), (g, 0)])
  | .shflXor vd va m g => some (pack 0x2E000000 [(vd, 18), (va, 11), (m, 4), (g, 0)])
  | .bcast vd va sb g => some (pack 0x30000000 [(vd, 18), (va, 11), (sb, 4), (g, 0)])
  | .scan vd va excl op g =>
    some (pack 0x32000000 [(vd, 18), (va, 11), (excl, 10), (op, 7), (g, 0)])
  | .segscanIncl vd va ps op g =>
    some (pack 0x34000000 [(vd, 18), (va, 11), (ps, 7), (op, 4), (g, 0)])
  | .segscanExcl vd va ps op g =>
    some (pack 0x36000000 [(vd, 18), (va, 11), (ps, 7), (op, 4), (g, 0)])
  | .red vd va op g => some (pack 0x38000000 [(vd, 18), (va, 11), (op, 7), (g, 0)])
  | .glean vd pd sa g => some (pack 0x3A000000 [(vd, 18), (pd, 14), (sa, 6), (g, 0)])
  | _ => none

/-- The words of OP 0x20 to 0x2F: vector integer (R232). -/
def encodeInteger : Instr → Option Nat
  | .iadd vd va vb g => some (pack 0x40000000 [(vd, 18), (va, 11), (vb, 4), (g, 0)])
  | .isub vd va vb g => some (pack 0x42000000 [(vd, 18), (va, 11), (vb, 4), (g, 0)])
  | .imul vd va vb g => some (pack 0x44000000 [(vd, 18), (va, 11), (vb, 4), (g, 0)])
  | .imad vd va vb g => some (pack 0x46000000 [(vd, 18), (va, 11), (vb, 4), (g, 0)])
  | .and vd va vb g => some (pack 0x48000000 [(vd, 18), (va, 11), (vb, 4), (g, 0)])
  | .or vd va vb g => some (pack 0x4A000000 [(vd, 18), (va, 11), (vb, 4), (g, 0)])
  | .xor vd va vb g => some (pack 0x4C000000 [(vd, 18), (va, 11), (vb, 4), (g, 0)])
  | .shl vd va vb g => some (pack 0x4E000000 [(vd, 18), (va, 11), (vb, 4), (g, 0)])
  | .shr vd va vb g => some (pack 0x50000000 [(vd, 18), (va, 11), (vb, 4), (g, 0)])
  | .sar vd va vb g => some (pack 0x52000000 [(vd, 18), (va, 11), (vb, 4), (g, 0)])
  | .sel vd va vb pn => some (pack 0x54000000 [(vd, 18), (va, 11), (vb, 4), (pn, 0)])
  | .lea vd va vb g => some (pack 0x56000000 [(vd, 18), (va, 11), (vb, 4), (g, 0)])
  | .iaddImm vd va imm g => some (pack 0x58000000 [(vd, 18), (va, 11), (imm, 4), (g, 0)])
  | .andImm vd va imm g => some (pack 0x5A000000 [(vd, 18), (va, 11), (imm, 4), (g, 0)])
  | .movi vd imm g => some (pack 0x5C000000 [(vd, 18), (imm, 4), (g, 0)])
  | .mov vd va g => some (pack 0x5E000000 [(vd, 18), (va, 11), (g, 0)])
  | .not vd va g => some (pack 0x5E000010 [(vd, 18), (va, 11), (g, 0)])
  | .iabsI32 vd va g => some (pack 0x5E000020 [(vd, 18), (va, 11), (g, 0)])
  | .inegI32 vd va g => some (pack 0x5E000030 [(vd, 18), (va, 11), (g, 0)])
  | .popc vd va g => some (pack 0x5E000040 [(vd, 18), (va, 11), (g, 0)])
  | .clz vd va g => some (pack 0x5E000050 [(vd, 18), (va, 11), (g, 0)])
  | .brev vd va g => some (pack 0x5E000060 [(vd, 18), (va, 11), (g, 0)])
  | .movSpecial vd code g => some (pack 0x5E000070 [(vd, 18), (code, 11), (g, 0)])
  | .imulhI32 vd va g => some (pack 0x5E000100 [(vd, 18), (va, 11), (g, 0)])
  | .imulhN32 vd va g => some (pack 0x5E000110 [(vd, 18), (va, 11), (g, 0)])
  | .iminI32 vd va g => some (pack 0x5E000120 [(vd, 18), (va, 11), (g, 0)])
  | .iminN32 vd va g => some (pack 0x5E000130 [(vd, 18), (va, 11), (g, 0)])
  | .imaxI32 vd va g => some (pack 0x5E000140 [(vd, 18), (va, 11), (g, 0)])
  | .imaxN32 vd va g => some (pack 0x5E000150 [(vd, 18), (va, 11), (g, 0)])
  | .rotl vd va g => some (pack 0x5E000160 [(vd, 18), (va, 11), (g, 0)])
  | .bfxI32 vd va g => some (pack 0x5E000170 [(vd, 18), (va, 11), (g, 0)])
  | .bfxN32 vd va g => some (pack 0x5E000180 [(vd, 18), (va, 11), (g, 0)])
  | .bfi vd va g => some (pack 0x5E000190 [(vd, 18), (va, 11), (g, 0)])
  | .iaddI32Sat vd va g => some (pack 0x5E0001A0 [(vd, 18), (va, 11), (g, 0)])
  | .iaddN32Sat vd va g => some (pack 0x5E0001B0 [(vd, 18), (va, 11), (g, 0)])
  | .isubI32Sat vd va g => some (pack 0x5E0001C0 [(vd, 18), (va, 11), (g, 0)])
  | .isubN32Sat vd va g => some (pack 0x5E0001D0 [(vd, 18), (va, 11), (g, 0)])
  | _ => none

/-- The words of OP 0x30 to 0x3F: vector float, packed and pixel (R233, R234). -/
def encodeFloat : Instr → Option Nat
  | .faddF32 vd va vb g => some (pack 0x60000000 [(vd, 18), (va, 11), (vb, 4), (g, 0)])
  | .fsubF32 vd va vb g => some (pack 0x62000000 [(vd, 18), (va, 11), (vb, 4), (g, 0)])
  | .fmulF32 vd va vb g => some (pack 0x64000000 [(vd, 18), (va, 11), (vb, 4), (g, 0)])
  | .ffmaF32 vd va vb g => some (pack 0x66000000 [(vd, 18), (va, 11), (vb, 4), (g, 0)])
  | .faddF16x2 vd va vb g => some (pack 0x68000000 [(vd, 18), (va, 11), (vb, 4), (g, 0)])
  | .fmulF16x2 vd va vb g => some (pack 0x6A000000 [(vd, 18), (va, 11), (vb, 4), (g, 0)])
  | .ffmaF16x2 vd va vb g => some (pack 0x6C000000 [(vd, 18), (va, 11), (vb, 4), (g, 0)])
  | .faddBf16x2 vd va vb g => some (pack 0x6E000000 [(vd, 18), (va, 11), (vb, 4), (g, 0)])
  | .fmulBf16x2 vd va vb g => some (pack 0x70000000 [(vd, 18), (va, 11), (vb, 4), (g, 0)])
  | .ffmaBf16x2 vd va vb g => some (pack 0x72000000 [(vd, 18), (va, 11), (vb, 4), (g, 0)])
  | .frnd vd va ty g => some (pack 0x74000000 [(vd, 18), (va, 11), (ty, 9), (g, 0)])
  | .frcp vd va ty g => some (pack 0x74000010 [(vd, 18), (va, 11), (ty, 9), (g, 0)])
  | .frsq vd va ty g => some (pack 0x74000020 [(vd, 18), (va, 11), (ty, 9), (g, 0)])
  | .fsqrt vd va ty g => some (pack 0x74000030 [(vd, 18), (va, 11), (ty, 9), (g, 0)])
  | .fexp2 vd va ty g => some (pack 0x74000040 [(vd, 18), (va, 11), (ty, 9), (g, 0)])
  | .flog2 vd va ty g => some (pack 0x74000050 [(vd, 18), (va, 11), (ty, 9), (g, 0)])
  | .fsin vd va ty g => some (pack 0x74000060 [(vd, 18), (va, 11), (ty, 9), (g, 0)])
  | .fcos vd va ty g => some (pack 0x74000070 [(vd, 18), (va, 11), (ty, 9), (g, 0)])
  | .fmin vd va ty g => some (pack 0x74000080 [(vd, 18), (va, 11), (ty, 9), (g, 0)])
  | .fmax vd va ty g => some (pack 0x74000090 [(vd, 18), (va, 11), (ty, 9), (g, 0)])
  | .fsubTwoAddress vd va ty g => some (pack 0x740000A0 [(vd, 18), (va, 11), (ty, 9), (g, 0)])
  | .hadd vd va vb g => some (pack 0x76000000 [(vd, 18), (va, 11), (vb, 4), (g, 0)])
  | .hsub vd va vb g => some (pack 0x78000000 [(vd, 18), (va, 11), (vb, 4), (g, 0)])
  | .hmad vd va vb g => some (pack 0x7A000000 [(vd, 18), (va, 11), (vb, 4), (g, 0)])
  | .hacs vd va vb g => some (pack 0x7C000000 [(vd, 18), (va, 11), (vb, 4), (g, 0)])
  | .hmul vd va g => some (pack 0x7E000000 [(vd, 18), (va, 11), (g, 0)])
  | .haddsI16x2 vd va g => some (pack 0x7E000010 [(vd, 18), (va, 11), (g, 0)])
  | .haddsN16x2 vd va g => some (pack 0x7E000020 [(vd, 18), (va, 11), (g, 0)])
  | .hsubsI16x2 vd va g => some (pack 0x7E000030 [(vd, 18), (va, 11), (g, 0)])
  | .hsubsN16x2 vd va g => some (pack 0x7E000040 [(vd, 18), (va, 11), (g, 0)])
  | .hminI16x2 vd va g => some (pack 0x7E000050 [(vd, 18), (va, 11), (g, 0)])
  | .hminN16x2 vd va g => some (pack 0x7E000060 [(vd, 18), (va, 11), (g, 0)])
  | .hmaxI16x2 vd va g => some (pack 0x7E000070 [(vd, 18), (va, 11), (g, 0)])
  | .hmaxN16x2 vd va g => some (pack 0x7E000080 [(vd, 18), (va, 11), (g, 0)])
  | .hshl vd va g => some (pack 0x7E000090 [(vd, 18), (va, 11), (g, 0)])
  | .hshrN16x2 vd va g => some (pack 0x7E0000A0 [(vd, 18), (va, 11), (g, 0)])
  | .hshrI16x2 vd va g => some (pack 0x7E0000B0 [(vd, 18), (va, 11), (g, 0)])
  | .hsel vd va g => some (pack 0x7E0000C0 [(vd, 18), (va, 11), (g, 0)])
  | .hpack vd va g => some (pack 0x7E0000D0 [(vd, 18), (va, 11), (g, 0)])
  | .pxavg vd va g => some (pack 0x7E0000E0 [(vd, 18), (va, 11), (g, 0)])
  | .pxsad vd va g => some (pack 0x7E0000F0 [(vd, 18), (va, 11), (g, 0)])
  | .pxclamp vd va g => some (pack 0x7E000100 [(vd, 18), (va, 11), (g, 0)])
  | .pxpack vd va g => some (pack 0x7E000110 [(vd, 18), (va, 11), (g, 0)])
  | .hunpackLoI16 vd va g => some (pack 0x7E000200 [(vd, 18), (va, 11), (g, 0)])
  | .hunpackHiI16 vd va g => some (pack 0x7E000210 [(vd, 18), (va, 11), (g, 0)])
  | .hunpackLoN16 vd va g => some (pack 0x7E000220 [(vd, 18), (va, 11), (g, 0)])
  | .hunpackHiN16 vd va g => some (pack 0x7E000230 [(vd, 18), (va, 11), (g, 0)])
  | .pxexpLo vd va g => some (pack 0x7E000240 [(vd, 18), (va, 11), (g, 0)])
  | .pxexpHi vd va g => some (pack 0x7E000250 [(vd, 18), (va, 11), (g, 0)])
  | _ => none

/-- The words of OP 0x40 to 0x4F: conversion and dot products (R231, R285). -/
def encodeConvert : Instr → Option Nat
  | .cvtSrcLow vd va dst src g =>
    some (pack 0x80000000 [(vd, 18), (va, 11), (dst, 7), (src, 4), (g, 0)])
  | .cvtSrcHigh vd va dst src g =>
    some (pack 0x82000000 [(vd, 18), (va, 11), (dst, 7), (src, 4), (g, 0)])
  | .rndt vd va fmt g => some (pack 0x84000000 [(vd, 18), (va, 11), (fmt, 7), (g, 0)])
  | .cvtTrl sa sb sub fs k => some (pack 0x86000000 [(sa, 17), (sb, 9), (sub, 5), (fs, 4), (k, 0)])
  | .cvtChk sa sub fs k => some (pack 0x88000000 [(sa, 17), (sub, 5), (fs, 4), (k, 0)])
  | .dot4I8 vd va vb g => some (pack 0x8A000000 [(vd, 18), (va, 11), (vb, 4), (g, 0)])
  | .dot4N8 vd va vb g => some (pack 0x8C000000 [(vd, 18), (va, 11), (vb, 4), (g, 0)])
  | .dot8I4 vd va vb g => some (pack 0x8E000000 [(vd, 18), (va, 11), (vb, 4), (g, 0)])
  | .dot8N4 vd va vb g => some (pack 0x90000000 [(vd, 18), (va, 11), (vb, 4), (g, 0)])
  | .dot4E4m3 vd va bs g => some (pack 0x92000000 [(vd, 18), (va, 11), (bs, 9), (g, 0)])
  | .dot4E5m2 vd va bs g => some (pack 0x92000080 [(vd, 18), (va, 11), (bs, 9), (g, 0)])
  | .dot8E2m1 vd va bs g => some (pack 0x92000100 [(vd, 18), (va, 11), (bs, 9), (g, 0)])
  | _ => none

/-- The words of OP 0x50 to 0x5F: memory, far, synchronisation, copies (R238, R239). -/
def encodeMemory : Instr → Option Nat
  | .ldsB32 vd va off g => some (pack 0xA0000000 [(vd, 18), (va, 11), (off, 4), (g, 0)])
  | .ldsB64 vd va off g => some (pack 0xA2000000 [(vd, 18), (va, 11), (off, 4), (g, 0)])
  | .stsB32 vs va off g => some (pack 0xA4000000 [(vs, 18), (va, 11), (off, 4), (g, 0)])
  | .stsB64 vs va off g => some (pack 0xA6000000 [(vs, 18), (va, 11), (off, 4), (g, 0)])
  | .ldgB32 vd va off g => some (pack 0xA8000000 [(vd, 18), (va, 11), (off, 4), (g, 0)])
  | .ldgB64 vd va off g => some (pack 0xAA000000 [(vd, 18), (va, 11), (off, 4), (g, 0)])
  | .stgB32 vs va off g => some (pack 0xAC000000 [(vs, 18), (va, 11), (off, 4), (g, 0)])
  | .stgB64 vs va off g => some (pack 0xAE000000 [(vs, 18), (va, 11), (off, 4), (g, 0)])
  | .ldk vd va off g => some (pack 0xB0000000 [(vd, 18), (va, 11), (off, 4), (g, 0)])
  | .stk vs va off g => some (pack 0xB2000000 [(vs, 18), (va, 11), (off, 4), (g, 0)])
  | .atom vd va op sp ty g =>
    some (pack 0xB4000000 [(vd, 18), (va, 11), (op, 8), (sp, 7), (ty, 5), (g, 0)])
  | .fld vd va cls scope fs sz =>
    some (pack 0xB6000000 [(vd, 18), (va, 11), (cls, 9), (scope, 6), (fs, 5), (sz, 2)])
  | .fst vs va cls scope fs sz =>
    some (pack 0xB6000001 [(vs, 18), (va, 11), (cls, 9), (scope, 6), (fs, 5), (sz, 2)])
  | .fldacq vd va cls scope fs sz =>
    some (pack 0xB6000002 [(vd, 18), (va, 11), (cls, 9), (scope, 6), (fs, 5), (sz, 2)])
  | .fstrel vs va cls scope fs set =>
    some (pack 0xB6000003 [(vs, 18), (va, 11), (cls, 9), (scope, 6), (fs, 5), (set, 2)])
  | .fatom vd va cls scope fs op ty =>
    some (pack 0xB8000000 [(vd, 18), (va, 11), (cls, 9), (scope, 6), (fs, 5), (op, 2), (ty, 0)])
  | .sld sd sa imm => some (pack 0xBA000000 [(sd, 17), (sa, 9), (imm, 0)])
  | .hurdleArrive va count g => some (pack 0xBC000000 [(va, 11), (count, 4), (g, 0)])
  | .hurdleWait va sb g => some (pack 0xBC040000 [(va, 11), (sb, 4), (g, 0)])
  | .waitst va sb g => some (pack 0xBC080000 [(va, 11), (sb, 4), (g, 0)])
  | .waitstGranary va sb g => some (pack 0xBC0C0000 [(va, 11), (sb, 4), (g, 0)])
  | .waitstFar va sb g => some (pack 0xBC100000 [(va, 11), (sb, 4), (g, 0)])
  | .barb g => some (pack 0xBC140000 [(g, 0)])
  | .cpy sa cls scope fs => some (pack 0xBE000000 [(sa, 17), (cls, 15), (scope, 12), (fs, 4)])
  | .cpyt sa cls scope fs => some (pack 0xBE000020 [(sa, 17), (cls, 15), (scope, 12), (fs, 4)])
  | .cpyq sa cls scope fs => some (pack 0xBE000040 [(sa, 17), (cls, 15), (scope, 12), (fs, 4)])
  | .land sa => some (pack 0xBE000060 [(sa, 17)])
  | .fnc set scope => some (pack 0xBE000080 [(set, 14), (scope, 11)])
  | _ => none

/-- The words of OP 0x60 to 0x6F: cube, planes, overlays, system (R236, R240). -/
def encodeSystem : Instr → Option Nat
  | .batonArm b w0 c g => some (pack 0xC0000000 [(b, 21), (w0, 13), (c, 5), (g, 0)])
  | .sign b g => some (pack 0xC0000010 [(b, 21), (g, 0)])
  | .cube sa mode fmt fs b =>
    some (pack 0xC2000000 [(sa, 17), (mode, 14), (fmt, 10), (fs, 4), (b, 0)])
  | .cubestn sa fs => some (pack 0xC4000000 [(sa, 17), (fs, 4)])
  | .cubestw sa fs => some (pack 0xC4000020 [(sa, 17), (fs, 4)])
  | .oprdy => some (pack 0xC4000040 [])
  | .accld acc va fs => some (pack 0xC6000000 [(acc, 17), (va, 10), (fs, 4)])
  | .accst acc va fs => some (pack 0xC6000100 [(acc, 17), (va, 10), (fs, 4)])
  | .accz acc fs => some (pack 0xC6000200 [(acc, 17), (fs, 4)])
  | .stepOpen g => some (pack 0xC8000000 [(g, 0)])
  | .stepClose m fs g => some (pack 0xC8004000 [(m, 13), (fs, 4), (g, 0)])
  | .upd sa fs g => some (pack 0xC8008000 [(sa, 17), (fs, 4), (g, 0)])
  | .merge fs g => some (pack 0xC800C000 [(fs, 4), (g, 0)])
  | .ovldImm sa idx fs => some (pack 0xCA000000 [(sa, 17), (idx, 9), (fs, 4)])
  | .ovldReg sa sb fs => some (pack 0xCA000020 [(sa, 17), (sb, 9), (fs, 4)])
  | .ovpin sa fs => some (pack 0xCA000040 [(sa, 17), (fs, 4)])
  | .ovunpin sa fs => some (pack 0xCA000060 [(sa, 17), (fs, 4)])
  | .ovev sa => some (pack 0xCA000080 [(sa, 17)])
  | .ovq sd st => some (pack 0xCA0000A0 [(sd, 17), (st, 9)])
  | .svc va num g => some (pack 0xCC000000 [(va, 18), (num, 4), (g, 0)])
  | .nop g => some (pack 0xCE000000 [(g, 0)])
  | .trap code g => some (pack 0xCE002000 [(code, 17), (g, 0)])
  | .bkpt g => some (pack 0xCE004000 [(g, 0)])
  | .eret g => some (pack 0xCE006000 [(g, 0)])
  | _ => none

/-- The words of OP 0x70 to 0x77: hint words (R225 to R228). -/
def encodeHint : Instr → Option Nat
  | .clauseHeader wait seta setb len yld rcv =>
    some (pack 0xF0000000 [(wait, 16), (seta, 12), (setb, 8), (len, 4), (yld, 3), (rcv, 2)])
  | .hintImm imm => some (pack 0xE0000000 [(imm, 0)])
  | .hintXv mp mn rm vc zi sat =>
    some (pack 0xE2000000 [(mp, 21), (mn, 20), (rm, 17), (vc, 10), (zi, 9), (sat, 8)])
  | .hintUwin k1 k2 k3 => some (pack 0xE4000000 [(k1, 23), (k2, 21), (k3, 19)])
  | .hintSched act => some (pack 0xE6000000 [(act, 23)])
  | _ => none

/-- The encoder, from the same layouts (R219, R220, R230 to R240). Events have no word. -/
def encode (i : Instr) : Option Nat :=
  encodeControl i <|> encodeCross i <|> encodeInteger i <|> encodeFloat i <|> encodeConvert i <|>
    encodeMemory i <|> encodeSystem i <|> encodeHint i

end Sys2Proof
end

