-- ==== Sys2Proof/Machine/Ctl.lean ====
section
/-! DEFINITION. The control space of a die: offsets, reset values and fields (R368 to R371, R391, R410). -/

namespace Sys2Proof.Machine

/-- The Reset value of the register at an offset (R369, R391, R410). -/
def ctlReset (off : Nat) : Word :=
  if off < 0x20 then 0x40
  else if off = 0x20 then 4
  else if off = 0x58 then 6
  else if off = 0x70 then 0xFAC688
  else if off = 0x74 then 0xFF00
  else if off = 0x8C then 0x2710
  else if off = 0x9C then 0x100
  else if off = 0xA8 then 7
  else if 0x100 ≤ off ∧ off < 0x1C0 then 0x400
  else 0

/-- The bits a plain write changes: reserved and read-only bits are left out (R368). -/
def ctlMask (off : Nat) : Nat :=
  if off < 0x20 then 0xFFFFF
  else if off = 0x20 then 0xFFFF
  else if 0x100 ≤ off ∧ off < 0x1C0 then 0xC001FFFF
  else if 0x1000 ≤ off ∧ off < 0x1C00 then 0x1FFFFFF
  else if 0x4000 ≤ off ∧ off < 0x4200 then
    if off % 32 = 0 then 0x0701FFFF else if off % 32 = 4 then 0xFFFFFFFF else 0xFFFFFFFF
  else if 0x4800 ≤ off ∧ off < 0x4900 then
    if off % 16 = 0 then 0xFFFFF001 else if off % 16 = 4 then 0x7FFF else 0
  else if off = 0x40 then 0xFFFF0000
  else if off = 0x44 then 0xFFFFFFFF
  else if off = 0x48 then 0xFFFFF
  else if off = 0x4C then 0xF
  else if off = 0x50 then 0xFFFFFFC0
  else if off = 0x54 then 0xFFFFFFFF
  else if off = 0x58 then 0x1F
  else if off = 0x5C then 0x1FFFF
  else if off = 0x64 then 0xFFFF0000
  else if off = 0x68 ∨ off = 0x6C then 0xFFFFFFFF
  else if off = 0x70 then 0xFFFFFF
  else if off = 0x74 then 0xFF
  else if 0x78 ≤ off ∧ off < 0x88 then 0xFFFFFFFF
  else if off = 0x88 then 3
  else if off = 0x8C then 0xFFFFF
  else if off = 0x90 ∨ off = 0x94 ∨ off = 0x98 then 0xFFFFFFFF
  else if off = 0x9C then 0x3FFFFF
  else if off = 0xA0 then 0xFFFFF000
  else if off = 0xA4 then 0xFFFFFFFF
  else if off = 0xA8 then 0x8000001F
  else if off = 0xAC then 0x1FFFF
  else if off = 0xB4 then 0xFFFFFFFF
  else if off = 0xB8 then 0
  else if off = 0xBC then 0xFFFF07FF
  else 0

/-- A control register of a die. -/
def Die.ctlGet (d : Die) (off : Nat) : Word := (smGet d.ctl off).getD (ctlReset off)

/-- A control register as a number. -/
abbrev Die.ctlNat (d : Die) (off : Nat) : Nat := (d.ctlGet off).toNat

/-- Put a value into a control register, whatever its access. -/
def Die.ctlSet (d : Die) (off : Nat) (v : Word) : Die := { d with ctl := smSet d.ctl off v }

/-- A field of a control register. -/
abbrev Die.ctlField (d : Die) (off lo len : Nat) : Nat := field (d.ctlNat off) lo len

/-- Put a value into a field of a control register. -/
def Die.ctlPut (d : Die) (off lo len v : Nat) : Die :=
  d.ctlSet off (w32 (putField (d.ctlNat off) lo len v))

/-- A write by system software: reserved and read-only bits keep their value (R368). -/
def Die.ctlWrite (d : Die) (off : Nat) (v : Nat) : Die :=
  let m := ctlMask off
  let old := d.ctlNat off
  d.ctlSet off (w32 ((old &&& (0xFFFFFFFF - m)) ||| (v &&& m)))

/-- A register pair, low word first. -/
def Die.ctl64 (d : Die) (off : Nat) : Nat := pair64 (d.ctlGet off) (d.ctlGet (off + 4))

/-- Put a register pair. -/
def Die.ctlSet64 (d : Die) (off v : Nat) : Die := (d.ctlSet off (lo32 v)).ctlSet (off + 4) (hi32 v)

/-- A register as the scheduling of this clock sees it: a write counts from the next core clock on (R368). -/
abbrev Die.schedNat (d : Die) (off : Nat) : Nat := ((smGet d.sched off).getD (ctlReset off)).toNat

/-- A field of a register as scheduling sees it. -/
abbrev Die.schedField (d : Die) (off lo len : Nat) : Nat := field (d.schedNat off) lo len

/-- A core clock begins: the writes made so far count (R368). -/
def Die.latch (d : Die) : Die := { d with sched := d.ctl }

/-- QNT of priority `p` in clocks (R369, R385). -/
def Die.quantum (d : Die) (p : Nat) : Nat :=
  let q := d.schedField (4 * p) 0 20
  (if q = 0 then 1 else q) * 1024

/-- IDLE in clocks; 0 disables idle swaps (R369). -/
def Die.idleDelay (d : Die) : Nat := d.schedField 0x20 0 16 * 1024

/-- POL of core index `i`: none follows the grids, otherwise the fixed policy (R369, R384). -/
def Die.corePol (d : Die) (i : Nat) : Option Bool :=
  let p := d.schedField (0x100 + 4 * i) 30 2
  if p = 1 then some false else if p = 2 then some true else none

/-- OFF of core index `i`. -/
def Die.coreOff (d : Die) (i : Nat) : Bool := bit (d.schedNat (0x100 + 4 * i)) 16

/-- The sheaf-age limit of core index `i` (R369). -/
def Die.sheafAge (d : Die) (i : Nat) : Nat := max 16 (d.schedField (0x100 + 4 * i) 0 16)

/-- The tenant-table entry `n`: TID, VAL, PCEIL, GLIM in bytes (R370). -/
def Die.tenTid (d : Die) (n : Nat) : Nat := d.schedField (0x4000 + 32 * n) 0 16
/-- VAL of entry `n`. -/
def Die.tenVal (d : Die) (n : Nat) : Bool := bit (d.schedNat (0x4000 + 32 * n)) 16
/-- PCEIL of entry `n`. -/
def Die.tenPceil (d : Die) (n : Nat) : Nat := d.schedField (0x4000 + 32 * n) 24 3
/-- GLIM of entry `n`, in bytes. -/
def Die.tenGlim (d : Die) (n : Nat) : Nat := d.schedNat (0x4004 + 32 * n) * 2 ^ 20
/-- CMASK of entry `n` holds active core `c`. -/
def Die.tenCore (d : Die) (n c : Nat) : Bool := bit (d.schedNat (0x4008 + 32 * n + 4 * (c / 32))) (c % 32)

/-- The valid tenant-table entry of a tenant. -/
def Die.tenSlot (d : Die) (t : Nat) : Option Nat :=
  (List.range 16).find? fun n => d.tenVal n && d.tenTid n == t

/-- The core belongs to the tenant. -/
def Die.tenOwns (d : Die) (t c : Nat) : Bool :=
  match d.tenSlot t with
  | some n => d.tenCore n c
  | none => false

/-- The Loft quota of a tenant on core index `i`; a change counts at once (R371). -/
def Die.loftQuota (d : Die) (i t : Nat) : Nat :=
  ((List.range 16).map fun j =>
    let w := d.ctlNat (0x1000 + 64 * i + 4 * j)
    if field w 0 16 = t then field w 16 9 else 0).sum

/-- TROOT of tenant-table entry `n`: the root table, when the space is enabled (R391, R393). -/
def Die.root (d : Die) (n : Nat) : Option Nat :=
  let r := d.ctl64 (0x4800 + 16 * n)
  if bit r 0 then some (field r 12 35 * 4096) else none

/-- TMS in microseconds (R391). -/
def Die.tms (d : Die) : Nat := max 1 (d.ctlField 0x8C 0 20)

/-- HANGT in clocks; 0 disables detection (R391). -/
def Die.hang (d : Die) : Nat := d.ctlField 0x9C 0 16 * 1024

/-- The records of the fault ring (R391). -/
def Die.faultSlots (d : Die) : Nat :=
  let n := d.ctlField 0x58 0 5
  2 ^ (if 6 ≤ n ∧ n ≤ 16 then n else 6)

/-- The slots of the request ring (R410). -/
def Die.svcSlots (d : Die) : Nat :=
  let n := d.ctlField 0xA8 0 5
  2 ^ (if 7 ≤ n ∧ n ≤ 16 then n else 7)

/-- Slots written and not yet consumed (R410). -/
def Die.svcUsed (d : Die) : Nat := (d.ctlNat 0xB0 + 2 ^ 17 - d.ctlNat 0xAC) % 2 ^ 17

/-- Records written and not yet read (R391). -/
def Die.faultUsed (d : Die) : Nat := (d.ctlNat 0x60 + 2 ^ 17 - d.ctlNat 0x5C) % 2 ^ 17

/-- MAP(p): the switch plane that carries plane `p` (R391, R409). -/
def Die.planeMap (d : Die) (p : Nat) : Nat := d.ctlField 0x70 (3 * p) 3

/-- DRAIN bit `p` (R391). -/
def Die.drain (d : Die) (p : Nat) : Bool := bit (d.ctlNat 0x74) p

/-- ISL of IDENT (R410, R411). -/
def Die.isl (d : Die) : Nat := d.ctlField 0xBC 16 16
/-- DEV of IDENT. -/
def Die.dev (d : Die) : Nat := d.ctlField 0xBC 0 11

/-- The die of a core number (R10). -/
abbrev coreDie (c : Nat) : Nat := c / 48

/-- Die `d` of the package (an absent number reads as a die at reset). -/
def State.die (s : State) (d : Nat) : Die := s.dies.getD d Die.reset

/-- Change die `d`. -/
def State.modDie (s : State) (d : Nat) (f : Die → Die) : State := { s with dies := listMod s.dies d f }

end Sys2Proof.Machine
end

