-- ==== Sys2Proof/Machine/Ops.lean ====
section
/-! DEFINITION. The shared operations: focus, lanes, registers, undefined values, memory spaces,
fetch, traps.  Taking a trap stands here once: `sysTrap` for the traps that go to system software
(R345), `kernelTrap` for the three that go to the kernel's handler (R341), `returnFrom` beside them. -/

namespace Sys2Proof.Machine

/-- What every step answers. -/
abbrev Res := Host.Outcome State Fault Refusal

/-- A trap to system software (R345, R346), with what the fault record holds (R400). -/
structure TrapInfo where
  cause : Nat
  detail : Nat := 0
  reason : Nat := 0
  addr : Nat := 0
  loc : Nat := 0
  /-- the lane mask of the record, the path's by default -/
  mask : Option Nat := none
  deriving DecidableEq, Repr

/-- How the issue of an instruction ends: it takes effect, it stalls and issues again (`wait` where the
stalled issue leaves a mark), or it traps precisely (R346: nothing of it took effect). -/
inductive Act where
  | go (s : State)
  | stall
  | wait (s : State)
  | trap (t : TrapInfo)
  deriving DecidableEq, Repr

/-- A trap that records nothing but its cause. -/
abbrev Act.cause (c : Nat) : Act := .trap { cause := c }

/-- Trap unless `ok`, and otherwise go on (R241: only the first failing check acts). -/
def Act.require (ok : Bool) (c : Nat) (k : Act) : Act := if ok then k else .cause c

/-! ### Focus -/

/-- Put the focused warp and block back among the others. -/
def State.unfocus (s : State) : State :=
  match s.cur with
  | none => s
  | some (b, w) =>
    { s with blocks := smSet s.blocks b { s.blk with warps := smSet s.blk.warps w s.w },
             cur := none, blk := Block.empty, w := Warp.empty, im := 0 }

/-- Put a block and one of its warps in focus. -/
def State.focus (s : State) (b w : Nat) : State :=
  let s := s.unfocus
  match smGet s.blocks b with
  | none => s
  | some bk =>
    match smGet bk.warps w with
    | none => s
    | some wp =>
      { s with blocks := smDel s.blocks b, blk := { bk with warps := smDel bk.warps w }, w := wp,
               cur := some (b, w) }

/-- Change a block, in focus or not. -/
def State.modBlock (s : State) (b : Nat) (f : Block → Block) : State :=
  if s.cur.map (·.1) = some b then { s with blk := f s.blk } else { s with blocks := smMod s.blocks b f }

/-- Change a warp, in focus or not. -/
def State.modWarp (s : State) (b w : Nat) (f : Warp → Warp) : State :=
  if s.cur = some (b, w) then { s with w := f s.w }
  else s.modBlock b fun k => { k with warps := smMod k.warps w f }

/-- A warp, in focus or not. -/
def State.warp? (s : State) (b w : Nat) : Option Warp :=
  if s.cur = some (b, w) then some s.w
  else if s.cur.map (·.1) = some b then smGet s.blk.warps w
  else (smGet s.blocks b).bind fun k => smGet k.warps w

/-- A block, in focus or not; the block in focus lacks the focused warp. -/
def State.block? (s : State) (b : Nat) : Option Block :=
  if s.cur.map (·.1) = some b then some s.blk else smGet s.blocks b

/-- Every warp of the focused block, the focused one among them. -/
def State.blkWarps (s : State) : SMap Warp := smSet s.blk.warps s.w.wid s.w

/-- A packet of zeros: what a block with no grid record would run under. -/
def Packet.zero : Packet where
  cont := 0
  gx := 0
  gy := 0
  gz := 0
  t := 0
  wc := 0
  pol := 0
  roles := false
  plane := false
  nc := 0
  nm := 0
  ne := 0
  vp := 0
  vc := 0
  vm := 0
  ve := 0
  ub := 0
  shk := 0
  acc := 0
  z := 0
  spl := 0
  e := 0
  prio := 0
  chunk := 0
  diem := 0
  gran := 0
  seed := 0
  cnta := 0
  waita := 0
  waitv := 0
  reta := 0
  retv := 0
  csa := 0
  cslen := 0
  args := []

/-- The grid of the focused block. -/
def State.grid? (s : State) : Option Grid := smGet s.grids s.blk.grid

/-- The launch packet of the focused block's grid. -/
def State.pkt (s : State) : Packet := (s.grid?.map (·.packet)).getD Packet.zero

/-- The launch packet of a block's grid. -/
def State.pktOf (s : State) (b : Block) : Packet := ((smGet s.grids b.grid).map (·.packet)).getD Packet.zero

/-- Warp width of a packet (R373). -/
def Packet.width (p : Packet) : Nat := if p.wc = 0 then 16 else if p.wc = 1 then 32 else 64

/-- The warp width W of the focused warp (R18). -/
abbrev State.W (s : State) : Nat := s.w.lanes.length

/-- The core a block is on, or was last on. -/
def Block.onCore (b : Block) : Nat := b.core.getD b.lastCore

/-- The core a warp of a block runs or last ran on (R27). -/
def Block.coreOf (b : Block) (w : Warp) : Nat := if w.upper then b.onCore + 1 else b.onCore

/-- The core of the focused warp. -/
def State.core (s : State) : Nat := s.blk.coreOf s.w

/-- The die of the focused warp. -/
def State.dieNo (s : State) : Nat := coreDie s.core

/-- Clock of the focused warp's die (R63). -/
def State.clock (s : State) : Nat := (s.die s.dieNo).clock

/-! ### Undefined values (R7) -/

/-- The `k`-th undefined word of this step. (DESIGN CHOICE, log 4) -/
def State.undef (s : State) (k : Nat) : Word := Config.freeWord (s.fresh * 2 ^ 20 + k)

/-- The `k`-th undefined choice of this step. (DESIGN CHOICE, log 4) -/
def State.choice (s : State) (k : Nat) : Nat := Config.freeNat (s.fresh * 2 ^ 20 + k)

/-- The undefined values of later steps are others. -/
def State.bump (s : State) : State := { s with fresh := s.fresh + 1 }

/-- A number nothing else has, and the state in which it is used up. -/
def State.newId (s : State) : Nat × State := (s.serial, { s with serial := s.serial + 1 })

/-! ### Lanes (R36 to R39) -/

/-- The lane's thread is neither exited nor vacant. -/
def Lane.live (l : Lane) : Bool := l.st != .exited && l.st != .vacant

/-- The lane is on some path: runnable, and not waiting at a BARB (R312). -/
def Lane.onPath (l : Lane) : Bool := l.st == .runnable && l.arrived.isNone

/-- Predicate `n` of a lane; p0 reads true (R59). -/
def Lane.pget (l : Lane) (n : Nat) : Bool := n == 0 || l.p.getLsbD n

/-- Write predicate `n`; p0 is discarded (R59). -/
def Lane.pput (l : Lane) (n : Nat) (v : Bool) : Lane :=
  if n = 0 then l
  else { l with p := if v then l.p ||| BitVec.ofNat 16 (2 ^ n) else l.p &&& ~~~(BitVec.ofNat 16 (2 ^ n)) }

/-- Vector register `n` as stored; a register of R16 that nothing has written is zero. -/
def Lane.vraw (l : Lane) (n : Nat) : Word := (smGet l.v n).getD 0

/-- Write vector register `n`. -/
def Lane.vput (l : Lane) (n : Nat) (x : Word) : Lane := { l with v := smSet l.v n x }

/-- Write several vector registers. -/
def Lane.vputs (l : Lane) : List Nat → List Word → Lane
  | n :: ns, x :: xs => (l.vput n x).vputs ns xs
  | _, _ => l

/-- Change every lane of the focused warp. -/
def State.mapLanes (s : State) (f : Lane → Lane) : State :=
  { s with w := { s.w with lanes := s.w.lanes.map f } }

/-- The lane issues (R39). -/
def State.issues (s : State) (l : Lane) : Bool := bit s.im l.id

/-- Change the issuing lanes. -/
def State.mapIm (s : State) (f : Lane → Lane) : State :=
  s.mapLanes fun l => if s.issues l then f l else l

/-- The issuing lanes, in ascending order. -/
def State.issuing (s : State) : List Lane := s.w.lanes.filter s.issues

/-- The first issuing lane: it carries the path's PC, depth, clause and hint run. -/
def State.lead (s : State) : Option Lane := s.issuing.head?

/-- The hint run the issuing path has issued (R224). -/
def State.hint (s : State) : HintRun := (s.lead.map (·.hint)).getD {}

/-- The clause the issuing path is in. -/
def State.clause (s : State) : Option Clause := s.lead.bind (·.clause)

/-- PC of the issuing path. -/
def State.pc (s : State) : Word := (s.lead.map (·.pc)).getD 0

/-- The mask predicate of a vector prefix holds (R226). -/
def State.masked (s : State) (l : Lane) : Bool :=
  match s.hint.xv with
  | none => true
  | some x => l.pget x.mp != (x.mn == 1)

/-- The lane is active under guard `g` (R39). -/
def State.active (s : State) (g : Nat) (l : Lane) : Bool := s.issues l && l.pget g && s.masked l

/-- The active lanes, in ascending order (R6). -/
def State.actives (s : State) (g : Nat) : List Lane := s.w.lanes.filter (s.active g)

/-- Some issuing lane has its guard true (R242). -/
def State.acts (s : State) (g : Nat) : Bool := s.issuing.any (·.pget g)

/-- The lanes of a list as a mask. -/
def maskOf (ls : List Lane) : Nat := bitsOf (ls.map (·.id))

/-- Zero-inactive of the prefix (R226). -/
def State.zi (s : State) : Bool := (s.hint.xv.map (·.zi)) == some 1

/-! ### Registers -/

/-- A window of R124 covers register `n` of a lane. -/
def Window.covers (w : Window) (lane n : Nat) : Bool := w.lanes.contains lane && w.regs.contains n

/-- Vector register `n` of a lane as an instruction reads it: a register whose write is still to come
(R45, R259), or which a window of R124 covers, reads as an undefined value. -/
def State.vget (s : State) (l : Lane) (n : Nat) : Word :=
  if (s.w.pend.any fun p => p.lane == l.id && p.reg == n) || s.w.windows.any (fun x => x.covers l.id n) then
    s.undef (l.id * 128 + n)
  else l.vraw n

/-- The warp as the issuing word reads it: slot B's word reads what stood before slot A's (R243). -/
def Warp.seen (w : Warp) : Warp :=
  match w.view with
  | none => w
  | some v => { w with s := v.s, flags := v.flags }

/-- The lanes with H set that slot B's word sees (R243). -/
def Warp.handlingSeen (w : Warp) : Nat := (w.view.map (·.handling)).getD 0

/-- Uniform register `n` as an instruction reads it (R58, R243). -/
def State.sget (s : State) (n : Nat) : Word := (smGet s.w.seen.s n).getD 0

/-- Write uniform register `n`. -/
def State.sput (s : State) (n : Nat) (x : Word) : State := { s with w := { s.w with s := smSet s.w.s n x } }

/-- Write uniform registers from `n` up. -/
def State.sputs (s : State) (n : Nat) : List Word → State
  | [] => s
  | x :: r => (s.sput n x).sputs (n + 1) r

/-- The bank of the `i`-th uniform field, from 1 (R58, R227). -/
def State.bank (s : State) (i : Nat) : Nat :=
  match s.hint.uwin with
  | none => 0
  | some (a, b, c) => if i = 1 then a else if i = 2 then b else c

/-- The register that the `i`-th uniform field names (R222). -/
def State.sname (s : State) (i f : Nat) : Nat := 256 * s.bank i + f

/-- The value of the register that the `i`-th uniform field names. -/
def State.sfld (s : State) (i f : Nat) : Word := s.sget (s.sname i f)

/-- Write vector destinations `ds` in every issuing lane as R244 gives: the active lanes take `f`, the
others keep their values or, with ZI, take zero. -/
def State.vwrite (s : State) (g : Nat) (ds : List Nat) (f : Lane → List Word) : State :=
  s.mapIm fun l =>
    if s.active g l then l.vputs ds (f l)
    else if s.zi then l.vputs ds (ds.map fun _ => 0)
    else l

/-- Write predicate `d` in every issuing lane as R244 gives. -/
def State.pwrite (s : State) (g d : Nat) (f : Lane → Bool) : State :=
  s.mapIm fun l =>
    if s.active g l then l.pput d (f l)
    else if s.zi then l.pput d false
    else l

/-! ### Moving on -/

/-- The lane goes on to the next word (R215, R217), no longer at its clause's first. After the last word of an overlay of 256 KiB
the PC has bit 18 set, and a fetch there takes the trap of R76. (DESIGN CHOICE, log 39) -/
def Lane.next (l : Lane) : Lane :=
  { l with
    pc := l.pc + 4
    clause := l.clause.bind fun c => if c.left ≤ 1 then none else some { c with left := c.left - 1, wait := 0 }
    hint := {} }

/-- The lane moves to a clause header. -/
def Lane.goto (l : Lane) (pc : Word) : Lane := { l with pc := pc, clause := none, hint := {}, yielded := false }

/-- Every issuing lane goes on. -/
def State.advance (s : State) : State := s.mapIm Lane.next

/-- Where a trap resumes: the first word of the hint run, or the word (R224). -/
def Lane.rewind (l : Lane) : Lane :=
  match l.hint.start with
  | none => { l with hint := {} }
  | some p =>
    { l with
      pc := p
      clause := l.clause.map fun c => { c with left := c.left + (l.pc - p).toNat / 4 }
      hint := {} }

/-- Push a return entry (R245). -/
def Lane.push (l : Lane) (r : Ret) : Lane := { l with chain := r :: l.chain, depth := l.depth + 1 }

/-- Pop a return entry into the PC (R247, R343). -/
def Lane.pop (l : Lane) : Lane :=
  match l.chain with
  | [] => l
  | r :: rest => { l with chain := rest, depth := l.depth - 1, pc := r.pc, clause := r.clause, hint := {} }

/-! ### Program counters and fetch (R74 to R76) -/

/-- Overlay index of a PC. -/
abbrev pcOvx (pc : Word) : Nat := pc.toNat / 2 ^ 24

/-- Word offset of a PC. -/
abbrev pcWord (pc : Word) : Nat := pc.toNat % 2 ^ 24 / 4

/-- The PC of a word offset in an overlay. -/
def mkPc (ovx woff : Nat) : Word := w32 (ovx * 2 ^ 24 + woff * 4)

/-- The overlay-table entries of a core, with their entry numbers (R77). -/
def State.loftOf (s : State) (core : Nat) : List (Nat × LoftEntry) :=
  (s.loft.filter fun e => e.1 / 256 == core).map fun e => (e.1 % 256, e.2)

/-- The content hash the grid's container gives for an overlay index (R81, R92). -/
def Grid.dirHash (g : Grid) (ovx : Nat) : Option Nat := (g.dir[ovx]?).map (·.hash)

/-- The entry that holds the code of a grid's overlay on a core, when it can be fetched. -/
def State.codeOf (s : State) (core tenant gid ovx : Nat) : Option LoftEntry :=
  match (smGet s.grids gid).bind (·.dirHash ovx) with
  | none => none
  | some h =>
    ((s.loftOf core).find? fun e =>
      e.2.tenant == tenant && e.2.hash == h && (e.2.st == .resident || e.2.st == .evictPending)).map (·.2)

/-- What a fetch finds. -/
inductive Fetch where
  | word (w : Nat)
  | past
  | absent
  deriving DecidableEq, Repr

/-- The word at a PC in an overlay's code (R76). -/
def LoftEntry.wordAt (e : LoftEntry) (pc : Word) : Fetch :=
  match e.words[pcWord pc]? with
  | some w => .word w
  | none => .past

/-- The word at a PC, for the focused warp. -/
def State.fetch (s : State) (pc : Word) : Fetch :=
  match s.codeOf s.core s.blk.tenant s.blk.grid (pcOvx pc) with
  | none => .absent
  | some e => e.wordAt pc

/-- The safe bit of a PC for the focused warp: loaded with its overlay (R90, R93). -/
def State.safeBit (s : State) (pc : Nat) : Bool :=
  match s.codeOf s.core s.blk.tenant s.blk.grid (pc / 2 ^ 24) with
  | none => false
  | some e => e.safe.any fun r => decide (r.1 ≤ pc % 2 ^ 24) && decide (pc % 2 ^ 24 < r.1 + 4 * r.2)

/-- Where a branch of `off` words lands (R223): the Loft-range trap, illegal-instruction, or a header. -/
def State.branchTo (s : State) (off : Int) : Nat ⊕ Word :=
  let pc := s.pc
  let t : Int := (pcWord pc : Int) + 1 + off
  if t < 0 then .inl 0x14
  else
    match s.fetch (mkPc (pcOvx pc) t.toNat) with
    | .word w => if isHeader w then .inr (mkPc (pcOvx pc) t.toNat) else .inl 0x10
    | _ => .inl 0x14

/-! ### Traps (R341 to R346) -/

/-- A trap to system software (R345): the path stops at its resumption point and the block is held for
swap-out with what the fault record will say. -/
def State.sysTrap (s : State) (t : TrapInfo) : State :=
  let s' := s.mapIm Lane.rewind
  { s' with blk := { s'.blk with held := s'.blk.held ++
      [{ cause := t.cause, detail := t.detail, reason := t.reason, wid := s.w.wid, pc := s'.pc,
         mask := t.mask.getD s.im, addr := t.addr, loc := t.loc, recorded := false }] } }

/-- The entry of the kernel's handler (R92, R341). -/
def State.handler (s : State) : Word := mkPc 0 ((s.grid?.map (·.miss)).getD 0)

/-- The handler entry holds a clause header. -/
def State.handlerOk (s : State) : Bool :=
  match s.fetch s.handler with
  | .word w => isHeader w
  | _ => false

/-- The frame of a kernel-level trap (R342). -/
structure Frame where
  cause : Nat
  arg0 : Word
  arg1 : Word
  treg : Nat
  tok : Nat
  deriving DecidableEq, Repr

/-- Take a kernel-level trap in the lanes of mask `tm` (R341). `resume` puts a trapping lane at its
resumption point and `others` moves the other issuing lanes. -/
def State.kernelTrap (s : State) (tm : Nat) (resume others : Lane → Lane) (f : Frame) : Act :=
  let ts := s.w.lanes.filter fun l => bit tm l.id
  if ts.any (·.h) then .cause 0x1A
  else if s.w.lanes.any fun l => !bit tm l.id && (l.live && l.h || bit s.w.handlingSeen l.id) then .stall
  else if ts.any fun l => l.depth == 255 then .cause 0x13
  else if !s.handlerOk then .cause 0x10
  else
    let pc := s.handler
    let s1 := s.mapLanes fun l =>
      if bit tm l.id then
        let r := resume l
        { (l.push { pc := r.pc, clause := r.clause }).goto pc with h := true, arrived := none, join := none }
      else if s.issues l then others l
      else l
    .go (s1.sputs 42 [f.arg0, f.arg1, w32 (f.treg * 2 ^ 16 + f.tok % 2 ^ 16), w32 f.cause])

/-- Return from a kernel-level trap in one lane (R343). -/
def Lane.returnFrom (l : Lane) : Lane := { l.pop with h := false }

/-! ### On-chip memory spaces (R65 to R70, R298) -/

/-- The memory number of a block's shared memory, for its undefined bytes. -/
def sharedTag (blk : Nat) : Nat := 16 + 2 * blk

/-- The memory number of a thread's spill window. -/
def spillTag (blk tid : Nat) : Nat := 17 + 2 * (blk * 4096 + tid)

/-- The number of the memory behind a space. -/
def State.memTag (s : State) : Space → Nat
  | .shared => sharedTag s.blk.key
  | .granary d => d
  | .spill l => match s.w.lanes[l]? with
    | some x => spillTag s.blk.key x.tid
    | none => 0

/-- An on-chip byte has an uncorrectable error. -/
def State.chipBad (s : State) (sp : Space) (a : Nat) : Bool := s.badChip.contains (s.memTag sp, a)

/-- The byte a space holds, the store queue left aside. -/
def State.rawByte (s : State) (sp : Space) (a : Nat) : Byte :=
  match sp with
  | .shared => memByte s.blk.shared (sharedTag s.blk.key) a
  | .granary d => memByte (s.die d).granary d a
  | .spill l =>
    match s.w.lanes[l]? with
    | some x => memByte x.spill (spillTag s.blk.key x.tid) a
    | none => 0

/-- A queued store covers a byte. -/
def QStore.covers (q : QStore) (sp : Space) (a : Nat) : Bool :=
  q.space == sp && decide (q.addr ≤ a) && decide (a < q.addr + q.bytes.length)

/-- A byte as a load of the focused warp reads it: from its youngest queued store that covers it, and
from memory otherwise (R298). -/
def State.loadByte (s : State) (sp : Space) (a : Nat) : Byte :=
  match s.w.queue.reverse.find? fun q => q.covers sp a with
  | some q => q.bytes.getD (a - q.addr) 0
  | none => s.rawByte sp a

/-- The little-endian number of `n` bytes as a load reads it. -/
def State.loadNat (s : State) (sp : Space) (a n : Nat) : Nat :=
  leNat ((List.range n).map fun i => s.loadByte sp (a + i))

/-- Perform a store in its space (R298). -/
def State.poke (s : State) (sp : Space) (a : Nat) (bs : List Byte) : State :=
  match sp with
  | .shared => { s with blk := { s.blk with shared := memWrite s.blk.shared a bs } }
  | .granary d => s.modDie d fun x => { x with granary := memWrite x.granary a bs }
  | .spill l =>
    { s with w := { s.w with lanes := listMod s.w.lanes l fun x => { x with spill := memWrite x.spill a bs } } }

/-- A grid and its ancestors (R70). -/
def State.ancestors (s : State) : Nat → Nat → List Grid
  | 0, _ => []
  | n + 1, gid =>
    match smGet s.grids gid with
    | none => []
    | some g =>
      g :: (match g.parent with
        | none => []
        | some (p, _) => s.ancestors n p)

/-- An access of `n` bytes lies in the Granary allocation of the grid or of an ancestor (R70). -/
def State.granaryOk (s : State) (gid d a n : Nat) : Bool :=
  decide (a + n ≤ 96 * 2 ^ 20) &&
  (s.ancestors 11 gid).any fun g => g.dies.any fun x =>
    x.die == d && decide (x.off ≤ a) && decide (a + n ≤ x.off + g.packet.gran)

/-- Bytes of the block's shared memory (R69). -/
def State.sharedSize (s : State) : Nat := s.pkt.shk * 1024

/-- An access of `n` bytes lies in the block's shared memory (R69). -/
def State.sharedOk (s : State) (a n : Nat) : Bool := decide (a + n ≤ s.sharedSize)

/-! ### Far memory and translation (R71, R159, R393 to R397)

A far byte is held under its locator: TIER at bit 58, NODE at bit 47, then the address (R394). -/

/-- The memory number of far memory. -/
abbrev farTag : Nat := 4
/-- The memory number of host memory as the host processors see it (R187). -/
abbrev hostTag : Nat := 5

/-- The locator of an address; this package under another package's name is this package. -/
def State.locator (s : State) (tier node a : Nat) : Nat :=
  if tier = 1 ∧ node = (s.die 0).dev then a else tier * 2 ^ 58 + node * 2 ^ 47 + a

/-- The address lies in this package's stacks. -/
abbrev locHere (l : Nat) : Bool := decide (l < 2 ^ 47)
/-- The address is host memory. -/
abbrev locHost (l : Nat) : Bool := l / 2 ^ 58 == 2
/-- The target of an access: package or endpoint (R163). -/
abbrev locTarget (l : Nat) : Nat := l / 2 ^ 47
/-- The 64-byte line of a byte. -/
abbrev lineOf (l : Nat) : Nat := l / 64
/-- The line has an uncorrectable error (R424). -/
def State.bad (s : State) (l n : Nat) : Bool :=
  s.badLines.any fun x => decide (lineOf l ≤ x) && decide (x ≤ lineOf (l + n - 1))

/-- The page of a migration holds a far address. -/
def Migration.has (m : Migration) (l : Nat) : Bool := decide (m.src ≤ l) && decide (l < m.src + m.size)

/-- The line of a far address has switched over to its new home (R188, R406). -/
def Migration.left (m : Migration) (l : Nat) : Bool :=
  m.has l && (m.switched || m.gone.contains (lineOf l - lineOf m.src))

/-- Where the data of a far address is: its new home once its page or line has switched over (R406), and on
from there where that has moved too. -/
def homeFrom (moves : List Migration) : Nat → Nat → Nat
  | 0, l => l
  | n + 1, l =>
    match moves.find? (·.left l) with
    | some m => homeFrom moves n (m.dst + (l - m.src))
    | none => l

/-- The present home of a far address: each die moves one page at a time. -/
def State.home (s : State) (l : Nat) : Nat := homeFrom s.moves 4 l

/-- A locator's line is frozen in a page that moves, or by a repair. -/
def State.iced (s : State) (l : Nat) : Bool := s.moves.any fun m => m.has l && m.held.contains (lineOf l - lineOf m.src)

/-- The line is frozen, where an access to it arrives or at its new home: the access stalls (R188, R406, R424). -/
def State.frozen (s : State) (l : Nat) : Bool := s.iced l || s.iced (s.home l)

/-- A far byte. -/
def State.farByte (s : State) (l : Nat) : Byte := memByte s.far farTag (s.home l)

/-- Far bytes. -/
def State.farBytes (s : State) (l n : Nat) : List Byte := (List.range n).map fun i => s.farByte (l + i)

/-- The little-endian far number of `n` bytes. -/
def State.farNat (s : State) (l n : Nat) : Nat := leNat (s.farBytes l n)

/-- Far memory with bytes written from an address up, each at its home. -/
def State.farStore (s : State) (m : Mem) (l : Nat) : List Byte → Mem
  | [] => m
  | b :: r => s.farStore (smSet m (s.home l) b) (l + 1) r

/-- Write far bytes as island parties see them. A write to host memory becomes visible to host
processors later, when the endpoint has performed it (R174, R187). -/
def State.farPut (s : State) (l : Nat) (bs : List Byte) : State :=
  { s with far := s.farStore s.far l bs }

/-- The permission an access needs (R395): 0 RD, 1 WR, 2 RD, WR and AT. -/
def permOk (need e : Nat) : Bool :=
  if need = 0 then bit e 7 else if need = 1 then bit e 6 else bit e 7 && bit e 6 && bit e 5

/-- How a walk ends: a leaf with the page's base and size, or a fault with its detail byte and the
locator of the last entry read (R400). -/
inductive WalkEnd where
  | leaf (base size entry : Nat)
  | fault (detail loc : Nat)
  deriving DecidableEq, Repr

/-- A page-table entry is malformed at a level (R394). -/
def pteBad (level e : Nat) : Bool :=
  let kind := field e 60 2
  let tier := field e 58 2
  let node := field e 47 11
  let addr := field e 12 35
  kind == 3 || tier == 3 || field e 62 2 != 0 || field e 8 4 != 0 || field e 0 5 != 0 ||
  (tier == 0 && node != 0) || (kind == 1 && (tier != 0 || field e 5 3 != 0 || level == 0)) ||
  (kind == 2 && (decide (3 ≤ level) || field e 12 4 != 0 ||
    (level == 2 && field e 16 14 != 0) || (level == 1 && field e 16 5 != 0) ||
    (decide (tier ≤ 1) && decide (2 ^ 27 ≤ addr))))

/-- The shift of the index of a level. -/
def levelShift (level : Nat) : Nat := if level = 0 then 16 else 12 + 9 * level

/-- Walk the tables from a level down (R393, R396). The number is one more than the level. -/
def State.walkFrom (s : State) (need va : Nat) : Nat → Nat → WalkEnd
  | 0, _ => .fault 3 0
  | level + 1, table =>
    let idx := if level = 0 then field va 16 5 else field va (levelShift level) 9
    let at' := table + 8 * idx
    let lc := at' / 2 ^ 16 * 2 ^ 16
    if s.bad at' 8 then .fault (level * 16 + 4) lc
    else
      let e := s.farNat at' 8
      if pteBad level e then .fault (level * 16 + 3) lc
      else if field e 60 2 = 0 then .fault (level * 16 + 1) lc
      else if field e 60 2 = 1 then s.walkFrom need va level (field e 12 35 * 4096)
      else if permOk need e then
        let size := 2 ^ levelShift level
        .leaf (va / size * size) size e
      else .fault (level * 16 + 2) lc

/-- The locator of a byte under a leaf. -/
def State.leafLoc (s : State) (size e va : Nat) : Nat :=
  s.locator (field e 58 2) (field e 47 11) (field e 12 35 * 4096 + va % size)

/-- A translation: the locator, or the fault with detail and locator of the last entry. -/
inductive Trans where
  | ok (loc : Nat)
  | bad (detail loc : Nat)
  deriving DecidableEq, Repr

/-- Translate an address for a tenant on a die: a kept translation first, then a walk (R393 to R396).
A tenant with no enabled root stops as not present at level 4. -/
def State.translate (s : State) (d tenant need va : Nat) : Trans :=
  match (s.die d).tenSlot tenant with
  | none => .bad 0x41 0
  | some n =>
    match s.tlb.find? fun t => t.die == d && t.slot == n && decide (t.va ≤ va) && decide (va < t.va + t.size)
        && permOk need t.leaf with
    | some t => .ok (s.leafLoc t.size t.leaf va)
    | none =>
      match (s.die d).root n with
      | none => .bad 0x41 0
      | some r =>
        match s.walkFrom need va 5 r with
        | .leaf _ size e => .ok (s.leafLoc size e va)
        | .fault dt lc => .bad dt lc

/-- Keep the translation that an access used (R396). -/
def State.keep (s : State) (d tenant need va : Nat) : State :=
  match (s.die d).tenSlot tenant with
  | none => s
  | some n =>
    if s.tlb.any fun t => t.die == d && t.slot == n && decide (t.va ≤ va) && decide (va < t.va + t.size) then s
    else
      match (s.die d).root n with
      | none => s
      | some r =>
        match s.walkFrom need va 5 r with
        | .leaf base size e => { s with tlb := s.tlb ++ [⟨d, n, base, size, e⟩] }
        | .fault _ _ => s

/-- A far address is in the 57-bit space (R71). -/
abbrev vaOk (va : Nat) : Bool := decide (va < 2 ^ 57)

/-- Switch plane of a line (R161), before MAP. -/
def planeOf (a : Nat) : Nat := field a 6 3 ^^^ field a 9 3 ^^^ field a 12 3

/-- The stack that holds a line of this package: not visible (R394), so a free choice per line.
(DESIGN CHOICE, log 28) -/
def stackOf (loc : Nat) : Nat := Config.freeNat (2 ^ 70 + lineOf loc) % 8

/-- The die that a stack is attached to: stacks 2d and 2d + 1 to die d (R8). -/
abbrev stackDie (stack : Nat) : Nat := stack / 2

/-- The die is isolated, and the base die of one of its two stacks does not answer (R426). -/
def Die.mute (d : Die) (side : Nat) : Bool := d.isolated && !(d.baseUp.getD side true)

/-- The stack of a line is attached to an isolated die, and its base die does not answer (R426). -/
def State.silent (s : State) (loc : Nat) : Bool :=
  (s.dies.any (·.isolated)) && locHere loc && (s.die (stackDie (stackOf loc))).mute (stackOf loc % 2)

/-- An access of a die to a line goes unanswered: its plane is dead (R162), or its stack does not answer (R426). -/
def State.deadTo (s : State) (d loc : Nat) : Bool :=
  s.deadPlanes.contains ((s.die d).planeMap (planeOf loc)) || s.silent loc

/-- An access of a die that is on its way does not get to a line now: nothing answers there, or the links of its stack are
not trained (R423). -/
def State.cut (s : State) (d loc : Nat) : Bool :=
  s.deadTo d loc || (locHere loc && !(s.trained.getD (stackOf loc) true))

/-- A new access of a die does not leave for a line now, whether it would be answered or not: its plane is in drain (R409), or the
links of the line's stack are not trained (R423). -/
def State.barred (s : State) (d loc : Nat) : Bool :=
  (s.die d).drain (planeOf loc) || (locHere loc && !(s.trained.getD (stackOf loc) true))

/-- A new access of a die cannot travel to a line now: what cuts it off, or a drain of its plane (R409). -/
def State.shut (s : State) (d loc : Nat) : Bool := (s.die d).drain (planeOf loc) || s.cut d loc

/-- A walk of a die from a level down would read an entry that it cannot reach now. -/
def State.walkStops (s : State) (d va : Nat) : Nat → Nat → Bool
  | 0, _ => false
  | level + 1, table =>
    let at' := table + 8 * (if level = 0 then field va 16 5 else field va (levelShift level) 9)
    let e := s.farNat at' 8
    s.shut d at' || (!s.bad at' 8 && !pteBad level e && field e 60 2 == 1 && s.walkStops d va level (field e 12 35 * 4096))

/-- An address needs a walk that stops at such an entry. -/
def State.walkHeld (s : State) (d tenant va : Nat) : Bool :=
  match (s.die d).tenSlot tenant with
  | none => false
  | some n =>
    !(s.tlb.any fun t => t.die == d && t.slot == n && decide (t.va ≤ va) && decide (va < t.va + t.size)) &&
    (match (s.die d).root n with
      | none => false
      | some r => s.walkStops d va 5 r)

/-- What an engine's access finds: to read (need 0), to write (1), or both on one page (2). -/
def State.reachVa (s : State) (d tenant need va : Nat) : Trans :=
  if need ≤ 1 then s.translate d tenant need va
  else
    match s.translate d tenant 0 va, s.translate d tenant 1 va with
    | .ok l, .ok _ => .ok l
    | .bad dt lc, _ => .bad dt lc
    | _, .bad dt lc => .bad dt lc

/-- A shootdown holds accesses to an address: it lies in its range, or in a page whose translation it dropped. -/
def Shoot.covers (x : Shoot) (va : Nat) : Bool :=
  x.len == 0 || (decide (x.va ≤ va) && decide (va < x.va + x.len)) ||
  x.pages.any fun p => decide (p.1 ≤ va) && decide (va < p.1 + p.2)

/-- A copy has far pieces on their way that a shootdown waits for (R397). -/
def Shoot.awaits (x : Shoot) (c : Copy) : Bool := x.waits.contains c.id && c.walk.dsp == 2 && !c.out.isEmpty

/-- TMS of a die has passed since a reference time (R392). -/
def State.timeUp (s : State) (die : Nat) (since : Nat) : Bool :=
  let d := s.die die
  decide (since + 1200 * d.tms ≤ d.ref)

/-- The accesses that have left their units and go unanswered, each with its tenant: of copies, plane engines, launch
controllers, overlay loads, and lanes at a LAUNCH or a WAITST.far (R392). -/
def State.sents (s : State) : List (Nat × Sent) :=
  (s.copies.flatMap fun c => c.deadSince.toList.map (c.tenant, ·)) ++
  (match s.session with
    | some x => x.deadSince.map fun y => (x.tenant, y.2)
    | none => []) ++
  (s.grids.flatMap fun g => g.2.deadSince.map fun y => (g.2.tenant, y.2)) ++
  (s.inbound.flatMap fun i => i.deadSince.toList.map (i.tenant, ·)) ++
  (s.loft.flatMap fun e => e.2.deadSince.toList.map (e.2.tenant, ·)) ++
  (s.unfocus.blocks.flatMap fun b => b.2.warps.flatMap fun w => w.2.lanes.flatMap fun l =>
    (l.hint.sent.filter fun x => !s.timeUp (coreDie (b.2.coreOf w.2)) x.since).toList.map (b.2.tenant, ·))

/-- An access that a shootdown waits for has been sent and goes unanswered (R397). -/
def State.sentOut (s : State) (x : Shoot) : Bool :=
  s.sents.any fun y => (s.die x.die).tenSlot y.1 == some x.slot && decide (y.2.since ≤ x.since) && y.2.lines.any (·.1 == x.die)

/-- Accesses to an address wait: a shootdown dropped its page's translation, and an earlier access made with it, of a line, of
a copy or of an engine, is still unanswered (R397); or its page tables cannot be read now (R423). -/
def State.heldVa (s : State) (d tenant va : Nat) : Bool :=
  (s.shoots.any fun x =>
    x.die == d && (s.die d).tenSlot tenant == some x.slot && x.covers va &&
    ((s.farQ.any fun y => x.waits.contains y.id && !y.acked) ||
      bit ((s.die d).ctlNat 0x4C) 31 && (s.copies.any x.awaits || s.sentOut x))) || s.walkHeld d tenant va

/-- A host endpoint holds an accepted write of a line: one that is performed at once comes after it (R179). -/
def State.awaitsHost (s : State) (l : Nat) : Bool := s.hostQ.any fun q => lineOf q.2.1 == lineOf (s.home l)

/-- An engine's access to a byte of virtual memory has to wait (R179, R188, R397, R409, R423); a read too waits for the writes
of its line that a host endpoint holds. (DESIGN CHOICE, log 44) -/
def State.vaHeld (s : State) (d tenant need va : Nat) : Bool :=
  s.heldVa d tenant va || (match s.reachVa d tenant need va with
    | .ok l => s.shut d l || s.awaitsHost l || (need != 0 && s.frozen l)
    | .bad _ _ => false)

/-- Some of `k` lines from an address up has to wait. -/
def State.linesHeld (s : State) (d tenant need va : Nat) : Nat → Bool
  | 0 => false
  | k + 1 => (vaOk va && s.vaHeld d tenant need va) || s.linesHeld d tenant need (va / 64 * 64 + 64) k

/-- Some byte of a range has to wait: whether one does depends on its line. -/
def State.rangeHeld (s : State) (d tenant need va n : Nat) : Bool :=
  n != 0 && s.linesHeld d tenant need va ((va % 64 + n + 63) / 64)

/-- Some access may go unanswered for ever: a plane is dead, or stacks do not answer (R162, R426). -/
def State.anyDead (s : State) : Bool := !s.deadPlanes.isEmpty || s.dies.any fun d => d.mute 0 || d.mute 1

/-- The lines of a range that an access of a die would be sent to now, held by nothing, and that do not answer (R162, R392, R409,
R426): die, locator, and an address in it. -/
def State.deadLines (s : State) (d tenant need va n : Nat) : List (Nat × Nat × Nat) :=
  if !s.anyDead || n == 0 then []
  else
    (List.range ((va % 64 + n + 63) / 64)).filterMap fun i =>
      let a := if i = 0 then va else va / 64 * 64 + 64 * i
      if !vaOk a || s.heldVa d tenant a then none
      else
        match s.reachVa d tenant need a with
        | .ok l => if s.deadTo d l && !s.barred d l then some (d, l, a) else none
        | .bad _ _ => none

/-- The reads of ranges, one after another, as far as they get: the lines of the first that goes unanswered. -/
def State.deadIn (s : State) (d tenant : Nat) : List (Nat × Nat) → List (Nat × Nat × Nat)
  | [] => []
  | r :: rest =>
    match s.deadLines d tenant 0 r.1 r.2 with
    | [] => if s.rangeHeld d tenant 0 r.1 r.2 then [] else s.deadIn d tenant rest
    | ls => ls

/-- What stands for accesses that go unanswered: those noted before, or the lines that have just been found. -/
def State.noteSent (s : State) (old : Option Sent) (die op : Nat) (found : List (Nat × Nat × Nat)) : Option Sent :=
  match old, found with
  | some x, _ => some x
  | none, [] => none
  | none, f :: _ => some { since := (s.die die).ref, lines := found.map fun x => (x.1, x.2.1), addr := f.2.2, op := op }

/-- Accesses that went unanswered since then have done so for the system timeout (R392). -/
def State.sentLate (s : State) (die : Nat) (x : Option Sent) : Bool := (x.map fun y => s.timeUp die y.since) == some true

/-- `n` bytes from a physical address up meet a line that cannot be reached now from a die (R423, R426). -/
def State.areaCut (s : State) (d a n : Nat) : Bool :=
  n != 0 && (List.range ((a % 64 + n + 63) / 64)).any fun i => s.cut d ((a / 64 + i) * 64)

/-- `n` bytes from a physical address up cannot be written now: a line cannot be reached, or is frozen (R188, R424). -/
def State.areaHeld (s : State) (d a n : Nat) : Bool :=
  s.areaCut d a n || (n != 0 && (List.range ((a % 64 + n + 63) / 64)).any fun i => s.frozen ((a / 64 + i) * 64))

/-- Some byte of a range has an uncorrectable error (R424). -/
def State.vaSpoilt (s : State) (d tenant need va n : Nat) : Bool :=
  (List.range n).any fun i => vaOk (va + i) && (match s.translate d tenant need (va + i) with
    | .ok l => s.bad l 1
    | .bad _ _ => false)

/-- The valid entries of the plane table (R145, R390). -/
def Session.valid (x : Session) : SMap Tensor := x.tensors.filter fun t => t.2.val

/-- A valid entry of the plane table. -/
def Session.tensor? (x : Session) (t : Nat) : Option Tensor := (smGet x.tensors t).filter (·.val)

/-- Read `n` bytes of virtual memory for an engine, page by page as the pages of each byte lie:
translated word by word. `none` where a translation or the memory faults. -/
def State.vaBytes (s : State) (d tenant need : Nat) : Nat → Nat → Option (List Byte)
  | _, 0 => some []
  | va, n + 1 =>
    if !vaOk va then none
    else
      match s.translate d tenant need va with
      | .bad _ _ => none
      | .ok l => if s.bad l 1 then none else (s.vaBytes d tenant need (va + 1) n).map (s.farByte l :: ·)

end Sys2Proof.Machine
end

