-- ==== Sys2Proof/Machine/Flags.lean ====
section
/-! DEFINITION. Completion flags and arrival bits (R60, R218, R251), and the comparisons that set
predicates (R237, R260, R262). -/

namespace Sys2Proof.Machine

/-- A flag as R16 gives it at the start: clear, status 0. (DESIGN CHOICE, log 6) -/
def Flag.clear : Flag := { ops := [], status := 0, cube := false, lost := false }

/-- Flag `k` of a warp. -/
def Warp.flag (w : Warp) (k : Nat) : Flag := (smGet w.flags k).getD Flag.clear

/-- The busy bit (R60). -/
def Flag.busy (f : Flag) : Bool := !f.ops.isEmpty

/-- Every flag named by a mask is clear (R215, R250). -/
def Warp.flagsClear (w : Warp) (m : Nat) : Bool := (List.range 12).all fun k => !bit m k || !(w.flag k).busy

/-- Some flag named by a mask was marked by a cube-family instruction before an engine reset (R408). -/
def Warp.flagsLost (w : Warp) (m : Nat) : Bool := (List.range 12).any fun k => bit m k && (w.flag k).lost

/-- The arrival bit of flag `k` in a lane (R251). -/
def Lane.arrival (l : Lane) (k : Nat) : Bool := l.arr.getLsbD k

/-- Set or clear an arrival bit. -/
def Lane.setArrival (l : Lane) (k : Nat) (v : Bool) : Lane :=
  { l with arr := if v then l.arr ||| BitVec.ofNat 12 (2 ^ k) else l.arr &&& ~~~(BitVec.ofNat 12 (2 ^ k)) }

/-- Every arrival bit named by a mask is set (R48). -/
def Lane.arrivedAll (l : Lane) (m : Nat) : Bool := (List.range 12).all fun k => !bit m k || l.arrival k

/-- Operation `op` marks flag `k` (R218, R251): a flag that was clear begins a new use, with every
lane's arrival bit set. -/
def Warp.mark (w : Warp) (k op : Nat) (cube : Bool) : Warp :=
  let f := w.flag k
  if f.busy then
    { w with flags := smSet w.flags k { f with ops := f.ops ++ [⟨op, none, cube⟩], cube := f.cube || cube } }
  else
    { w with
      flags := smSet w.flags k { f with ops := [⟨op, none, cube⟩], cube := cube, lost := false }
      lanes := w.lanes.map fun l => l.setArrival k true }

/-- The status a use of a flag ends with (R218): the first nonzero one in order of issue. -/
def useStatus : List FlagOp → Nat
  | [] => 0
  | o :: r => if o.done.getD 0 ≠ 0 then o.done.getD 0 else useStatus r

/-- Operation `op` of a flag completes with a status; the flag clears with its last one (R218). -/
def Flag.finish (f : Flag) (op st : Nat) : Flag :=
  let ops := f.ops.map fun o => if o.id = op ∧ o.done = none then { o with done := some st } else o
  if ops.all (·.done.isSome) then { f with ops := [], status := useStatus ops } else { f with ops := ops }

/-- The flag that an operation marked and that is still busy with it. -/
def Warp.flagOf (w : Warp) (op : Nat) : Option Nat :=
  (w.flags.find? fun e => e.2.ops.any (·.id == op)).map (·.1)

/-- An operation of the warp has not completed. -/
def Warp.under (w : Warp) (op : Nat) : Bool := w.flags.any fun e => e.2.ops.any fun o => o.id == op && o.done.isNone

/-- Operation `op` of the warp completes: its flag learns the status, and registers that were pending
on a flag that clears are readable from then on (R259). -/
def Warp.complete (w : Warp) (op st : Nat) : Warp :=
  match w.flagOf op with
  | none => { w with pend := w.pend.filter fun p => p.op != op }
  | some k =>
    let f := w.flag k
    let f' := f.finish op st
    let w := { w with flags := smSet w.flags k f' }
    if f'.busy then w
    else { w with pend := w.pend.filter fun p => !(f.ops.any (·.id == p.op)) }

/-- Operation `op` of a warp completes, wherever the warp is. -/
def State.complete (s : State) (b w op st : Nat) : State := s.modWarp b w fun x => x.complete op st

/-- The issuing warp marks flag `k` for a new operation. -/
def State.mark (s : State) (k op : Nat) (cube : Bool) : State := { s with w := s.w.mark k op cube }

/-- The flag that an fs bit selects from the clause header, none where the field is 1111 (R218). -/
def State.fsFlag (s : State) (fs : Nat) : Option Nat :=
  match s.clause with
  | none => none
  | some c =>
    let k := if fs = 0 then c.seta else c.setb
    if k < 12 then some k else none

/-- The comparison codes of R237, given equality and the two strict orders. -/
def ccHolds (cc : Nat) (eq lt gt : Bool) : Bool :=
  match cc with
  | 0 => eq
  | 1 => !eq
  | 2 => lt
  | 3 => lt || eq
  | 4 => gt
  | 5 => gt || eq
  | _ => false

/-- Compare two words as signed or unsigned numbers (R260, R262). -/
def cmpWord (cc : Nat) (unsigned : Bool) (a b : Word) : Bool :=
  if unsigned then ccHolds cc (a == b) (BitVec.ult a b) (BitVec.ult b a)
  else ccHolds cc (a == b) (BitVec.slt a b) (BitVec.slt b a)

end Sys2Proof.Machine
end

