-- ==== Sys2Proof/Machine/Operands.lean ====
section
/-! DEFINITION. What each word names: its guard, registers, uniform fields and immediates, the hints it
takes, and the checks at issue that follow from them (R57, R58, R217, R218, R222 to R228, R241).
`issue` is the prologue and epilogue every word shares. -/

namespace Sys2Proof.Machine

/-- A uniform field of a word (R219, R220): its number, how many registers the group holds, whether it
names a register (or is fixed to bank 0, R222), and whether the word writes it. -/
structure UField where
  num : Nat
  cnt : Nat := 1
  reg : Bool := true
  wr : Bool := false
  deriving DecidableEq, Repr

/-- The fourth operand vc of a prefix (R226). -/
inductive VcUse where
  | none | addend | required | pair
  deriving DecidableEq, Repr

/-- What a word names. -/
structure Shape where
  op : Nat
  g : Nat := 0
  vr : List Nat := []
  vw : List Nat := []
  /-- the vb field of a plain VR word, which HINT.IMM can replace (R225) -/
  vb : Option Nat := none
  uf : List UField := []
  pr : List Nat := []
  pw : List Nat := []
  /-- interlock distance of R44; 0 for a word without one -/
  dist : Nat := 0
  /-- for R41: 1 acts on the whole warp, 2 memory, far or copy, 3 cube or baton -/
  cls : Nat := 0
  /-- the fs bit of a long-latency word (R45), and whether it may run without a flag (R218) -/
  fs : Option Nat := none
  flagless : Bool := false
  /-- an immediate field that HINT.IMM can widen (R225) -/
  imm : Option Nat := none
  vc : VcUse := .none
  /-- the last word of its clause (R217) -/
  last : Bool := false
  deriving DecidableEq, Repr

/-- A register pair or group. -/
def group (n k : Nat) : List Nat := (List.range k).map (n + ·)

/-- VR word of `dist` clocks. -/
def shVR (op dist d a b g : Nat) : Shape := { op, g, vr := [a], vw := [d], vb := some b, pr := [g], dist }
/-- VF word, unary. -/
def shUn (op dist d a g : Nat) : Shape := { op, g, vr := [a], vw := [d], pr := [g], dist }
/-- VF word, two-address. -/
def shTwo (op dist d a g : Nat) : Shape := { op, g, vr := [d, a], vw := [d], pr := [g], dist }
/-- SR word. -/
def shSR (op d a b x : Nat) : Shape :=
  { op, uf := [⟨d, 1, true, true⟩, ⟨a, 1, true, false⟩, ⟨b, 1, x == 0, false⟩], dist := 4
    imm := if x = 1 then some b else none }
/-- SF word, two-address. -/
def shSF (d a x : Nat) : Shape :=
  { op := 0x0F, uf := [⟨d, 1, true, true⟩, ⟨a, 1, x == 0, false⟩], dist := 4
    imm := if x = 1 then some a else none }
/-- A word that names one uniform field not as a register. -/
def fixedU (n : Nat) : UField := ⟨n, 1, false, false⟩
/-- A uniform register or group that is read. -/
def readU (n : Nat) (k : Nat := 1) : UField := ⟨n, k, true, false⟩
/-- A uniform register or group that is written. -/
def writeU (n : Nat) (k : Nat := 1) : UField := ⟨n, k, true, true⟩
/-- FM word: data registers read and written. -/
def shFM (op a : Nat) (vr vw : List Nat) (fs : Option Nat) (flagless : Bool) : Shape :=
  { op, vr := group a 2 ++ vr, vw, cls := 2, fs, flagless }
/-- Predicate logic. -/
def shPL (d : Nat) (ps : List Nat) (g : Nat) : Shape := { op := 0x13, g, pr := g :: ps, pw := [d], dist := 4 }
/-- SP word. -/
def shSP (op d e a b : Nat) : Shape := { op, vr := [a, b], pw := [d, e], dist := 4 }

/-- What each word names (R219 to R240). `W` is the warp width. Which words are 'memory, far or copy instructions', R41 does
not list. (DEDUCED, log 7) -/
def shapeOf (W : Nat) : Instr → Shape
  | .bra _ g => { op := 0x01, g, pr := [g], last := true }
  | .bru _ g => { op := 0x02, g, pr := [g], last := true }
  | .call _ g => { op := 0x03, g, pr := [g], last := true }
  | .loopn sa _ g => { op := 0x04, g, uf := [writeU sa], pr := [g], dist := 4, last := true }
  | .reform va _ g => { op := 0x05, g, vr := [va], pr := [g], cls := 1, last := true }
  | .callo sa _ => { op := 0x06, uf := [readU sa], last := true }
  | .waitf _ g | .waitl _ g => { op := 0x07, g, pr := [g] }
  | .ret g | .exit g => { op := 0x08, g, uf := [fixedU 0], pr := [g], last := true }
  | .join g => { op := 0x08, g, uf := [fixedU 0], pr := [g], cls := 1 }
  | .launch sa g => { op := 0x08, g, uf := [readU sa 2], pr := [g], cls := 1 }
  | .sadd d a b x => shSR 0x09 d a b x
  | .ssub d a b x => shSR 0x0A d a b x
  | .sand d a b x => shSR 0x0B d a b x
  | .sor d a b x => shSR 0x0C d a b x
  | .sxor d a b x => shSR 0x0D d a b x
  | .scmp a b _ _ k => { op := 0x0E, uf := [readU a, readU b], pw := [k], dist := 4 }
  | .smov d a => { op := 0x0F, uf := [writeU d, readU a], dist := 4 }
  | .smovi d i => { op := 0x0F, uf := [writeU d, fixedU i], dist := 4, imm := some i }
  | .smul d a x | .sshl d a x | .sshr d a x | .sshrI32 d a x => shSF d a x
  | .movs d c => { op := 0x0F, uf := [writeU d (if c = 0x0C then 2 else 1), fixedU c], dist := 4 }
  | .wrs c a => { op := 0x0F, uf := [fixedU c, readU a], dist := 4 }
  | .rdlane d v _ => { op := 0x0F, vr := [v], uf := [writeU d, fixedU v], dist := 8, cls := 1 }
  | .setpI32 d e a b _ => shSP 0x10 d e a b
  | .setpN32 d e a b _ => shSP 0x11 d e a b
  | .setpF32 d e a b _ => shSP 0x12 d e a b
  | .pand d a b _ _ g | .por d a b _ _ g | .pxor d a b _ _ g => shPL d [a, b] g
  | .pnot d a _ g | .pmov d a _ g => shPL d [a] g
  | .ppop d a g => { op := 0x14, g, uf := [writeU d], pr := [g, a], dist := 4 }
  | .voteAny a d g | .voteAll a d g =>
    { op := 0x14, g, uf := [fixedU 0], pr := [g, a], pw := [d], dist := 8, cls := 1 }
  | .voteBallot d a g =>
    { op := 0x14, g, uf := [writeU d (if W = 64 then 2 else 1)], pr := [g, a], dist := 8, cls := 1 }
  | .shflIdx d a b g => { shVR 0x15 8 d a b g with cls := 1 }
  | .shflUp d a _ g | .shflDown d a _ g => { shUn 0x16 8 d a g with cls := 1 }
  | .shflXor d a _ g => { shUn 0x17 8 d a g with cls := 1 }
  | .bcast d a b g => { shUn 0x18 8 d a g with uf := [readU b], cls := 1 }
  | .scan d a _ _ g => { shUn 0x19 8 d a g with cls := 1 }
  | .segscanIncl d a p _ g => { shUn 0x1A 8 d a g with pr := [g, p], cls := 1 }
  | .segscanExcl d a p _ g => { shUn 0x1B 8 d a g with pr := [g, p], cls := 1 }
  | .red d a _ g => { shUn 0x1C 8 d a g with cls := 1 }
  | .glean d p s g =>
    { op := 0x1D, g, vw := [d], uf := [writeU s 4], pr := [g], pw := [p], dist := 8, cls := 1 }
  | .iadd d a b g => shVR 0x20 4 d a b g
  | .isub d a b g => shVR 0x21 4 d a b g
  | .imul d a b g => shVR 0x22 4 d a b g
  | .imad d a b g => { shVR 0x23 4 d a b g with vc := .addend }
  | .and d a b g => shVR 0x24 4 d a b g
  | .or d a b g => shVR 0x25 4 d a b g
  | .xor d a b g => shVR 0x26 4 d a b g
  | .shl d a b g => shVR 0x27 4 d a b g
  | .shr d a b g => shVR 0x28 4 d a b g
  | .sar d a b g => shVR 0x29 4 d a b g
  | .sel d a b pn => { shVR 0x2A 4 d a b 0 with pr := [pn] }
  | .lea d a b g => { shVR 0x2B 4 d a b g with vr := group a 2, vw := group d 2 }
  | .iaddImm d a i g => { shUn 0x2C 4 d a g with imm := some i }
  | .andImm d a i g => { shUn 0x2D 4 d a g with imm := some i }
  | .movi d i g => { op := 0x2E, g, vw := [d], pr := [g], dist := 4, imm := some i }
  | .mov d a g | .not d a g | .iabsI32 d a g | .inegI32 d a g | .popc d a g | .clz d a g
  | .brev d a g => shUn 0x2F 4 d a g
  | .movSpecial d _ g => { op := 0x2F, g, vw := [d], pr := [g], dist := 4 }
  | .imulhI32 d a g | .imulhN32 d a g | .iminI32 d a g | .iminN32 d a g | .imaxI32 d a g
  | .imaxN32 d a g | .rotl d a g | .bfxI32 d a g | .bfxN32 d a g | .iaddI32Sat d a g
  | .iaddN32Sat d a g | .isubI32Sat d a g | .isubN32Sat d a g => shTwo 0x2F 4 d a g
  | .bfi d a g => { shTwo 0x2F 4 d a g with vc := .required }
  | .faddF32 d a b g => shVR 0x30 6 d a b g
  | .fsubF32 d a b g => shVR 0x31 6 d a b g
  | .fmulF32 d a b g => shVR 0x32 6 d a b g
  | .ffmaF32 d a b g => { shVR 0x33 6 d a b g with vc := .addend }
  | .faddF16x2 d a b g => shVR 0x34 6 d a b g
  | .fmulF16x2 d a b g => shVR 0x35 6 d a b g
  | .ffmaF16x2 d a b g => { shVR 0x36 6 d a b g with vc := .addend }
  | .faddBf16x2 d a b g => shVR 0x37 6 d a b g
  | .fmulBf16x2 d a b g => shVR 0x38 6 d a b g
  | .ffmaBf16x2 d a b g => { shVR 0x39 6 d a b g with vc := .addend }
  | .frnd d a _ g => shUn 0x3A 6 d a g
  | .frcp d a _ g | .frsq d a _ g | .fsqrt d a _ g | .fexp2 d a _ g | .flog2 d a _ g | .fsin d a _ g
  | .fcos d a _ g => shUn 0x3A 12 d a g
  | .fmin d a _ g | .fmax d a _ g | .fsubTwoAddress d a _ g => shTwo 0x3A 6 d a g
  | .hadd d a b g => shVR 0x3B 6 d a b g
  | .hsub d a b g => shVR 0x3C 6 d a b g
  | .hmad d a b g => { shVR 0x3D 6 d a b g with vc := .addend }
  | .hacs d a b g => { shVR 0x3E 6 d a b g with vr := a :: group d 2, vw := group d 2 }
  | .hmul d a g | .haddsI16x2 d a g | .haddsN16x2 d a g | .hsubsI16x2 d a g | .hsubsN16x2 d a g
  | .hminI16x2 d a g | .hminN16x2 d a g | .hmaxI16x2 d a g | .hmaxN16x2 d a g | .hshl d a g
  | .hshrN16x2 d a g | .hshrI16x2 d a g | .hpack d a g | .pxavg d a g | .pxsad d a g
  | .pxclamp d a g | .pxpack d a g => shTwo 0x3F 6 d a g
  | .hsel d a g => { shTwo 0x3F 6 d a g with vc := .required }
  | .hunpackLoI16 d a g | .hunpackHiI16 d a g | .hunpackLoN16 d a g | .hunpackHiN16 d a g
  | .pxexpLo d a g | .pxexpHi d a g => shUn 0x3F 6 d a g
  | .cvtSrcLow d a _ _ g => shUn 0x40 6 d a g
  | .cvtSrcHigh d a _ _ g => shUn 0x41 6 d a g
  | .rndt d a _ g => shUn 0x42 6 d a g
  | .cvtTrl a b _ fs _ => { op := 0x43, uf := [readU a 4, readU b], cls := 2, fs := some fs }
  | .cvtChk a _ fs _ => { op := 0x44, uf := [readU a 4, fixedU 0], cls := 2, fs := some fs }
  | .dot4I8 d a b g => { shVR 0x45 6 d a b g with vc := .addend }
  | .dot4N8 d a b g => { shVR 0x46 6 d a b g with vc := .addend }
  | .dot8I4 d a b g => { shVR 0x47 6 d a b g with vc := .addend }
  | .dot8N4 d a b g => { shVR 0x48 6 d a b g with vc := .addend }
  | .dot4E4m3 d a _ g | .dot4E5m2 d a _ g | .dot8E2m1 d a _ g =>
    { op := 0x49, g, vr := d :: group a 2, vw := [d], pr := [g], dist := 6, vc := .pair }
  | .ldsB32 d a _ g => { op := 0x50, g, vr := [a], vw := [d], pr := [g], cls := 2 }
  | .ldsB64 d a _ g => { op := 0x51, g, vr := [a], vw := group d 2, pr := [g], cls := 2 }
  | .stsB32 d a _ g => { op := 0x52, g, vr := [a, d], pr := [g], cls := 2 }
  | .stsB64 d a _ g => { op := 0x53, g, vr := a :: group d 2, pr := [g], cls := 2 }
  | .ldgB32 d a _ g => { op := 0x54, g, vr := [a], vw := [d], pr := [g], cls := 2 }
  | .ldgB64 d a _ g => { op := 0x55, g, vr := [a], vw := group d 2, pr := [g], cls := 2 }
  | .stgB32 d a _ g => { op := 0x56, g, vr := [a, d], pr := [g], cls := 2 }
  | .stgB64 d a _ g => { op := 0x57, g, vr := a :: group d 2, pr := [g], cls := 2 }
  | .ldk d a _ g => { op := 0x58, g, vr := [a], vw := [d], pr := [g], cls := 2 }
  | .stk d a _ g => { op := 0x59, g, vr := [a, d], pr := [g], cls := 2 }
  | .atom d a o _ _ g =>
    { op := 0x5A, g, vr := a :: group d (if o = 7 then 2 else 1), vw := [d], pr := [g], cls := 2 }
  | .fld d a _ _ fs z => shFM 0x5B a [] (group d (if z = 3 then 2 else 1)) (some fs) false
  | .fst d a _ _ fs z => shFM 0x5B a (group d (if z = 3 then 2 else 1)) [] (some fs) true
  | .fldacq d a _ _ fs z => shFM 0x5B a [] (group d (if z = 3 then 2 else 1)) (some fs) false
  | .fstrel d a _ _ fs _ => shFM 0x5B a [d] [] (some fs) true
  | .fatom d a _ _ fs o t =>
    let n := (if t = 2 then 2 else 1) * (if o = 7 then 2 else 1)
    shFM 0x5C a (group d n) (group d (if t = 2 then 2 else 1)) (some fs) false
  | .sld d a i => { op := 0x5D, uf := [writeU d, readU a], cls := 2, imm := some i }
  | .hurdleArrive a c g => { op := 0x5E, g, vr := [a], uf := [fixedU c], pr := [g], cls := 2 }
  | .hurdleWait a b g => { op := 0x5E, g, vr := [a], uf := [readU b], pr := [g], cls := 2 }
  | .waitst a b g | .waitstGranary a b g =>
    { op := 0x5E, g, vr := [a], uf := [readU b 2], pr := [g], cls := 2 }
  | .waitstFar a b g => { op := 0x5E, g, vr := group a 2, uf := [readU b 2], pr := [g], cls := 2 }
  | .barb g => { op := 0x5E, g, uf := [fixedU 0], pr := [g], cls := 2 }
  | .cpy a c p fs | .cpyt a c p fs | .cpyq a c p fs =>
    { op := 0x5F, uf := [readU a 32, fixedU (c * 64 + p * 8)], cls := 2, fs := some fs }
  | .land a => { op := 0x5F, uf := [readU a 2, fixedU 0], cls := 2 }
  | .fnc _ _ => { op := 0x5F, uf := [fixedU 0, fixedU 0], cls := 2 }
  | .batonArm _ _ _ g => { op := 0x60, g, pr := [g], cls := 3 }
  | .sign _ g => { op := 0x60, g, pr := [g], cls := 3 }
  | .cube a _ _ fs _ => { op := 0x61, uf := [readU a 4], cls := 3, fs := some fs }
  | .cubestn a fs | .cubestw a fs => { op := 0x62, uf := [readU a 4, fixedU 0], cls := 3, fs := some fs }
  | .oprdy => { op := 0x62, uf := [fixedU 0, fixedU 0], cls := 3 }
  | .accld _ v fs | .accst _ v fs => { op := 0x63, vr := [v], cls := 3, fs := some fs }
  | .accz _ fs => { op := 0x63, cls := 3, fs := some fs }
  | .stepOpen g => { op := 0x64, g, uf := [fixedU 0], pr := [g] }
  | .stepClose _ fs g | .merge fs g => { op := 0x64, g, uf := [fixedU 0], pr := [g], fs := some fs }
  | .upd a fs g => { op := 0x64, g, uf := [readU a 8], pr := [g], fs := some fs }
  | .ovldImm a i fs => { op := 0x65, uf := [writeU a, fixedU i], dist := 4, fs := some fs }
  | .ovldReg a b fs => { op := 0x65, uf := [writeU a, readU b], dist := 4, fs := some fs }
  | .ovpin a fs | .ovunpin a fs => { op := 0x65, uf := [readU a, fixedU 0], fs := some fs }
  | .ovev a => { op := 0x65, uf := [readU a, fixedU 0] }
  | .ovq d t => { op := 0x65, uf := [writeU d, readU t], dist := 4 }
  | .svc a _ g => { op := 0x66, g, vr := group a 8, pr := [g], cls := 1 }
  | .nop g | .bkpt g => { op := 0x67, g, uf := [fixedU 0], pr := [g] }
  | .trap c g => { op := 0x67, g, uf := [fixedU c], pr := [g] }
  | .eret g => { op := 0x67, g, uf := [fixedU 0], pr := [g], last := true }
  | .hintImm _ => { op := 0x70 }
  | .hintXv .. => { op := 0x71 }
  | .hintUwin .. => { op := 0x72 }
  | .hintSched _ => { op := 0x73 }
  | _ => { op := 0 }

/-- The operation of a float SCAN, SEGSCAN or RED, which alone among the cross-lane words take RM (R226). -/
def floatScan : Instr → Bool
  | .scan _ _ _ o _ | .segscanIncl _ _ _ o _ | .segscanExcl _ _ _ o _ | .red _ _ o _ =>
    o == 1 || o == 4 || o == 7
  | _ => false

/-- A vector prefix suits its target (R226, R268). -/
def xvOk (i : Instr) (sh : Shape) (x : Xv) : Bool :=
  let op := sh.op
  let vcOk := match sh.vc with
    | .none => x.vc == 0
    | .pair => x.vc % 2 == 0
    | _ => true
  let rmAny := x.rm != 7
  if 0x20 ≤ op ∧ op ≤ 0x2F then x.rm == 0 && x.sat == 0 && vcOk
  else if 0x30 ≤ op ∧ op ≤ 0x3A then rmAny && vcOk
  else if 0x3B ≤ op ∧ op ≤ 0x3F then x.rm == 0 && x.sat == 0 && vcOk
  else if op = 0x40 ∨ op = 0x41 then rmAny && vcOk
  else if op = 0x42 then x.rm == 0 && x.sat == 0 && vcOk
  else if 0x45 ≤ op ∧ op ≤ 0x48 then x.rm == 0 && vcOk
  else if op = 0x49 then rmAny && vcOk
  else if 0x10 ≤ op ∧ op ≤ 0x1D then
    (if floatScan i then rmAny && x.rm != 5 else x.rm == 0) && x.sat == 0 && vcOk
  else if 0x50 ≤ op ∧ op ≤ 0x5A then x.rm == 0 && x.sat == 0 && vcOk
  else false

/-- The target is NOP, which takes only HINT.SCHED (R347). -/
def isNop : Instr → Bool
  | .nop _ => true
  | _ => false

/-- The target is WAITL, which takes no hint (R228, R252). -/
def isWaitl : Instr → Bool
  | .waitl .. => true
  | _ => false

/-- Banks name only fields that the target has as registers (R227). -/
def uwinOk (sh : Shape) (k1 k2 k3 : Nat) : Bool :=
  let ok (i k : Nat) := k == 0 || (match sh.uf[i]? with | some f => f.reg | none => false)
  ok 0 k1 && ok 1 k2 && ok 2 k3

/-- HINT.IMM suits its target (R225). -/
def immOk (sh : Shape) : Bool := sh.vb.isSome || (match sh.imm with | some f => decide (f < 128) | none => false)

/-- The hint run suits its target (R224 to R228). -/
def hintsOk (i : Instr) (sh : Shape) (h : HintRun) : Bool :=
  !h.dup &&
  (h.imm.isNone || (immOk sh && !isWaitl i)) &&
  (match h.xv with | none => !(sh.vc == .required) | some x => xvOk i sh x) &&
  (match h.uwin with
    | none => true
    | some (a, b, c) => uwinOk sh a b c && !isNop i && !isWaitl i) &&
  (match h.sched with | none => true | some a => a != 3 && !isWaitl i)

/-- Fields that the warp width bounds (R259, R264, R266). -/
def widthOk (W : Nat) : Instr → Bool
  | .rdlane _ _ l => decide (l < W)
  | .shflUp _ _ d _ | .shflDown _ _ d _ | .shflXor _ _ d _ => decide (d < W)
  | .voteBallot d _ _ => W != 64 || d % 2 == 0
  | _ => true

/-- The uniform registers a field names, with its bank. -/
def UField.regs (f : UField) (bank : Nat) : List Nat := if f.reg then group (256 * bank + f.num) f.cnt else []

/-- The vector registers a target names through the prefix: vc, or its default (R226). -/
def vcRegs (sh : Shape) (h : HintRun) : List Nat :=
  match sh.vc, h.xv with
  | .none, _ => []
  | .addend, none => sh.vw
  | .required, none => []
  | .pair, none => []
  | .pair, some x => group x.vc 2
  | _, some x => [x.vc]

/-- The vector source registers of a word under its hints. -/
def srcV (sh : Shape) (h : HintRun) : List Nat :=
  sh.vr ++ (match sh.vb, h.imm with | some b, none => [b] | _, _ => []) ++ vcRegs sh h

/-- The uniform registers a word names, in all its fields, and those it writes. -/
def uniR (s : State) (sh : Shape) (wr : Bool) : List Nat :=
  (List.range sh.uf.length).flatMap fun i =>
    match sh.uf[i]? with
    | some f => if !wr || f.wr then f.regs (s.bank (i + 1)) else []
    | none => []

/-- The uniform budget of the focused warp's grid (R21). -/
abbrev State.ub (s : State) : Nat := s.pkt.ub

/-- Every register the word names lies below its budget (R14, R21, R57). -/
def budgetOk (s : State) (sh : Shape) : Bool :=
  ((srcV sh s.hint ++ sh.vw).all fun n => decide (n < s.w.budget)) &&
  (uniR s sh false).all fun n => decide (n < s.ub)

/-- The word stands where it may in its clause (R214, R217). -/
def placeOk (s : State) (sh : Shape) : Bool :=
  match s.clause with
  | none => false
  | some c => decide (1 ≤ c.left) && (!sh.last || c.left == 1)

/-- The fs bit selects a flag, unless the word runs without one (R218). -/
def fsOk (s : State) (sh : Shape) : Bool :=
  match sh.fs with
  | none => true
  | some f => sh.flagless || (s.fsFlag f).isSome

/-- The checks every word meets first, in the order of R241: illegal-instruction, then the registers. -/
def issueTrap (i : Instr) (s : State) : Option TrapInfo :=
  let sh := shapeOf s.W i
  if !(i.wf && widthOk s.W i && placeOk s sh && hintsOk i sh s.hint && fsOk s sh) then
    some { cause := 0x10 }
  else if !budgetOk s sh then some { cause := 0x11 }
  else none

/-- The word passes its shared checks, for a warp in focus. -/
def Ready (i : Instr) (s : State) : Prop := s.cur.isSome ∧ issueTrap i s = none

/-- The lanes in which a word writes its vector registers. -/
def State.writers (s : State) (g : Nat) : List Nat := (s.issuing.filter fun l => s.active g l || s.zi).map (·.id)

/-- The interlocks that a word leaves behind (R44). -/
def newLocks (s : State) (sh : Shape) : List Interlock :=
  if sh.dist = 0 then []
  else
    let r := s.clock + sh.dist
    let m := bitsOf (s.writers sh.g)
    sh.vw.map (⟨0, ·, r, m⟩) ++ (uniR s sh true).map (⟨1, ·, r, m⟩) ++
      (sh.pw.filter (· ≠ 0)).map (⟨2, ·, r, m⟩)

/-- Accumulator tiles whose words are undefined: tile word `w` stands at 1024·tile + w. -/
def Block.undefTiles (b : Block) (tiles : List Nat) (f : Nat → Word) : Block :=
  let words := tiles.flatMap fun t => (List.range 1024).map fun w => 1024 * t + w
  { b with tiles := words.foldl (fun m k => smSet m k (f k)) b.tiles }

/-- Writes to registers that a window of R124 covers leave them undefined, and the D elements of the
operation too; so does a write that an earlier instruction than the SIGN brings inside the window. (DESIGN CHOICE, log 48) -/
def State.spoil (t : State) (lanes regs : List Nat) : State :=
  let hit := t.w.windows.filter fun w => lanes.any fun l => regs.any fun n => w.covers l n
  if hit.isEmpty then t
  else
    let (live, past) := hit.partition fun w => t.w.under w.op
    let t1 := t.mapLanes fun l =>
      if lanes.contains l.id then
        regs.foldl (fun l n =>
          if hit.any (·.covers l.id n) then l.vput n (t.undef (2 ^ 16 + l.id * 128 + n)) else l) l
      else l
    let b : Block := { t1.blk with spoiled := t1.blk.spoiled ++ live.map (·.op) }
    { t1 with blk := b.undefTiles (past.flatMap (·.tiles)) fun k => t.undef (2 ^ 17 + k) }

/-! ### Descriptors in uniform registers -/

/-- `n` uniform registers of the group that the `i`-th uniform field names, as numbers. -/
def State.ugroup (s : State) (i f n : Nat) : List Nat :=
  (List.range n).map fun j => (s.sget (s.sname i f + j)).toNat

/-- A word of a descriptor. -/
abbrev dw (ws : List Nat) (i : Nat) : Nat := ws.getD i 0

/-! Fields of a tile descriptor (R289). -/

/-- Block scales. -/
abbrev tSc (ws : List Nat) : Bool := bit (dw ws 2) 20
/-- Scale register. -/
abbrev tVsc (ws : List Nat) : Nat := field (dw ws 2) 13 7
/-- Registers of a lane. -/
abbrev tNw (ws : List Nat) : Nat := field (dw ws 2) 7 6 + 1
/-- First data register. -/
abbrev tVs (ws : List Nat) : Nat := field (dw ws 2) 0 7
/-- The registers a tile descriptor names. -/
def tRegs (ws : List Nat) : List Nat := group (tVs ws) (tNw ws) ++ (if tSc ws then [tVsc ws] else [])

/-- The vector registers that a word names through its descriptor and reads at issue (R289, R291). -/
def State.describedV (s : State) : Instr → List Nat
  | .cvtTrl sa _ _ _ _ => tRegs (s.ugroup 1 sa 4)
  | _ => []

/-- The vector registers that a word writes through its descriptor (R289, R292). -/
def State.describedW (s : State) : Instr → List Nat
  | .cvtChk sa _ _ _ => tRegs (s.ugroup 1 sa 4)
  | _ => []

/-! ### What stands behind values (R176, log 42) -/

/-- The thread in a lane, by its block (R26). -/
def State.threadOf (s : State) (lane : Nat) : Nat := s.blk.key * 4096 + ((s.w.lanes[lane]?).map (·.tid)).getD 0

/-- The focused warp as the owner of uniform registers. -/
def State.party (s : State) : Nat := warpParty s.blk.key s.w.wid

/-- The keys of a lane's vector registers. -/
def State.vKeys (s : State) (lane : Nat) (ns : List Nat) : List Nat := ns.map (regKey (s.threadOf lane))

/-- Predicates as registers. -/
def predRegs (ps : List Nat) : List Nat := (ps.filter (· ≠ 0)).map (1024 + ·)

/-- The keys of the warp's uniform registers. -/
def State.uKeys (s : State) (ns : List Nat) : List Nat := ns.map (regKey s.party)

/-- Uniform fields of a word that it both reads and writes. -/
def readsOwn : Instr → Bool
  | .smul .. | .sshl .. | .sshr .. | .sshrI32 .. | .loopn .. | .glean .. => true
  | _ => false

/-- The uniform registers a word reads. -/
def uniSrc (s : State) (i : Instr) (sh : Shape) : List Nat :=
  (List.range sh.uf.length).flatMap fun k =>
    match sh.uf[k]? with
    | some f => if f.wr && !readsOwn i then [] else f.regs (s.bank (k + 1))
    | none => []

/-- Far bytes as keys, by where they are at home. -/
def State.locKeys (s : State) (loc n : Nat) : List Nat := (List.range n).map fun i => byteKey farTag (s.home (loc + i))

/-- A read of the island has returned bytes: writes to them that a host endpoint still holds are performed in host memory before
any that it accepts from now on (R178, R190). -/
def State.sawHost (s : State) (rs : List (Nat × Nat)) : State :=
  let hit (q : Nat × Nat × List Byte) : Bool := rs.any fun r => (List.range r.2).any fun i =>
    decide (q.2.1 ≤ s.home (r.1 + i)) && decide (s.home (r.1 + i) < q.2.1 + q.2.2.length)
  { s with hostSeen := s.hostSeen ++ ((s.hostQ.filter hit).map (·.1)).filter fun k => !s.hostSeen.contains k }

/-- The bytes of a range of virtual memory as keys, those without a translation left out. -/
def State.vaKeys (s : State) (d tenant need va n : Nat) : List Nat :=
  (List.range n).flatMap fun i =>
    match s.translate d tenant need (va + i) with
    | .ok l => s.locKeys l 1
    | .bad _ _ => []

/-- The lanes whose vector registers a lane's results are computed from: a cross-lane word takes those of all issuing lanes, and
RDLANE the one that it names. -/
def State.lanesFrom (s : State) (i : Instr) (sh : Shape) (lane : Nat) : List Nat :=
  match i with
  | .rdlane _ _ l => [l]
  | _ => if sh.cls = 1 then s.issuing.map (·.id) else [lane]

/-- What stands behind the values that a word reads for some lanes. -/
def State.behindAll (s : State) (i : Instr) (o : Orders) (lanes : List Nat) : SMap Nat :=
  let sh := shapeOf s.W i
  o.ofRegs (s.uKeys (uniSrc s i sh) ++
    lanes.flatMap fun l => (s.lanesFrom i sh l).flatMap fun x => s.vKeys x (srcV sh s.hint ++ s.describedV i ++ predRegs sh.pr))

/-- What stands behind the values that a word reads stands behind those it writes, with what it has read from memory; a word
that ends a clause or writes a predicate puts it before all that its threads do from then on (R176). -/
def State.flow (s : State) (i : Instr) (o : Orders) : Orders :=
  if o.dep.isEmpty && o.read.isEmpty then o
  else
    let sh := shapeOf s.W i
    let ids := s.issuing.map (·.id)
    let put (keys : List Nat) (c : SMap Nat) (o : Orders) : Orders :=
      keys.foldl (fun o k => o.setDep k (joinClk c (clkAt o.read k))) o
    let o1 := (s.writers sh.g).foldl (fun t l =>
      put (s.vKeys l (sh.vw ++ s.describedW i ++ predRegs sh.pw)) (if (s.actives sh.g).any (·.id == l) then s.behindAll i o [l] else []) t) o
    let o2 := put (s.uKeys (uniR s sh true)) (s.behindAll i o ids) o1
    let o3 :=
      if sh.pw.isEmpty && !sh.last then o2
      else ids.foldl (fun t l => t.learn [s.threadOf l] (s.behindAll i o [l]) true) o2
    { o3 with read := [] }

/-- The bits of a mask that are not in another. -/
def offMask (a b : Nat) : Nat := a - (a &&& b)

/-- After a word has taken effect: writes inside a window of R124, interlocks, scheduling hints, and a new
index for undefined values. `s` is the state at issue. -/
def settle (i : Instr) (s t : State) : State :=
  let sh := shapeOf s.W i
  let t := t.spoil (s.writers sh.g) sh.vw
  { t with
    fresh := t.fresh + 1
    stalled := false
    order := s.flow i t.order
    w := { t.w with
      locks := (t.w.locks.filter fun l => decide (s.clock < l.ready)) ++ newLocks s sh
      boost := if s.hint.sched = some 1 then offMask t.w.boost s.im else t.w.boost
      defer := t.w.defer || s.hint.sched == some 2 } }

/-- Issue a word: the shared checks, then its own part, then what follows every word. -/
def issue (i : Instr) (s : State) (body : Act) : Res :=
  if s.cur.isNone then .fault .noIssuingWarp
  else
    match issueTrap i s with
    | some t => .next { s.sysTrap t with stalled := false }
    | none =>
      match body with
      | .go t => .next (settle i s t)
      | .stall => .next { s with stalled := true }
      | .wait t => .next { t with stalled := true }
      | .trap t => .next { s.sysTrap t with stalled := false }

/-- Registers of a value of 4 or 8 bytes. -/
def dataRegs (size d : Nat) : List Nat := if size = 8 then [d, d + 1] else [d]

/-- A read of `n` bytes of shared memory meets an uncorrectable error; bytes of the warp's own queued stores do not come from
memory. -/
def State.brokenAt (s : State) (a n : Nat) : Bool :=
  (List.range n).any fun i => s.chipBad .shared (a + i) && !s.w.queue.any fun q => q.covers .shared (a + i)

/-- A word that reads such bytes has no effect but that the block's machine check comes next (R399). -/
def State.unlessBroken (s : State) (rs : List (Nat × Nat)) (k : Act) : Act :=
  if rs.any fun r => s.brokenAt r.1 r.2 then .go { s with agenda := .machineCheck (2 ^ 33 * s.blk.key) :: s.agenda } else k

/-- Some vector register of a lane is still under the interlock of a short-latency write, or waits for a load (R44). -/
def State.lockedV (s : State) (lane n : Nat) : Bool :=
  (s.w.locks.any fun k => k.cls == 0 && k.reg == n && bit k.lanes lane && decide (s.clock < k.ready)) ||
  s.w.gloads.any fun x => x.dest == .lane && x.lane == lane && (dataRegs x.size x.reg).contains n

/-- Earlier loads of the warp from the Granary that touch bytes have not read their values (R179). -/
def State.awaitsAt (s : State) (sp : Space) (a n : Nat) : Bool :=
  match sp with
  | .granary _ => s.w.gloads.any fun x => decide (x.addr < a + n) && decide (a < x.addr + x.size)
  | _ => false

/-! ### Operand values -/

/-- The immediate of a VI word (R225, R275). -/
def State.immS (s : State) (f : Nat) : Word :=
  match s.hint.imm with
  | some p => w32 (p * 128 + f)
  | none => w32i (signed 7 f)

/-- A zero-extended immediate (R225, R256, R261). -/
def State.immU (s : State) (f : Nat) : Word :=
  match s.hint.imm with
  | some p => w32 (p * 128 + f)
  | none => w32 f

/-- The operand b of a VR word: v(vb), or the immediate of HINT.IMM (R271). -/
def State.opB (s : State) (l : Lane) (b : Nat) : Word :=
  match s.hint.imm with
  | some p => w32 (p * 128 + b)
  | none => s.vget l b

/-- The addend c: v(vc) of the prefix, or the old value of vd (R226). -/
def State.opC (s : State) (l : Lane) (d : Nat) : Word :=
  match s.hint.xv with
  | some x => s.vget l x.vc
  | none => s.vget l d

/-- The operand b of an SR or SF word. -/
def State.opS (s : State) (i f x : Nat) : Word := if x = 1 then s.immU f else s.sfld i f

/-- The rounding mode, with RNE as the default (R99). -/
def State.rm (s : State) : Nat := match s.hint.xv with | some x => if x.rm = 0 then 1 else x.rm | none => 1

/-- The saturate bit. -/
def State.sat (s : State) : Bool := match s.hint.xv with | some x => x.sat == 1 | none => false

end Sys2Proof.Machine
end

