-- ==== Sys2Proof/Machine/Float.lean ====
section
/-! DEFINITION. Number formats and rounding: exact dyadic values, Decode, Encode, RoundToFormat (R94 to
R106), and the arithmetic of R103, R278 and R285. Formats are the codes of R231. -/

namespace Sys2Proof.Machine

/-- An exact value: NaN, an infinity, or (−1)^neg · m · 2^e. -/
inductive XR where
  | nan
  | inf (neg : Bool)
  | num (neg : Bool) (m : Nat) (e : Int)
  deriving DecidableEq, Repr

/-- Bits of an element code (R94, R96). -/
def fmtBits (f : Nat) : Nat :=
  match f with
  | 0 | 14 | 15 => 32
  | 1 | 2 | 11 | 12 => 16
  | 3 | 4 | 7 | 8 | 13 => 8
  | 5 => 6
  | _ => 4

/-- Bits an element takes in a register and in memory: .e3m2 takes a byte (R97, R286). -/
def fmtWidth (f : Nat) : Nat := if f = 5 then 8 else fmtBits f

/-- Exponent bits, mantissa bits and bias of a float format (R94). -/
def fmtExp (f : Nat) : Nat := match f with | 0 | 2 => 8 | 1 | 4 => 5 | 3 => 4 | 5 => 3 | _ => 2
/-- Mantissa bits M. -/
def fmtM (f : Nat) : Nat := match f with | 0 => 23 | 1 => 10 | 2 => 7 | 3 => 3 | 4 => 2 | 5 => 2 | _ => 1
/-- Bias. -/
def fmtBias (f : Nat) : Nat := 2 ^ (fmtExp f - 1) - 1
/-- The format is a float. -/
abbrev fmtFloat (f : Nat) : Bool := decide (f ≤ 6)
/-- The format is an integer. -/
abbrev fmtInt (f : Nat) : Bool := decide (7 ≤ f ∧ f ≤ 12) || f == 14 || f == 15
/-- The integer format is signed. -/
abbrev fmtSigned (f : Nat) : Bool := f == 7 || f == 9 || f == 11 || f == 14
/-- The format has infinities. -/
abbrev fmtInf (f : Nat) : Bool := f == 0 || f == 1 || f == 2 || f == 4

/-- Least and greatest value of an integer format (R96). -/
def intMin (f : Nat) : Int := if fmtSigned f then -(2 ^ (fmtBits f - 1) : Nat) else 0
/-- See `intMin`. -/
def intMax (f : Nat) : Int := if fmtSigned f then (2 ^ (fmtBits f - 1) : Nat) - 1 else (2 ^ fmtBits f : Nat) - 1

/-- Saturate (R100). -/
def saturate (v : Int) (f : Nat) : Int := max (intMin f) (min (intMax f) v)

/-- The exact value of an integer. -/
def XR.ofInt (v : Int) : XR := .num (decide (v < 0)) v.natAbs 0

/-- Decode(c, F) (R94 to R96, R100). -/
def decodeFmt (f c : Nat) : XR :=
  if f = 13 then
    let c := c % 256
    if c = 255 then .nan else .num false 1 ((c : Int) - 127)
  else if fmtFloat f then
    let M := fmtM f
    let m := c % 2 ^ M
    let e := c / 2 ^ M % 2 ^ fmtExp f
    let neg := bit c (fmtBits f - 1)
    let top := 2 ^ fmtExp f - 1
    if fmtInf f && e == top then (if m = 0 then .inf neg else .nan)
    else if f == 3 && e == top && m == 7 then .nan
    else if e = 0 then .num neg m (1 - (fmtBias f : Int) - M)
    else .num neg (2 ^ M + m) ((e : Int) - fmtBias f - M)
  else if fmtSigned f then .ofInt (signed (fmtBits f) c)
  else .ofInt ((c % 2 ^ fmtBits f : Nat) : Int)

/-- NaNCode(F) (R98, R101, R104). -/
def nanCode (f : Nat) : Nat :=
  match f with
  | 0 => 0x7FC00000
  | 1 => 0x7E00
  | 2 => 0x7FC0
  | 3 => 0x7F
  | 4 => 0x7E
  | 13 => 0xFF
  | _ => 0

/-- The sign bit of a float format, set. -/
def signBit (f : Nat) (neg : Bool) : Nat := if neg then 2 ^ (fmtBits f - 1) else 0

/-- The largest finite value of a float format, as mantissa and exponent (R94). -/
def maxFin (f : Nat) : Nat × Int :=
  let M := fmtM f
  let top := 2 ^ fmtExp f - 1
  if fmtInf f then (2 ^ (M + 1) - 1, (top : Int) - 1 - fmtBias f - M)
  else if f = 3 then (2 ^ (M + 1) - 2, (top : Int) - fmtBias f - M)
  else (2 ^ (M + 1) - 1, (top : Int) - fmtBias f - M)

/-- The code of the largest finite value. -/
def maxCode (f : Nat) : Nat :=
  let top := 2 ^ fmtExp f - 1
  if fmtInf f then (top - 1) * 2 ^ fmtM f + (2 ^ fmtM f - 1)
  else if f = 3 then top * 2 ^ fmtM f + (2 ^ fmtM f - 2)
  else top * 2 ^ fmtM f + (2 ^ fmtM f - 1)

/-- The code of infinity in a format that has one. -/
def infCode (f : Nat) : Nat := (2 ^ fmtExp f - 1) * 2 ^ fmtM f

/-- Compare a · 2^x with b · 2^y. -/
def gtScaled (a : Nat) (x : Int) (b : Nat) (y : Int) : Bool :=
  if x ≤ y then decide (b * 2 ^ (y - x).toNat < a) else decide (b < a * 2 ^ (x - y).toNat)

/-- An event that Count counts (R100). -/
inductive Event where
  | none | sat | flush | nan
  deriving DecidableEq, Repr

/-- The rounding step of R100: n or n + 1, where n = ⌊m · 2^e / 2^q⌋. Modes are those of R99. -/
def roundStep (neg : Bool) (m : Nat) (e q : Int) (mode w : Nat) : Nat :=
  if q ≤ e then m * 2 ^ (e - q).toNat
  else
    let den := 2 ^ (q - e).toNat
    let n := m / den
    let r := m % den
    let up := match mode with
      | 1 => decide (den < 2 * r) || (decide (2 * r = den) && decide (n % 2 = 1))
      | 2 => false
      | 3 => decide (0 < r) && !neg
      | 4 => decide (0 < r) && neg
      | 5 => decide (2 ^ 32 ≤ r * 2 ^ 32 / den + w)
      | 6 => decide (den ≤ 2 * r)
      | _ => false
    if up then n + 1 else n

/-- Overflow(F, s, m) of a float format (R101). -/
def overflowCode (f : Nat) (neg : Bool) (mode : Nat) (sat : Bool) : Nat :=
  if fmtInf f && !(sat || mode == 2 || (mode == 3 && neg) || (mode == 4 && !neg)) then
    signBit f neg + infCode f
  else signBit f neg + maxCode f

/-- The code of n · 2^q, n below 2^(M+1) or equal to it (R94, R100). -/
def encodeFin (f : Nat) (neg : Bool) (n : Nat) (q : Int) : Nat :=
  let M := fmtM f
  let (n, q) := if n = 2 ^ (M + 1) then (2 ^ M, q + 1) else (n, q)
  if n < 2 ^ M then signBit f neg + n
  else signBit f neg + ((q + M + fmtBias f).toNat * 2 ^ M + (n - 2 ^ M))

/-- RoundToFormat(x, F, m, w) with the saturate bit, and the event it counts (R100 to R102). -/
def roundTo (x : XR) (f mode w : Nat) (sat : Bool) : Nat × Event :=
  if fmtFloat f then
    match x with
    | .nan => (nanCode f, .nan)
    | .inf neg => if fmtInf f then (signBit f neg + infCode f, .none) else (signBit f neg + maxCode f, .sat)
    | .num neg m e =>
      if m = 0 then (signBit f neg, .none)
      else
        let q := max ((Nat.log2 m : Int) + e) (1 - (fmtBias f : Int)) - fmtM f
        let n := roundStep neg m e q mode w
        let (mm, me) := maxFin f
        if gtScaled n q mm me then (overflowCode f neg mode sat, .sat)
        else if n = 0 then (signBit f neg, .flush)
        else (encodeFin f neg n q, .none)
  else
    match x with
    | .nan => (0, .nan)
    | .inf neg => (wrapNat (fmtBits f) (if neg then intMin f else intMax f), .sat)
    | .num neg m e =>
      if m = 0 then (0, .none)
      else
        let n := roundStep neg m e 0 mode w
        let v : Int := if neg then -(n : Int) else n
        if v < intMin f then (wrapNat (fmtBits f) (intMin f), .sat)
        else if intMax f < v then (wrapNat (fmtBits f) (intMax f), .sat)
        else if n = 0 then (0, .flush)
        else (wrapNat (fmtBits f) v, .none)

/-- RoundToFormat, the code alone. -/
abbrev rtf (x : XR) (f mode w : Nat) (sat : Bool := false) : Nat := (roundTo x f mode w sat).1

/-- A conversion to .e8m0 (R104). -/
def toE8m0 (x : XR) : Nat × Event :=
  match x with
  | .nan | .inf _ => (0xFF, .nan)
  | .num neg m e =>
    if m = 0 then (0, .none)
    else if neg then (0xFF, .nan)
    else
      let k := (Nat.log2 m : Int) + e
      if 127 < k then (254, .sat)
      else if k < -127 then (0, .flush)
      else ((k + 127).toNat, .none)

/-- Scale(x, c) (R100). -/
def XR.scale (x : XR) (c : Nat) : XR :=
  if c = 0xFF then .nan
  else
    match x with
    | .num neg m e => .num neg m (e + (c : Int) - 127)
    | y => y

/-- x · 2^k. -/
def XR.shift (x : XR) (k : Int) : XR :=
  match x with
  | .num neg m e => .num neg m (e + k)
  | y => y

/-- −x. -/
def XR.neg : XR → XR
  | .nan => .nan
  | .inf n => .inf !n
  | .num n m e => .num (!n) m e

/-- |x|. -/
def XR.abs : XR → XR
  | .nan => .nan
  | .inf _ => .inf false
  | .num _ m e => .num false m e

/-- The signed numerator of a value over 2^e. -/
def scaledInt (neg : Bool) (m : Nat) (e lo : Int) : Int :=
  let v := m * 2 ^ (e - lo).toNat
  if neg then -(v : Int) else v

/-- An exact sum. `zneg` is the sign of an exact zero that is not the sum of two −0 (R103, R278). -/
def XR.add (zneg : Bool) (x y : XR) : XR :=
  match x, y with
  | .nan, _ => .nan
  | _, .nan => .nan
  | .inf a, .inf b => if a = b then .inf a else .nan
  | .inf a, _ => .inf a
  | _, .inf b => .inf b
  | .num a m e, .num b n f =>
    if m = 0 ∧ n = 0 ∧ a = true ∧ b = true then .num true 0 0
    else
      let lo := min e f
      let v := scaledInt a m e lo + scaledInt b n f lo
      if v = 0 then .num zneg 0 0 else .num (decide (v < 0)) v.natAbs lo

/-- An exact product (R103). -/
def XR.mul (x y : XR) : XR :=
  match x, y with
  | .nan, _ => .nan
  | _, .nan => .nan
  | .inf a, .inf b => .inf (a != b)
  | .inf a, .num b n _ => if n = 0 then .nan else .inf (a != b)
  | .num a m _, .inf b => if m = 0 then .nan else .inf (a != b)
  | .num a m e, .num b n f => .num (a != b) (m * n) (e + f)

/-- An exact sum of terms, where a zero is −0 only when every term is (R127, R285). -/
def XR.sum : List XR → XR
  | [] => .num false 0 0
  | [x] => x
  | x :: r => XR.add false x (XR.sum r)

/-- x < y on the extended reals; −0 equals +0 and NaN is below nothing (R262). -/
def XR.lt (x y : XR) : Bool :=
  match x, y with
  | .nan, _ => false
  | _, .nan => false
  | .inf a, .inf b => a && !b
  | .inf a, _ => a
  | _, .inf b => !b
  | .num a m e, .num b n f =>
    let lo := min e f
    decide (scaledInt a m e lo < scaledInt b n f lo)

/-- x = y on the extended reals. -/
def XR.eq (x y : XR) : Bool :=
  match x, y with
  | .nan, _ => false
  | _, .nan => false
  | a, b => !XR.lt a b && !XR.lt b a

/-- Compare .f32 words by a code of R237: a comparison with a NaN is false, except .ne (R262). -/
def cmpF32 (cc : Nat) (a b : Word) : Bool :=
  let x := decodeFmt 0 a.toNat
  let y := decodeFmt 0 b.toNat
  ccHolds cc (XR.eq x y) (XR.lt x y) (XR.lt y x)

/-- The sign of a value. -/
def XR.isNeg : XR → Bool
  | .nan => false
  | .inf n => n
  | .num n _ _ => n

/-- x is a zero. -/
def XR.isZero : XR → Bool
  | .num _ m _ => m == 0
  | _ => false

/-- The smaller (or larger) of two values, −0 below +0; a NaN against a number gives the number (R268). -/
def XR.pick (larger : Bool) (x y : XR) : XR :=
  match x, y with
  | .nan, y => y
  | x, .nan => x
  | x, y =>
    let less := XR.lt x y || (x.isZero && y.isZero && x.isNeg && !y.isNeg)
    if less = larger then y else x

/-- One step of .f32 arithmetic by RNE: R(x) of the update rules and slab sums. -/
def r32 (x : XR) : Word := w32 (rtf x 0 1 0)

/-- The value of a .f32 word. -/
abbrev f32 (w : Word) : XR := decodeFmt 0 w.toNat

/-- %dnorm > %dthr, or NaN: what CheckDivergence tests (R158). -/
def diverges (dnorm dthr : Word) : Bool :=
  match f32 dnorm with
  | .nan => true
  | x => XR.lt (f32 dthr) x

/-- GenWord(K, blk, dom, wid, lane, elem, seq) (R106). -/
def genWord (K blk dom wid lane elem seq : Nat) : Nat :=
  let c0 := (blk * 2 ^ 32 + dom * 2 ^ 28 + wid * 2 ^ 20 + lane * 2 ^ 14 + elem * 2 ^ 11) % 2 ^ 64
  let z := (c0 ^^^ K) ^^^ (seq * 0x9E3779B97F4A7C15 % 2 ^ 64)
  let z := (z ^^^ (z / 2 ^ 30)) * 0xBF58476D1CE4E5B9 % 2 ^ 64
  let z := (z ^^^ (z / 2 ^ 27)) * 0x94D049BB133111EB % 2 ^ 64
  let z := z ^^^ (z / 2 ^ 31)
  z / 2 ^ 32

/-- The element of width `w` at index `i` of a word. -/
abbrev elemOf (w i x : Nat) : Nat := field x (w * i) w

/-- A word from elements of width `w`, from the lowest up. -/
def joinElems (w : Nat) : List Nat → Nat
  | [] => 0
  | x :: r => x % 2 ^ w + 2 ^ w * joinElems w r

end Sys2Proof.Machine
end

