-- ==== Sys2Proof/Machine/Trans.lean ====
section
/-! DEFINITION. The unary float operations of R279 and R280 as exact results: each answers a dyadic value
whose last bit is sticky, precise far beyond the 2^-32 of an ulp that rounding looks at. -/

namespace Sys2Proof.Machine

/-- Fraction bits of the fixed-point work. -/
abbrev fixP : Nat := 512

/-- ⌊π · 2^512⌋. -/
def piFix : Nat := 0x3243F6A8885A308D313198A2E03707344A4093822299F31D0082EFA98EC4E6C89452821E638D01377BE5466CF34E90C6CC0AC29B7C97C50DD3F84D5B5B5470917

/-- ⌊ln 2 · 2^512⌋. -/
def ln2Fix : Nat := 0xB17217F7D1CF79ABC9E3B39803F2F6AF40F343267298B62D8A0D175B8BAAFA2BE7B876206DEBAC98559552FB4AFA1B10ED2EAE35C138214427573B291169B825

/-- The tail of the exponential series after the term t, in fixed point. -/
def expTail (y : Nat) : Nat → Nat → Nat → Nat
  | 0, _, _ => 0
  | fuel + 1, k, t => let t' := t * y / 2 ^ fixP / k; t' + expTail y fuel (k + 1) t'

/-- 2^f for a fraction f, in fixed point. -/
def exp2Frac (f : Nat) : Nat := 2 ^ fixP + expTail (f * ln2Fix / 2 ^ fixP) 130 1 (2 ^ fixP)

/-- The alternating series of the sine after a term t: z is θ², k the number of the last factor. -/
def sinTail (z : Nat) : Nat → Nat → Nat → Int
  | 0, _, _ => 0
  | fuel + 1, k, t => let t' := t * z / 2 ^ fixP / ((k + 1) * (k + 2)); -((t' : Int) + sinTail z fuel (k + 2) t')

/-- sin(π·r) for 0 < r < 1/2 given in fixed point. -/
def sinFix (r : Nat) : Nat :=
  let th := r * piFix / 2 ^ fixP
  ((th : Int) + sinTail (th * th / 2 ^ fixP) 80 1 th).toNat

/-- Binary digits of log2 y for y in [1, 2) with 600 fraction bits. -/
def logBits : Nat → Nat → Nat → Nat
  | 0, _, acc => acc
  | fuel + 1, y, acc =>
    let y := y * y / 2 ^ 600
    if 2 ^ 601 ≤ y then logBits fuel (y / 2) (2 * acc + 1) else logBits fuel y (2 * acc)

/-- Integer square root, a bit at a time from bit `n - 1`. -/
def isqrtFrom (x : Nat) : Nat → Nat → Nat
  | 0, r => r
  | n + 1, r => let t := r + 2 ^ n; isqrtFrom x n (if t * t ≤ x then t else r)

/-- Integer square root. -/
def isqrt (x : Nat) : Nat := isqrtFrom x (Nat.log2 x / 2 + 1) 0

/-- A value between n · 2^e and (n + 1) · 2^e, exact when `ex`. -/
def sticky (neg : Bool) (n : Nat) (e : Int) (ex : Bool) : XR :=
  .num neg (2 * n + (if ex then 0 else 1)) (e - 1)

/-- 1/x. -/
def xrRcp (x : XR) : XR :=
  match x with
  | .nan => .nan
  | .inf n => .num n 0 0
  | .num n m e =>
    if m = 0 then .inf n
    else
      let s := Nat.log2 m + 100
      sticky n (2 ^ s / m) (-(s : Int) - e) (decide (2 ^ s % m = 0))

/-- √x. -/
def xrSqrt (x : XR) : XR :=
  match x with
  | .nan => .nan
  | .inf n => if n then .nan else .inf false
  | .num n m e =>
    if m = 0 then .num n 0 0
    else if n then .nan
    else
      let odd := (e % 2).toNat
      let m' := m * 2 ^ (200 + odd)
      let r := isqrt m'
      sticky false r ((e - odd) / 2 - 100) (decide (r * r = m'))

/-- 1/√x. -/
def xrRsq (x : XR) : XR :=
  match x with
  | .nan => .nan
  | .inf n => if n then .nan else .num false 0 0
  | .num n m e =>
    if m = 0 then .inf n
    else if n then .nan
    else
      let odd := (e % 2).toNat
      let m' := m * 2 ^ odd
      let s := Nat.log2 m' + 100
      let r := isqrt (2 ^ (2 * s) / m')
      sticky false r (-(s : Int) - (e - odd) / 2) (decide (r * r * m' = 2 ^ (2 * s)))

/-- Exponents beyond these bounds overflow or vanish in every format. -/
def clampExp (k : Int) : Int := max (-4096) (min 4096 k)

/-- 2^x. -/
def xrExp2 (x : XR) : XR :=
  match x with
  | .nan => .nan
  | .inf n => if n then .num false 0 0 else .inf false
  | .num n m e =>
    if m = 0 then .num false 1 0
    else if 0 ≤ e then
      let v := if 13 ≤ e then 4096 else m * 2 ^ e.toNat
      .num false 1 (clampExp (if n then -(v : Int) else v))
    else
      let k := (-e).toNat
      let i := m / 2 ^ k
      let r := m % 2 ^ k
      if r = 0 then .num false 1 (clampExp (if n then -(i : Int) else i))
      else
        let fl : Int := if n then -(i : Int) - 1 else i
        let fr := (if n then 2 ^ k - r else r) * 2 ^ fixP / 2 ^ k
        sticky false (exp2Frac fr) (clampExp fl - fixP) false

/-- log₂ x. -/
def xrLog2 (x : XR) : XR :=
  match x with
  | .nan => .nan
  | .inf n => if n then .nan else .inf false
  | .num n m e =>
    if m = 0 then .inf true
    else if n then .nan
    else
      let l := Nat.log2 m
      let E : Int := (l : Int) + e
      if m = 2 ^ l then .ofInt E
      else
        let v : Int := 2 * (E * (2 ^ 160 : Nat) + logBits 160 (m * 2 ^ 600 / 2 ^ l) 0) + 1
        .num (decide (v < 0)) v.natAbs (-161)

/-- ±sin(π·a/2^k) for 0 < a ≤ 2^(k-1). -/
def sinPart (neg : Bool) (a k : Nat) : XR :=
  if 2 * a = 2 ^ k then .num neg 1 0 else sticky neg (sinFix (a * 2 ^ fixP / 2 ^ k)) (-(fixP : Int)) false

/-- sin(π·x). -/
def xrSin (x : XR) : XR :=
  match x with
  | .nan | .inf _ => .nan
  | .num n m e =>
    if m = 0 ∨ 0 ≤ e then .num n 0 0
    else
      let k := (-e).toNat
      let one := 2 ^ k
      let r := m % (2 * one)
      let a := r % one
      if a = 0 then .num n 0 0
      else sinPart (n != decide (one < r)) (if one < 2 * a then one - a else a) k

/-- cos(π·x). -/
def xrCos (x : XR) : XR :=
  match x with
  | .nan | .inf _ => .nan
  | .num _ m e =>
    if m = 0 then .num false 1 0
    else if 0 ≤ e then .num (decide (e = 0) && decide (m % 2 = 1)) 1 0
    else
      let k := (-e).toNat
      let one := 2 ^ k
      let r := m % (2 * one)
      let half := one / 2
      if r = 0 then .num false 1 0
      else if r = one then .num true 1 0
      else if r % one = half then .num false 0 0
      else if r < half then sinPart false (half - r) k
      else if r < one then sinPart true (r - half) k
      else if r < one + half then sinPart true (one + half - r) k
      else sinPart false (r - one - half) k

/-- The unary operations 00001 to 00111 of R279 by their code. (UNVERIFIED, log 35) -/
def unaryOp (op : Nat) (x : XR) : XR :=
  match op with
  | 1 => xrRcp x
  | 2 => xrRsq x
  | 3 => xrSqrt x
  | 4 => xrExp2 x
  | 5 => xrLog2 x
  | 6 => xrSin x
  | _ => xrCos x

/-- FRND: round to an integral value of the format (R279). -/
def frndCode (f c mode w : Nat) : Nat :=
  match decodeFmt f c with
  | .nan => nanCode f
  | .inf n => signBit f n + infCode f
  | .num n m e =>
    if m = 0 then signBit f n
    else if (fmtM f : Int) ≤ (Nat.log2 m : Int) + e then c
    else rtf (.num n (roundStep n m e 0 mode w) 0) f 1 0

end Sys2Proof.Machine
end

