-- ==== Sys2Proof/Machine/Uniform.lean ====
section
/-! DEFINITION. Uniform arithmetic and moves, special registers, RDLANE, SCMP, SLD (R256 to R261). -/

namespace Sys2Proof.Machine

/-- Write one uniform register, the first field of the word, and go on. -/
def State.sdone (s : State) (d : Nat) (x : Word) : State := (s.sput (s.sname 1 d) x).advance

/-- A shift by a count of 32 or more gives zero, or sign copies (R257, R274). -/
def shl32 (x c : Word) : Word := if c.toNat < 32 then x <<< c.toNat else 0
/-- See `shl32`. -/
def shr32 (x c : Word) : Word := if c.toNat < 32 then x >>> c.toNat else 0
/-- See `shl32`. -/
def sar32 (x c : Word) : Word := if c.toNat < 32 then x.sshiftRight c.toNat else if x.msb then 0xFFFFFFFF else 0

/-- SADD (R256). -/
def execSadd (sd sa sb x : Nat) (s : State) : Res :=
  issue (.sadd sd sa sb x) s (.go (s.sdone sd (s.sfld 2 sa + s.opS 3 sb x)))

/-- SSUB (R256). -/
def execSsub (sd sa sb x : Nat) (s : State) : Res :=
  issue (.ssub sd sa sb x) s (.go (s.sdone sd (s.sfld 2 sa - s.opS 3 sb x)))

/-- SAND (R256). -/
def execSand (sd sa sb x : Nat) (s : State) : Res :=
  issue (.sand sd sa sb x) s (.go (s.sdone sd (s.sfld 2 sa &&& s.opS 3 sb x)))

/-- SOR (R256). -/
def execSor (sd sa sb x : Nat) (s : State) : Res :=
  issue (.sor sd sa sb x) s (.go (s.sdone sd (s.sfld 2 sa ||| s.opS 3 sb x)))

/-- SXOR (R256). -/
def execSxor (sd sa sb x : Nat) (s : State) : Res :=
  issue (.sxor sd sa sb x) s (.go (s.sdone sd (s.sfld 2 sa ^^^ s.opS 3 sb x)))

/-- SCMP (R260): writes predicate k in every issuing lane. -/
def execScmp (sa sb u cc k : Nat) (s : State) : Res :=
  issue (.scmp sa sb u cc k) s
    (.go ((s.mapIm fun l => l.pput k (cmpWord cc (u == 1) (s.sfld 1 sa) (s.sfld 2 sb))).advance))

/-- SMOV (R257). -/
def execSmov (sd sa : Nat) (s : State) : Res :=
  issue (.smov sd sa) s (.go (s.sdone sd (s.sfld 2 sa)))

/-- SMOVI (R257). -/
def execSmovi (sd imm : Nat) (s : State) : Res :=
  issue (.smovi sd imm) s (.go (s.sdone sd (s.immU imm)))

/-- SMUL (R257). -/
def execSmul (sd sa x : Nat) (s : State) : Res :=
  issue (.smul sd sa x) s (.go (s.sdone sd (s.sfld 1 sd * s.opS 2 sa x)))

/-- SSHL (R257). -/
def execSshl (sd sa x : Nat) (s : State) : Res :=
  issue (.sshl sd sa x) s (.go (s.sdone sd (shl32 (s.sfld 1 sd) (s.opS 2 sa x))))

/-- SSHR (R257). -/
def execSshr (sd sa x : Nat) (s : State) : Res :=
  issue (.sshr sd sa x) s (.go (s.sdone sd (shr32 (s.sfld 1 sd) (s.opS 2 sa x))))

/-- SSHR.i32 (R257). -/
def execSshrI32 (sd sa x : Nat) (s : State) : Res :=
  issue (.sshrI32 sd sa x) s (.go (s.sdone sd (sar32 (s.sfld 1 sd) (s.opS 2 sa x))))

/-- The plane session that the focused block's grid has joined (R63). -/
def State.joined (s : State) : Option Session :=
  if (s.grid?.map (·.joined)) = some true then s.session else none

/-- Tensor group g of the joined session. -/
def State.group? (s : State) (g : Nat) : Option Group := s.joined.bind fun x => x.groups[g]?

/-- %dthr of each tensor group as the issuing word reads it (R63, R243). -/
def State.dthrs (s : State) : List Word :=
  match s.w.view with
  | some v => v.dthr
  | none => (s.joined.map fun x => x.groups.map (·.dthr)).getD []

/-- A special register by its code, as a lane reads it; %clock gives its low word (R17, R63, R235). -/
def State.special (s : State) (l : Lane) (c : Nat) : Word :=
  match c with
  | 0x00 => w32 l.tid
  | 0x01 => w32 l.id
  | 0x02 => w32 s.w.wid
  | 0x03 => w32 s.blk.idx
  | 0x04 => w32 s.blk.grid
  | 0x05 => w32 ((s.grid?.map (·.depth)).getD 0)
  | 0x06 => w32 s.W
  | 0x07 => w32 s.w.role
  | 0x08 => w32 s.core
  | 0x09 => w32 s.dieNo
  | 0x0A => w32 (s.die s.dieNo).dev
  | 0x0B => w32 (s.die s.dieNo).isl
  | 0x0C => w32 s.clock
  | 0x0D => (s.joined.map (·.ls)).getD 0x3F800000
  | _ =>
    if 0x10 ≤ c ∧ c ≤ 0x1F then ((s.group? (c - 0x10)).map (·.dnorm)).getD 0
    else if 0x20 ≤ c ∧ c ≤ 0x2F then (s.dthrs[c - 0x20]?).getD 0x7F800000
    else w32 (s.w.seen.flag (c - 0x30)).status

/-- MOVS (R64, R258): %clock writes two words. -/
def execMovs (sd code : Nat) (s : State) : Res :=
  let l := s.lead.getD
    { id := 0, tid := 0, st := .vacant, pc := 0, depth := 0, chain := [], v := [], p := 0, h := false,
      arr := 0, lateMask := 0, arrived := none, join := none, spill := [], clause := none, hint := {},
      yielded := false }
  issue (.movs sd code) s
    (.go (if code = 0x0C then (s.sputs (s.sname 1 sd) [lo32 s.clock, hi32 s.clock]).advance
      else s.sdone sd (s.special l code)))

/-- CheckDivergence(g) (R158). -/
def Group.check (g : Group) : Group := { g with div := diverges g.dnorm g.dthr }

/-- The group register %dthr[g] with its divergence check (R258). -/
def Session.setThr (x : Session) (g : Nat) (v : Word) : Session :=
  { x with groups := listMod x.groups g fun y => { y with dthr := v }.check }

/-- DIV[g] of a session. -/
def Session.divOf (x : Session) (g : Nat) : Bool := (x.groups[g]?.map (·.div)).getD false

/-- WRS (R64, R258): a DIV bit that becomes set gives the divergence trap to this warp. -/
def execWrs (code sa : Nat) (s : State) : Res :=
  issue (.wrs code sa) s
    (match s.joined with
      | none => .cause 0x38
      | some x =>
        let g := code - 0x20
        let x' := x.setThr g (s.sfld 2 sa)
        .go { s with
          session := some x'
          w := { s.w with divPend := s.w.divPend || (x'.divOf g && !x.divOf g) } }.advance)

/-- RDLANE (R259): the lane is read whatever its state; a vacant lane gives zero. -/
def execRdlane (sd va lane : Nat) (s : State) : Res :=
  issue (.rdlane sd va lane) s
    (.go (s.sdone sd (match s.w.lanes[lane]? with
      | some l => if l.st = .vacant then 0 else s.vget l va
      | none => 0)))

/-- What the issuing warp's later accesses come after and is not over (DEDUCED, log 33): the far acquires whose reply has not
arrived (R305), and the copies whose permit a LAND has waited out and which have accesses to come (R315). -/
def State.acquires (s : State) : List Nat :=
  (s.farQ.filter fun x => x.kind == 1 && x.blk == s.blk.key && x.wid == s.w.wid && !x.acked).map (·.id) ++
  s.w.landed.filter fun c => s.copies.any (·.id == c)

/-- SLD (R261): an ordinary Granary read into a uniform register, after the far acquires before it (R305). As a load from the
Granary it issues here and reads its word later (R181); what names the register meanwhile waits. (DEDUCED, log 45) -/
def execSld (sd sa imm : Nat) (s : State) : Res :=
  let a := (s.sfld 2 sa).toNat + 4 * (s.immU imm).toNat
  let bad (c : Nat) : Act := .trap { cause := c, addr := a, mask := s.lead.map fun l => 2 ^ l.id }
  issue (.sld sd sa imm) s
    (if a % 4 ≠ 0 then bad 0x20
    else if !s.granaryOk s.blk.grid s.dieNo a 4 then bad 0x23
    else if !s.acquires.isEmpty then .stall
    else
      let whos := s.issuing.map fun l => s.threadOf l.id
      let x : GLoad :=
        { serial := s.serial, lane := 0, addr := a, size := 4, reg := s.sname 1 sd, dest := .uniform, whos := whos
          clk := whos.foldl (fun c w => joinClk c (s.order.pastOf w)) (s.order.ofRegs (s.uKeys [s.sname 2 sa])) }
      .go ({ s with serial := s.serial + 1, w := { s.w with gloads := s.w.gloads ++ [x] } } : State).advance)

end Sys2Proof.Machine
end

