-- ==== Sys2Proof/Machine/Predicate.lean ====
section
/-! DEFINITION. Predicate comparisons, predicate logic, PPOP and VOTE (R262 to R264). -/

namespace Sys2Proof.Machine

/-- SETP: the result to pd and its complement to pe in every active lane (R262, R244). -/
def State.setpBoth (s : State) (pd pe : Nat) (c : Lane → Bool) : State :=
  (s.mapIm fun l =>
    if s.active 0 l then (l.pput pd (c l)).pput pe (!c l)
    else if s.zi then (l.pput pd false).pput pe false
    else l).advance

/-- SETP.i32 (R262). -/
def execSetpI32 (pd pe va vb cc : Nat) (s : State) : Res :=
  issue (.setpI32 pd pe va vb cc) s
    (.go (s.setpBoth pd pe fun l => cmpWord cc false (s.vget l va) (s.vget l vb)))

/-- SETP.n32 (R262). -/
def execSetpN32 (pd pe va vb cc : Nat) (s : State) : Res :=
  issue (.setpN32 pd pe va vb cc) s
    (.go (s.setpBoth pd pe fun l => cmpWord cc true (s.vget l va) (s.vget l vb)))

/-- SETP.f32 (R262). -/
def execSetpF32 (pd pe va vb cc : Nat) (s : State) : Res :=
  issue (.setpF32 pd pe va vb cc) s
    (.go (s.setpBoth pd pe fun l => cmpF32 cc (s.vget l va) (s.vget l vb)))

/-- A source predicate, inverted where marked (R237, R263). -/
def psrc (l : Lane) (p n : Nat) : Bool := l.pget p != (n == 1)

/-- PAND (R263). -/
def execPand (pd pa pb na nb g : Nat) (s : State) : Res :=
  issue (.pand pd pa pb na nb g) s
    (.go (s.pwrite g pd fun l => psrc l pa na && psrc l pb nb).advance)

/-- POR (R263). -/
def execPor (pd pa pb na nb g : Nat) (s : State) : Res :=
  issue (.por pd pa pb na nb g) s
    (.go (s.pwrite g pd fun l => psrc l pa na || psrc l pb nb).advance)

/-- PXOR (R263). -/
def execPxor (pd pa pb na nb g : Nat) (s : State) : Res :=
  issue (.pxor pd pa pb na nb g) s
    (.go (s.pwrite g pd fun l => psrc l pa na != psrc l pb nb).advance)

/-- PNOT (R263). -/
def execPnot (pd pa na g : Nat) (s : State) : Res :=
  issue (.pnot pd pa na g) s (.go (s.pwrite g pd fun l => !psrc l pa na).advance)

/-- PMOV (R263). -/
def execPmov (pd pa na g : Nat) (s : State) : Res :=
  issue (.pmov pd pa na g) s (.go (s.pwrite g pd fun l => psrc l pa na).advance)

/-- PPOP (R264). -/
def execPpop (sd pa g : Nat) (s : State) : Res :=
  issue (.ppop sd pa g) s
    (.go (if s.acts g then s.sdone sd (w32 ((s.actives g).filter (·.pget pa)).length) else s.advance))

/-- VOTE.any (R264): written in every issuing lane. -/
def execVoteAny (pa pd g : Nat) (s : State) : Res :=
  issue (.voteAny pa pd g) s
    (.go (if s.acts g then (s.mapIm fun l => l.pput pd ((s.actives g).any (·.pget pa))).advance else s.advance))

/-- VOTE.all (R264): written in every issuing lane. -/
def execVoteAll (pa pd g : Nat) (s : State) : Res :=
  issue (.voteAll pa pd g) s
    (.go (if s.acts g then (s.mapIm fun l => l.pput pd ((s.actives g).all (·.pget pa))).advance else s.advance))

/-- VOTE.ballot (R264): lanes 32 to 63 go to the second word at W = 64. -/
def execVoteBallot (sd pa g : Nat) (s : State) : Res :=
  let m := maskOf ((s.actives g).filter (·.pget pa))
  issue (.voteBallot sd pa g) s
    (.go (if s.acts g then
        (s.sputs (s.sname 1 sd) (if s.W = 64 then [lo32 m, hi32 m] else [lo32 m])).advance
      else s.advance))

end Sys2Proof.Machine
end

