-- ==== Sys2Proof/Machine/Cross.lean ====
section
/-! DEFINITION. Cross-lane instructions and GLEAN (R265 to R270). -/

namespace Sys2Proof.Machine

/-- Write one vector register in every issuing lane as R244 gives, and go on. -/
def State.vop (s : State) (g d : Nat) (f : Lane → Word) : State := (s.vwrite g [d] fun l => [f l]).advance

/-- What lane `l` receives from source lane `j`: its own value where `j` is no source lane (R265). -/
def State.fromLane (s : State) (g a : Nat) (l : Lane) (j : Option Nat) : Word :=
  match j.bind fun j => s.w.lanes[j]? with
  | some m => if s.active g m then s.vget m a else s.vget l a
  | none => s.vget l a

/-- SHFL.idx (R266). -/
def execShflIdx (vd va vb g : Nat) (s : State) : Res :=
  issue (.shflIdx vd va vb g) s
    (.go (s.vop g vd fun l => s.fromLane g va l (some ((s.opB l vb).toNat % s.W))))

/-- SHFL.up (R266). -/
def execShflUp (vd va d g : Nat) (s : State) : Res :=
  issue (.shflUp vd va d g) s
    (.go (s.vop g vd fun l => s.fromLane g va l (if d ≤ l.id then some (l.id - d) else none)))

/-- SHFL.down (R266). -/
def execShflDown (vd va d g : Nat) (s : State) : Res :=
  issue (.shflDown vd va d g) s (.go (s.vop g vd fun l => s.fromLane g va l (some (l.id + d))))

/-- SHFL.xor (R266). -/
def execShflXor (vd va m g : Nat) (s : State) : Res :=
  issue (.shflXor vd va m g) s (.go (s.vop g vd fun l => s.fromLane g va l (some (l.id ^^^ m))))

/-- BCAST (R267). -/
def execBcast (vd va sb g : Nat) (s : State) : Res :=
  issue (.bcast vd va sb g) s
    (.go (s.vop g vd fun l => s.fromLane g va l (some ((s.sfld 1 sb).toNat % s.W))))

/-- Identity of a scan operation (R268). -/
def scanIdentity (op : Nat) : Word :=
  match op with
  | 0 | 1 => 0
  | 2 => 0x7FFFFFFF
  | 3 => 0xFFFFFFFF
  | 4 => 0x7F800000
  | 5 => 0x80000000
  | 6 => 0
  | _ => 0xFF800000

/-- The canonical NaN in place of any other .f32 NaN (R98). -/
def canon32 (w : Word) : Word := if f32 w = .nan then 0x7FC00000 else w

/-- Combine(a, x) of a scan operation, rounding by `rm` (R268). -/
def scanCombine (op rm : Nat) (a x : Word) : Word :=
  match op with
  | 0 => a + x
  | 1 => w32 (rtf (XR.add (rm == 4) (f32 a) (f32 x)) 0 rm 0)
  | 2 => if BitVec.slt x a then x else a
  | 3 => if BitVec.ult x a then x else a
  | 4 => w32 (rtf (XR.pick false (f32 a) (f32 x)) 0 1 0)
  | 5 => if BitVec.slt a x then x else a
  | 6 => if BitVec.ult a x then x else a
  | _ => w32 (rtf (XR.pick true (f32 a) (f32 x)) 0 1 0)

/-- A value of a scan, a passed NaN made canonical in the float operations (R268). -/
def scanCanon (op : Nat) (x : Word) : Word := if op = 1 ∨ op = 4 ∨ op = 7 then canon32 x else x

/-- Scan (R268): over pairs of a lane's number and whether it starts a segment and its value; answers
the lane's number with the value before it and the value with it. -/
def scanList (op rm : Nat) : Option Word → List (Nat × Bool × Word) → List (Nat × Word × Word)
  | _, [] => []
  | acc, (l, st, x) :: r =>
    let have' := if st then none else acc
    let old := match have' with | some a => a | none => scanIdentity op
    let new := match have' with | some a => scanCombine op rm a x | none => scanCanon op x
    (l, old, new) :: scanList op rm (some new) r

/-- The scan of the active lanes. -/
def State.scanOf (s : State) (g a op : Nat) (starts : Lane → Bool) : List (Nat × Word × Word) :=
  scanList op s.rm none ((s.actives g).map fun l => (l.id, starts l, s.vget l a))

/-- The entry of a lane in a scan's answer. -/
def scanAt (r : List (Nat × Word × Word)) (l : Nat) : Word × Word := (smGet r l).getD (0, 0)

/-- SCAN (R268). -/
def execScan (vd va excl op g : Nat) (s : State) : Res :=
  let r := s.scanOf g va op fun _ => false
  issue (.scan vd va excl op g) s
    (.go (s.vop g vd fun l => if excl = 1 then (scanAt r l.id).1 else (scanAt r l.id).2))

/-- SEGSCAN.incl (R268). -/
def execSegscanIncl (vd va ps op g : Nat) (s : State) : Res :=
  let r := s.scanOf g va op fun l => l.pget ps
  issue (.segscanIncl vd va ps op g) s (.go (s.vop g vd fun l => (scanAt r l.id).2))

/-- SEGSCAN.excl (R268). -/
def execSegscanExcl (vd va ps op g : Nat) (s : State) : Res :=
  let r := s.scanOf g va op fun l => l.pget ps
  issue (.segscanExcl vd va ps op g) s (.go (s.vop g vd fun l => (scanAt r l.id).1))

/-- RED (R268): the last value of the scan, in every active lane. -/
def execRed (vd va op g : Nat) (s : State) : Res :=
  let r := s.scanOf g va op fun _ => false
  issue (.red vd va op g) s
    (.go (s.vop g vd fun _ => match r.getLast? with | some x => x.2.2 | none => 0))

/-- A shared-memory read of `n` bytes, none where it breaks R69. -/
def State.sharedTry (s : State) (a n : Nat) : Option Nat :=
  if s.sharedOk a n then some (s.loadNat .shared a n) else none

/-- Skip() of GLEAN: the next row with an element left, by fuel (R270). -/
def State.gleanSkip (s : State) (ltab nrows : Nat) : Nat → Nat → Nat → Option (Nat × Nat)
  | 0, row, col => some (row, col)
  | fuel + 1, row, col =>
    if nrows ≤ row then some (row, col)
    else
      match s.sharedTry (ltab + 2 * row) 2 with
      | none => none
      | some len => if len ≤ col then s.gleanSkip ltab nrows fuel (row + 1) 0 else some (row, col)

/-- GLEAN over `n` lanes: what each takes, and the next row and column (R270). -/
def State.gleanRun (s : State) (ltab data nrows pitch : Nat) :
    Nat → Nat → Nat → Option (List (Word × Bool) × Nat × Nat)
  | 0, row, col => (s.gleanSkip ltab nrows (nrows + 1 - row) row col).map fun rc => ([], rc.1, rc.2)
  | n + 1, row, col =>
    match s.gleanSkip ltab nrows (nrows + 1 - row) row col with
    | none => none
    | some (row, col) =>
      if row < nrows then
        match s.sharedTry (data + 4 * (row * pitch + col)) 4 with
        | none => none
        | some x =>
          (s.gleanRun ltab data nrows pitch n row (col + 1)).map fun r => ((w32 x, col == 0) :: r.1, r.2)
      else (s.gleanRun ltab data nrows pitch n row col).map fun r => ((0, true) :: r.1, r.2)

/-- The row lengths that Skip() reads: offset and length. -/
def State.skipReads (s : State) (ltab nrows : Nat) : Nat → Nat → Nat → List (Nat × Nat)
  | 0, _, _ => []
  | fuel + 1, row, col =>
    if nrows ≤ row then []
    else
      (ltab + 2 * row, 2) :: match s.sharedTry (ltab + 2 * row) 2 with
        | none => []
        | some len => if len ≤ col then s.skipReads ltab nrows fuel (row + 1) 0 else []

/-- What GLEAN reads of shared memory: offsets and lengths. -/
def State.gleanReads (s : State) (ltab data nrows pitch : Nat) : Nat → Nat → Nat → List (Nat × Nat)
  | 0, row, col => s.skipReads ltab nrows (nrows + 1 - row) row col
  | n + 1, row, col =>
    s.skipReads ltab nrows (nrows + 1 - row) row col ++ match s.gleanSkip ltab nrows (nrows + 1 - row) row col with
      | none => []
      | some (row, col) =>
        if row < nrows then (data + 4 * (row * pitch + col), 4) :: s.gleanReads ltab data nrows pitch n row (col + 1)
        else s.gleanReads ltab data nrows pitch n row col

/-- Lanes have read ranges of shared memory together, into their registers `vs` and the warp's `us` (R26, R181). -/
def State.heardAll (s : State) (lanes : List Nat) (rs : List (Nat × Nat)) (vs us : List Nat) : State :=
  let seen := rs.flatMap fun r => ((List.range r.2).map (r.1 + ·)).filter fun a => !s.w.queue.any fun q => q.covers .shared a
  let got := s.order.handed (seen.map (byteKey (s.memTag .shared)))
  let one (o : Orders) (l : Nat) : Orders :=
    (o.reads (s.vKeys l vs ++ s.uKeys us) (joinClk got (s.order.loadClk (s.threadOf l)))).learn [s.threadOf l] got false
  { s with order := lanes.foldl one s.order }

/-- GLEAN (R269, R270). With no active lane it hands out nothing and leaves its state (R242). Its reads wait for
the far acquires before them (R305). -/
def execGlean (vd pd sa g : Nat) (s : State) : Res :=
  let b := s.sname 1 sa
  let w0 := (s.sget b).toNat
  let w1 := (s.sget (b + 1)).toNat
  let w2 := (s.sget (b + 2)).toNat
  let w3 := (s.sget (b + 3)).toNat
  let act := s.actives g
  let write (vals : List (Word × Bool)) : State :=
    let at' (l : Lane) : Word × Bool := vals.getD (act.findIdx fun m => m.id == l.id) (0, false)
    s.mapIm fun l =>
      if s.active g l then (l.vput vd (at' l).1).pput pd (at' l).2
      else if s.zi then (l.vput vd 0).pput pd false
      else l
  issue (.glean vd pd sa g) s
    (if act.isEmpty then .go (write []).advance
    else
      Act.require (decide (w0 < 2 ^ 19) && decide (w1 < 2 ^ 19)) 0x22
        (Act.require (w0 % 2 == 0 && w1 % 4 == 0) 0x20
          (if !s.acquires.isEmpty then .stall
          else
            match s.gleanRun w0 w1 (w3 / 2 ^ 16) (w3 % 2 ^ 16) act.length (w2 / 2 ^ 16) (w2 % 2 ^ 16) with
            | none => .cause 0x22
            | some (vals, row, col) =>
              let rs := s.gleanReads w0 w1 (w3 / 2 ^ 16) (w3 % 2 ^ 16) act.length (w2 / 2 ^ 16) (w2 % 2 ^ 16)
              s.unlessBroken rs
                (.go (((write vals).sput (b + 2) (w32 (row * 2 ^ 16 + col))).heardAll (act.map (·.id)) rs (vd :: predRegs [pd])
                  [b + 2]).advance))))

end Sys2Proof.Machine
end

