-- ==== Sys2Proof/Machine/Integer.lean ====
section
/-! DEFINITION. Vector integer and bit operations (R274 to R277). -/

namespace Sys2Proof.Machine

/-- Number of 1 bits among the low `n`. -/
def popCount (x : Nat) : Nat → Nat
  | 0 => 0
  | n + 1 => popCount x n + (if bit x n then 1 else 0)

/-- Number of leading 0 bits of a word. -/
def leadZeros (x : Nat) : Nat := if x = 0 then 32 else 31 - Nat.log2 x

/-- The low `n` bits reversed. -/
def reverseBits (x : Nat) : Nat → Nat
  | 0 => 0
  | n + 1 => 2 * reverseBits x n + (if bit x n then 1 else 0)

/-- Field position and length of BFX and BFI (R277). -/
def bfField (x : Word) : Nat × Nat := (min (x.toNat % 256) 32, min (x.toNat / 256 % 256) 32)

/-- BFX (R277). -/
def bfx (sgn : Bool) (x f : Word) : Word :=
  let (p, n) := bfField f
  if n = 0 then 0
  else
    let v : Int := if sgn then x.toInt / (2 ^ p : Nat) else (x.toNat / 2 ^ p : Nat)
    let y := wrapNat n v
    if sgn then w32i (signed n y) else w32 y

/-- BFI (R277). -/
def bfi (x a f : Word) : Word :=
  let (p, n) := bfField f
  let m : Word := w32 ((2 ^ n - 1) * 2 ^ p)
  (x &&& ~~~m) ||| (w32 (a.toNat * 2 ^ p) &&& m)

/-- Rotate left (R276). -/
def rotl32 (x c : Word) : Word := x.rotateLeft (c.toNat % 32)

/-- Bits [63:32] of an exact product (R276). -/
def mulHigh (a b : Int) : Word := w32i (a * b / (2 ^ 32 : Nat))

/-- The pair vn, vn+1 of a lane as a 64-bit number. -/
def State.vpair (s : State) (l : Lane) (n : Nat) : Nat := pair64 (s.vget l n) (s.vget l (n + 1))

/-- IADD (R274). -/
def execIadd (vd va vb g : Nat) (s : State) : Res :=
  issue (.iadd vd va vb g) s (.go (s.vop g vd fun l => s.vget l va + s.opB l vb))

/-- ISUB (R274). -/
def execIsub (vd va vb g : Nat) (s : State) : Res :=
  issue (.isub vd va vb g) s (.go (s.vop g vd fun l => s.vget l va - s.opB l vb))

/-- IMUL (R274). -/
def execImul (vd va vb g : Nat) (s : State) : Res :=
  issue (.imul vd va vb g) s (.go (s.vop g vd fun l => s.vget l va * s.opB l vb))

/-- IMAD (R274). -/
def execImad (vd va vb g : Nat) (s : State) : Res :=
  issue (.imad vd va vb g) s (.go (s.vop g vd fun l => s.vget l va * s.opB l vb + s.opC l vd))

/-- AND (R274). -/
def execAnd (vd va vb g : Nat) (s : State) : Res :=
  issue (.and vd va vb g) s (.go (s.vop g vd fun l => s.vget l va &&& s.opB l vb))

/-- OR (R274). -/
def execOr (vd va vb g : Nat) (s : State) : Res :=
  issue (.or vd va vb g) s (.go (s.vop g vd fun l => s.vget l va ||| s.opB l vb))

/-- XOR (R274). -/
def execXor (vd va vb g : Nat) (s : State) : Res :=
  issue (.xor vd va vb g) s (.go (s.vop g vd fun l => s.vget l va ^^^ s.opB l vb))

/-- SHL (R274). -/
def execShl (vd va vb g : Nat) (s : State) : Res :=
  issue (.shl vd va vb g) s (.go (s.vop g vd fun l => shl32 (s.vget l va) (s.opB l vb)))

/-- SHR (R274). -/
def execShr (vd va vb g : Nat) (s : State) : Res :=
  issue (.shr vd va vb g) s (.go (s.vop g vd fun l => shr32 (s.vget l va) (s.opB l vb)))

/-- SAR (R274). -/
def execSar (vd va vb g : Nat) (s : State) : Res :=
  issue (.sar vd va vb g) s (.go (s.vop g vd fun l => sar32 (s.vget l va) (s.opB l vb)))

/-- SEL (R274): `pn` is the selector, not a guard. -/
def execSel (vd va vb pn : Nat) (s : State) : Res :=
  issue (.sel vd va vb pn) s (.go (s.vop 0 vd fun l => if l.pget pn then s.vget l va else s.opB l vb))

/-- LEA (R274): a 64-bit sum with b read as signed. -/
def execLea (vd va vb g : Nat) (s : State) : Res :=
  issue (.lea vd va vb g) s
    (.go (s.vwrite g [vd, vd + 1] fun l =>
      let x := wrapNat 64 ((s.vpair l va : Int) + (s.opB l vb).toInt)
      [lo32 x, hi32 x]).advance)

/-- IADD with an immediate (R275). -/
def execIaddImm (vd va imm g : Nat) (s : State) : Res :=
  issue (.iaddImm vd va imm g) s (.go (s.vop g vd fun l => s.vget l va + s.immS imm))

/-- AND with an immediate (R275). -/
def execAndImm (vd va imm g : Nat) (s : State) : Res :=
  issue (.andImm vd va imm g) s (.go (s.vop g vd fun l => s.vget l va &&& s.immS imm))

/-- MOVI (R275). -/
def execMovi (vd imm g : Nat) (s : State) : Res :=
  issue (.movi vd imm g) s (.go (s.vop g vd fun _ => s.immS imm))

/-- MOV (R276). -/
def execMov (vd va g : Nat) (s : State) : Res :=
  issue (.mov vd va g) s (.go (s.vop g vd fun l => s.vget l va))

/-- NOT (R276). -/
def execNot (vd va g : Nat) (s : State) : Res :=
  issue (.not vd va g) s (.go (s.vop g vd fun l => ~~~(s.vget l va)))

/-- IABS.i32 (R276). -/
def execIabsI32 (vd va g : Nat) (s : State) : Res :=
  issue (.iabsI32 vd va g) s (.go (s.vop g vd fun l => if (s.vget l va).msb then -(s.vget l va) else s.vget l va))

/-- INEG.i32 (R276). -/
def execInegI32 (vd va g : Nat) (s : State) : Res :=
  issue (.inegI32 vd va g) s (.go (s.vop g vd fun l => -(s.vget l va)))

/-- POPC (R276). -/
def execPopc (vd va g : Nat) (s : State) : Res :=
  issue (.popc vd va g) s (.go (s.vop g vd fun l => w32 (popCount (s.vget l va).toNat 32)))

/-- CLZ (R276). -/
def execClz (vd va g : Nat) (s : State) : Res :=
  issue (.clz vd va g) s (.go (s.vop g vd fun l => w32 (leadZeros (s.vget l va).toNat)))

/-- BREV (R276). -/
def execBrev (vd va g : Nat) (s : State) : Res :=
  issue (.brev vd va g) s (.go (s.vop g vd fun l => w32 (reverseBits (s.vget l va).toNat 32)))

/-- MOV from a special register (R276): each lane reads its own %tid and %laneid. -/
def execMovSpecial (vd code g : Nat) (s : State) : Res :=
  issue (.movSpecial vd code g) s (.go (s.vop g vd fun l => s.special l code))

/-- IMULH.i32 (R276). -/
def execImulhI32 (vd va g : Nat) (s : State) : Res :=
  issue (.imulhI32 vd va g) s (.go (s.vop g vd fun l => mulHigh (s.vget l vd).toInt (s.vget l va).toInt))

/-- IMULH.n32 (R276). -/
def execImulhN32 (vd va g : Nat) (s : State) : Res :=
  issue (.imulhN32 vd va g) s (.go (s.vop g vd fun l => mulHigh (s.vget l vd).toNat (s.vget l va).toNat))

/-- IMIN.i32 (R276). -/
def execIminI32 (vd va g : Nat) (s : State) : Res :=
  issue (.iminI32 vd va g) s (.go (s.vop g vd fun l => if BitVec.slt (s.vget l va) (s.vget l vd) then s.vget l va else s.vget l vd))

/-- IMIN.n32 (R276). -/
def execIminN32 (vd va g : Nat) (s : State) : Res :=
  issue (.iminN32 vd va g) s (.go (s.vop g vd fun l => if BitVec.ult (s.vget l va) (s.vget l vd) then s.vget l va else s.vget l vd))

/-- IMAX.i32 (R276). -/
def execImaxI32 (vd va g : Nat) (s : State) : Res :=
  issue (.imaxI32 vd va g) s (.go (s.vop g vd fun l => if BitVec.slt (s.vget l vd) (s.vget l va) then s.vget l va else s.vget l vd))

/-- IMAX.n32 (R276). -/
def execImaxN32 (vd va g : Nat) (s : State) : Res :=
  issue (.imaxN32 vd va g) s (.go (s.vop g vd fun l => if BitVec.ult (s.vget l vd) (s.vget l va) then s.vget l va else s.vget l vd))

/-- ROTL (R276). -/
def execRotl (vd va g : Nat) (s : State) : Res :=
  issue (.rotl vd va g) s (.go (s.vop g vd fun l => rotl32 (s.vget l vd) (s.vget l va)))

/-- BFX.i32 (R277). -/
def execBfxI32 (vd va g : Nat) (s : State) : Res :=
  issue (.bfxI32 vd va g) s (.go (s.vop g vd fun l => bfx true (s.vget l vd) (s.vget l va)))

/-- BFX.n32 (R277). -/
def execBfxN32 (vd va g : Nat) (s : State) : Res :=
  issue (.bfxN32 vd va g) s (.go (s.vop g vd fun l => bfx false (s.vget l vd) (s.vget l va)))

/-- BFI (R277). -/
def execBfi (vd va g : Nat) (s : State) : Res :=
  issue (.bfi vd va g) s (.go (s.vop g vd fun l => bfi (s.vget l vd) (s.vget l va) (s.opC l vd)))

/-- IADD.i32.sat (R276). -/
def execIaddI32Sat (vd va g : Nat) (s : State) : Res :=
  issue (.iaddI32Sat vd va g) s (.go (s.vop g vd fun l => w32i (saturate ((s.vget l vd).toInt + (s.vget l va).toInt) 14)))

/-- IADD.n32.sat (R276). -/
def execIaddN32Sat (vd va g : Nat) (s : State) : Res :=
  issue (.iaddN32Sat vd va g) s (.go (s.vop g vd fun l => w32i (saturate (((s.vget l vd).toNat : Int) + (s.vget l va).toNat) 15)))

/-- ISUB.i32.sat (R276). -/
def execIsubI32Sat (vd va g : Nat) (s : State) : Res :=
  issue (.isubI32Sat vd va g) s (.go (s.vop g vd fun l => w32i (saturate ((s.vget l vd).toInt - (s.vget l va).toInt) 14)))

/-- ISUB.n32.sat (R276). -/
def execIsubN32Sat (vd va g : Nat) (s : State) : Res :=
  issue (.isubN32Sat vd va g) s (.go (s.vop g vd fun l => w32i (saturate (((s.vget l vd).toNat : Int) - (s.vget l va).toNat) 15)))

end Sys2Proof.Machine
end

