-- ==== Sys2Proof/Machine/FloatOps.lean ====
section
/-! DEFINITION. Float operations (R278 to R280). -/

namespace Sys2Proof.Machine

/-- The seed K of the generator (R106, R373). -/
abbrev State.seed (s : State) : Nat := s.pkt.seed

/-- The sequence count of the focused warp's %warpid (R107). -/
def State.seq (s : State) : Nat := ((smGet s.blk.seqs s.w.wid).getD 0).toNat

/-- The generator word of element `e` of a lane at this issue (R106, R272). -/
def State.word (s : State) (l : Lane) (e : Nat) : Nat := genWord s.seed s.blk.idx 0 s.w.wid l.id e s.seq

/-- The count advances at an issue that takes generator words (R107). -/
def State.takeSeq (s : State) : State :=
  { s with blk := { s.blk with seqs := smSet s.blk.seqs s.w.wid (w32 (s.seq + 1)) } }

/-- The count advances when the mode is SR (R107, R272). -/
def State.takeSR (s : State) : State := if s.rm = 5 then s.takeSeq else s

/-- The elements of a type of R233: 0 .f32, 1 .f16x2, 2 .bf16x2. -/
def elemCount (t : Nat) : Nat := if t = 0 then 1 else 2

/-- Compute a word element by element in format `t` (R278, R279). -/
def byElem (t : Nat) (f : Nat → Nat) : Word :=
  w32 (joinElems (fmtBits t) ((List.range (elemCount t)).map f))

/-- The value of element `e` of a word in format `t`. -/
def elemVal (t e : Nat) (x : Word) : XR := decodeFmt t (elemOf (fmtBits t) e x.toNat)

/-- A float result in every active lane: each element rounded once (R103, R278). -/
def State.fop (s : State) (t g vd : Nat) (f : Lane → Nat → XR) : State :=
  ((s.vwrite g [vd] fun l => [byElem t fun e => rtf (f l e) t s.rm (s.word l e) s.sat]).takeSR).advance

/-- An exact zero sum is +0, and −0 under RD (R278). -/
abbrev State.zneg (s : State) : Bool := s.rm == 4

/-- x − y. -/
def XR.sub (zneg : Bool) (x y : XR) : XR := XR.add zneg x y.neg

/-- The smaller or larger element, as a code (R279). -/
def pickCode (t : Nat) (larger : Bool) (x y : XR) : Nat := rtf (XR.pick larger x y) t 1 0

/-- FADD.f32 (R278). -/
def execFaddF32 (vd va vb g : Nat) (s : State) : Res :=
  issue (.faddF32 vd va vb g) s
    (.go (s.fop 0 g vd fun l e => XR.add s.zneg (elemVal 0 e (s.vget l va)) (elemVal 0 e (s.opB l vb))))

/-- FSUB.f32 (R278). -/
def execFsubF32 (vd va vb g : Nat) (s : State) : Res :=
  issue (.fsubF32 vd va vb g) s
    (.go (s.fop 0 g vd fun l e => XR.sub s.zneg (elemVal 0 e (s.vget l va)) (elemVal 0 e (s.opB l vb))))

/-- FMUL.f32 (R278). -/
def execFmulF32 (vd va vb g : Nat) (s : State) : Res :=
  issue (.fmulF32 vd va vb g) s
    (.go (s.fop 0 g vd fun l e => XR.mul (elemVal 0 e (s.vget l va)) (elemVal 0 e (s.opB l vb))))

/-- FFMA.f32 (R278). -/
def execFfmaF32 (vd va vb g : Nat) (s : State) : Res :=
  issue (.ffmaF32 vd va vb g) s
    (.go (s.fop 0 g vd fun l e => XR.add s.zneg (XR.mul (elemVal 0 e (s.vget l va)) (elemVal 0 e (s.opB l vb)))
      (elemVal 0 e (s.opC l vd))))

/-- FADD.f16x2 (R278). -/
def execFaddF16x2 (vd va vb g : Nat) (s : State) : Res :=
  issue (.faddF16x2 vd va vb g) s
    (.go (s.fop 1 g vd fun l e => XR.add s.zneg (elemVal 1 e (s.vget l va)) (elemVal 1 e (s.opB l vb))))

/-- FMUL.f16x2 (R278). -/
def execFmulF16x2 (vd va vb g : Nat) (s : State) : Res :=
  issue (.fmulF16x2 vd va vb g) s
    (.go (s.fop 1 g vd fun l e => XR.mul (elemVal 1 e (s.vget l va)) (elemVal 1 e (s.opB l vb))))

/-- FFMA.f16x2 (R278). -/
def execFfmaF16x2 (vd va vb g : Nat) (s : State) : Res :=
  issue (.ffmaF16x2 vd va vb g) s
    (.go (s.fop 1 g vd fun l e => XR.add s.zneg (XR.mul (elemVal 1 e (s.vget l va)) (elemVal 1 e (s.opB l vb)))
      (elemVal 1 e (s.opC l vd))))

/-- FADD.bf16x2 (R278). -/
def execFaddBf16x2 (vd va vb g : Nat) (s : State) : Res :=
  issue (.faddBf16x2 vd va vb g) s
    (.go (s.fop 2 g vd fun l e => XR.add s.zneg (elemVal 2 e (s.vget l va)) (elemVal 2 e (s.opB l vb))))

/-- FMUL.bf16x2 (R278). -/
def execFmulBf16x2 (vd va vb g : Nat) (s : State) : Res :=
  issue (.fmulBf16x2 vd va vb g) s
    (.go (s.fop 2 g vd fun l e => XR.mul (elemVal 2 e (s.vget l va)) (elemVal 2 e (s.opB l vb))))

/-- FFMA.bf16x2 (R278). -/
def execFfmaBf16x2 (vd va vb g : Nat) (s : State) : Res :=
  issue (.ffmaBf16x2 vd va vb g) s
    (.go (s.fop 2 g vd fun l e => XR.add s.zneg (XR.mul (elemVal 2 e (s.vget l va)) (elemVal 2 e (s.opB l vb)))
      (elemVal 2 e (s.opC l vd))))

/-- FRND (R279): the rounding step alone. -/
def execFrnd (vd va ty g : Nat) (s : State) : Res :=
  issue (.frnd vd va ty g) s
    (.go ((s.vwrite g [vd] fun l =>
      [byElem ty fun e => frndCode ty (elemOf (fmtBits ty) e (s.vget l va).toNat) s.rm (s.word l e)]).takeSR).advance)

/-- FRCP (R279, R280). -/
def execFrcp (vd va ty g : Nat) (s : State) : Res :=
  issue (.frcp vd va ty g) s (.go (s.fop ty g vd fun l e => unaryOp 1 (elemVal ty e (s.vget l va))))

/-- FRSQ (R279, R280). -/
def execFrsq (vd va ty g : Nat) (s : State) : Res :=
  issue (.frsq vd va ty g) s (.go (s.fop ty g vd fun l e => unaryOp 2 (elemVal ty e (s.vget l va))))

/-- FSQRT (R279, R280). -/
def execFsqrt (vd va ty g : Nat) (s : State) : Res :=
  issue (.fsqrt vd va ty g) s (.go (s.fop ty g vd fun l e => unaryOp 3 (elemVal ty e (s.vget l va))))

/-- FEXP2 (R279, R280). -/
def execFexp2 (vd va ty g : Nat) (s : State) : Res :=
  issue (.fexp2 vd va ty g) s (.go (s.fop ty g vd fun l e => unaryOp 4 (elemVal ty e (s.vget l va))))

/-- FLOG2 (R279, R280). -/
def execFlog2 (vd va ty g : Nat) (s : State) : Res :=
  issue (.flog2 vd va ty g) s (.go (s.fop ty g vd fun l e => unaryOp 5 (elemVal ty e (s.vget l va))))

/-- FSIN (R279, R280). -/
def execFsin (vd va ty g : Nat) (s : State) : Res :=
  issue (.fsin vd va ty g) s (.go (s.fop ty g vd fun l e => unaryOp 6 (elemVal ty e (s.vget l va))))

/-- FCOS (R279, R280). -/
def execFcos (vd va ty g : Nat) (s : State) : Res :=
  issue (.fcos vd va ty g) s (.go (s.fop ty g vd fun l e => unaryOp 7 (elemVal ty e (s.vget l va))))

/-- FMIN (R279): it does not round, and under SR it still draws its words. -/
def execFmin (vd va ty g : Nat) (s : State) : Res :=
  issue (.fmin vd va ty g) s
    (.go ((s.vwrite g [vd] fun l =>
      [byElem ty fun e => pickCode ty false (elemVal ty e (s.vget l vd)) (elemVal ty e (s.vget l va))]).takeSR).advance)

/-- FMAX (R279): it does not round, and under SR it still draws its words. -/
def execFmax (vd va ty g : Nat) (s : State) : Res :=
  issue (.fmax vd va ty g) s
    (.go ((s.vwrite g [vd] fun l =>
      [byElem ty fun e => pickCode ty true (elemVal ty e (s.vget l vd)) (elemVal ty e (s.vget l va))]).takeSR).advance)

/-- FSUB of the float family (R279). -/
def execFsubTwoAddress (vd va ty g : Nat) (s : State) : Res :=
  issue (.fsubTwoAddress vd va ty g) s
    (.go (s.fop ty g vd fun l e => XR.sub s.zneg (elemVal ty e (s.vget l vd)) (elemVal ty e (s.vget l va))))

end Sys2Proof.Machine
end

