-- ==== Sys2Proof/Machine/Packed.lean ====
section
/-! DEFINITION. Packed 16-bit and pixel operations (R281 to R283). -/

namespace Sys2Proof.Machine

/-- 16-bit element `e` of a word, unsigned. -/
abbrev h16 (x : Word) (e : Nat) : Nat := elemOf 16 e x.toNat
/-- 16-bit element `e` of a word, signed. -/
abbrev i16 (x : Word) (e : Nat) : Int := signed 16 (elemOf 16 e x.toNat)

/-- A word from a function of the 16-bit element, wrapping. -/
def by16 (f : Nat → Int) : Word := w32 (joinElems 16 [wrapNat 16 (f 0), wrapNat 16 (f 1)])

/-- The candidate metrics of HACS, saturating (R282). -/
def acsAdd (a m : Nat) : Nat := min 65535 (a + m)

/-- The survivor of two candidates and its decision bit: a tie keeps the first (R282). -/
def acsPick (p q : Nat) : Nat × Nat := if q < p then (q, 1) else (p, 0)

/-- A pixel of PXPACK: rounded by RNE and clamped (R283). -/
def pixelOf (x : Word) : Nat := rtf (f32 x) 12 1 0

/-- HADD (R281). -/
def execHadd (vd va vb g : Nat) (s : State) : Res :=
  issue (.hadd vd va vb g) s (.go (s.vop g vd fun l => by16 fun e => (h16 (s.vget l va) e : Int) + h16 (s.opB l vb) e))

/-- HSUB (R281). -/
def execHsub (vd va vb g : Nat) (s : State) : Res :=
  issue (.hsub vd va vb g) s (.go (s.vop g vd fun l => by16 fun e => (h16 (s.vget l va) e : Int) - h16 (s.opB l vb) e))

/-- HMAD (R281). -/
def execHmad (vd va vb g : Nat) (s : State) : Res :=
  issue (.hmad vd va vb g) s (.go (s.vop g vd fun l => by16 fun e => (h16 (s.vget l va) e : Int) * h16 (s.opB l vb) e + h16 (s.opC l vd) e))

/-- HACS (R282): metrics to vd, decision bits shifted into vd + 1. -/
def execHacs (vd va vb g : Nat) (s : State) : Res :=
  issue (.hacs vd va vb g) s
    (.go (s.vwrite g [vd, vd + 1] fun l =>
      let a := s.vget l va
      let m := s.opB l vb
      let r0 := acsPick (acsAdd (h16 a 0) (h16 m 0)) (acsAdd (h16 a 1) (h16 m 1))
      let r1 := acsPick (acsAdd (h16 a 0) (h16 m 1)) (acsAdd (h16 a 1) (h16 m 0))
      [w32 (joinElems 16 [r0.1, r1.1]), w32 ((s.vget l (vd + 1)).toNat * 4 + r1.2 * 2 + r0.2)]).advance)

/-- HMUL (R281). -/
def execHmul (vd va g : Nat) (s : State) : Res :=
  issue (.hmul vd va g) s (.go (s.vop g vd fun l => by16 fun e => (h16 (s.vget l vd) e : Int) * h16 (s.vget l va) e))

/-- HADDS.i16x2 (R281). -/
def execHaddsI16x2 (vd va g : Nat) (s : State) : Res :=
  issue (.haddsI16x2 vd va g) s (.go (s.vop g vd fun l => by16 fun e => saturate ((i16 (s.vget l vd) e : Int) + i16 (s.vget l va) e) 11))

/-- HADDS.n16x2 (R281). -/
def execHaddsN16x2 (vd va g : Nat) (s : State) : Res :=
  issue (.haddsN16x2 vd va g) s (.go (s.vop g vd fun l => by16 fun e => saturate ((h16 (s.vget l vd) e : Int) + h16 (s.vget l va) e) 12))

/-- HSUBS.i16x2 (R281). -/
def execHsubsI16x2 (vd va g : Nat) (s : State) : Res :=
  issue (.hsubsI16x2 vd va g) s (.go (s.vop g vd fun l => by16 fun e => saturate ((i16 (s.vget l vd) e : Int) - i16 (s.vget l va) e) 11))

/-- HSUBS.n16x2 (R281). -/
def execHsubsN16x2 (vd va g : Nat) (s : State) : Res :=
  issue (.hsubsN16x2 vd va g) s (.go (s.vop g vd fun l => by16 fun e => saturate ((h16 (s.vget l vd) e : Int) - h16 (s.vget l va) e) 12))

/-- HMIN.i16x2 (R281). -/
def execHminI16x2 (vd va g : Nat) (s : State) : Res :=
  issue (.hminI16x2 vd va g) s (.go (s.vop g vd fun l => by16 fun e => min (i16 (s.vget l vd) e : Int) (i16 (s.vget l va) e)))

/-- HMIN.n16x2 (R281). -/
def execHminN16x2 (vd va g : Nat) (s : State) : Res :=
  issue (.hminN16x2 vd va g) s (.go (s.vop g vd fun l => by16 fun e => min (h16 (s.vget l vd) e : Int) (h16 (s.vget l va) e)))

/-- HMAX.i16x2 (R281). -/
def execHmaxI16x2 (vd va g : Nat) (s : State) : Res :=
  issue (.hmaxI16x2 vd va g) s (.go (s.vop g vd fun l => by16 fun e => max (i16 (s.vget l vd) e : Int) (i16 (s.vget l va) e)))

/-- HMAX.n16x2 (R281). -/
def execHmaxN16x2 (vd va g : Nat) (s : State) : Res :=
  issue (.hmaxN16x2 vd va g) s (.go (s.vop g vd fun l => by16 fun e => max (h16 (s.vget l vd) e : Int) (h16 (s.vget l va) e)))

/-- HSHL (R281). -/
def execHshl (vd va g : Nat) (s : State) : Res :=
  issue (.hshl vd va g) s (.go (s.vop g vd fun l => by16 fun e => if h16 (s.vget l va) e < 16 then (h16 (s.vget l vd) e : Int) * 2 ^ h16 (s.vget l va) e else 0))

/-- HSHR.n16x2 (R281). -/
def execHshrN16x2 (vd va g : Nat) (s : State) : Res :=
  issue (.hshrN16x2 vd va g) s (.go (s.vop g vd fun l => by16 fun e => if h16 (s.vget l va) e < 16 then (h16 (s.vget l vd) e / 2 ^ h16 (s.vget l va) e : Nat) else 0))

/-- HSHR.i16x2 (R281). -/
def execHshrI16x2 (vd va g : Nat) (s : State) : Res :=
  issue (.hshrI16x2 vd va g) s (.go (s.vop g vd fun l => by16 fun e => i16 (s.vget l vd) e / (2 ^ min 16 (h16 (s.vget l va) e) : Nat)))

/-- HSEL (R281). -/
def execHsel (vd va g : Nat) (s : State) : Res :=
  issue (.hsel vd va g) s (.go (s.vop g vd fun l => by16 fun e => if bit (s.opC l vd).toNat e then h16 (s.vget l va) e else h16 (s.vget l vd) e))

/-- HPACK (R281). -/
def execHpack (vd va g : Nat) (s : State) : Res :=
  issue (.hpack vd va g) s (.go (s.vop g vd fun l => by16 fun e => saturate (if e = 0 then (s.vget l vd).toInt else (s.vget l va).toInt) 11))

/-- PXAVG (R283). -/
def execPxavg (vd va g : Nat) (s : State) : Res :=
  issue (.pxavg vd va g) s (.go (s.vop g vd fun l => by16 fun e => ((h16 (s.vget l vd) e + h16 (s.vget l va) e + 1) / 2 : Nat)))

/-- PXSAD (R283). -/
def execPxsad (vd va g : Nat) (s : State) : Res :=
  issue (.pxsad vd va g) s (.go (s.vop g vd fun l => w32 ((((h16 (s.vget l vd) 0 : Int) - h16 (s.vget l va) 0).natAbs) + (((h16 (s.vget l vd) 1 : Int) - h16 (s.vget l va) 1).natAbs))))

/-- PXCLAMP (R283). -/
def execPxclamp (vd va g : Nat) (s : State) : Res :=
  issue (.pxclamp vd va g) s (.go (s.vop g vd fun l => by16 fun e => (max (h16 (s.vget l va) 0) (min (h16 (s.vget l va) 1) (h16 (s.vget l vd) e)) : Nat)))

/-- PXPACK (R283). -/
def execPxpack (vd va g : Nat) (s : State) : Res :=
  issue (.pxpack vd va g) s (.go (s.vop g vd fun l => w32 (joinElems 16 [pixelOf (s.vget l vd), pixelOf (s.vget l va)])))

/-- HUNPACK.lo.i16 (R281). -/
def execHunpackLoI16 (vd va g : Nat) (s : State) : Res :=
  issue (.hunpackLoI16 vd va g) s (.go (s.vop g vd fun l => w32i (i16 (s.vget l va) 0)))

/-- HUNPACK.hi.i16 (R281). -/
def execHunpackHiI16 (vd va g : Nat) (s : State) : Res :=
  issue (.hunpackHiI16 vd va g) s (.go (s.vop g vd fun l => w32i (i16 (s.vget l va) 1)))

/-- HUNPACK.lo.n16 (R281). -/
def execHunpackLoN16 (vd va g : Nat) (s : State) : Res :=
  issue (.hunpackLoN16 vd va g) s (.go (s.vop g vd fun l => w32 (h16 (s.vget l va) 0)))

/-- HUNPACK.hi.n16 (R281). -/
def execHunpackHiN16 (vd va g : Nat) (s : State) : Res :=
  issue (.hunpackHiN16 vd va g) s (.go (s.vop g vd fun l => w32 (h16 (s.vget l va) 1)))

/-- PXEXP.lo (R283). -/
def execPxexpLo (vd va g : Nat) (s : State) : Res :=
  issue (.pxexpLo vd va g) s (.go (s.vop g vd fun l => r32 (.ofInt (h16 (s.vget l va) 0))))

/-- PXEXP.hi (R283). -/
def execPxexpHi (vd va g : Nat) (s : State) : Res :=
  issue (.pxexpHi vd va g) s (.go (s.vop g vd fun l => r32 (.ofInt (h16 (s.vget l va) 1))))

end Sys2Proof.Machine
end

