-- ==== Sys2Proof/Machine/Convert.lean ====
section
/-! DEFINITION. CVT, RNDT and the dot products (R284 to R288). -/

namespace Sys2Proof.Machine

/-- Conv(c, i) of R287: one element from format `src` to `dst`. -/
def convElem (src dst c mode w : Nat) (sat : Bool) : Nat :=
  if fmtInt src && fmtInt dst then
    let v := if fmtSigned src then signed (fmtBits src) c else ((c % 2 ^ fmtBits src : Nat) : Int)
    wrapNat (fmtBits dst) (if sat then saturate v dst else v)
  else if dst = 13 then (toE8m0 (decodeFmt src c)).1
  else rtf (decodeFmt src c) dst mode w sat

/-- Elements converted per lane (R286). -/
def cvtCount (src dst : Nat) : Nat := 32 / max (fmtWidth src) (fmtWidth dst)

/-- A word converted from `src` to `dst` (R286). -/
def cvtWord (src dst mode : Nat) (sat : Bool) (word : Nat → Nat) (x : Word) : Word :=
  w32 (joinElems (fmtWidth dst) ((List.range (cvtCount src dst)).map fun i =>
    convElem src dst (elemOf (fmtWidth src) i x.toNat) mode (word i) sat))

/-- CVT from format `src` to `dst` in every active lane. -/
def State.cvt (s : State) (g vd va dst src : Nat) : State :=
  ((s.vwrite g [vd] fun l => [cvtWord src dst s.rm s.sat (s.word l) (s.vget l va)]).takeSR).advance

/-- CVT with a source code 0 to 7 (R286, R287). -/
def execCvtSrcLow (vd va dst src g : Nat) (s : State) : Res :=
  issue (.cvtSrcLow vd va dst src g) s (.go (s.cvt g vd va dst src))

/-- CVT with a source code 8 to 15, of which the word holds the low three bits (R286, R287). -/
def execCvtSrcHigh (vd va dst src g : Nat) (s : State) : Res :=
  issue (.cvtSrcHigh vd va dst src g) s (.go (s.cvt g vd va dst (8 + src)))

/-- A .f32 value rounded stochastically to the precision of `fmt` (R288). -/
def rndtWord (fmt w : Nat) (x : Word) : Word :=
  match f32 x with
  | .nan => 0x7FC00000
  | v => w32 (rtf (decodeFmt fmt (rtf v fmt 5 w)) 0 1 0)

/-- RNDT (R288): draws one word per active lane, whatever the format. -/
def execRndt (vd va fmt g : Nat) (s : State) : Res :=
  issue (.rndt vd va fmt g) s
    (.go (((s.vwrite g [vd] fun l => [rndtWord fmt (s.word l 0) (s.vget l va)]).takeSeq).advance))

/-- An element of an integer format. -/
def intElem (f i : Nat) (x : Word) : Int :=
  let c := elemOf (fmtBits f) i x.toNat
  if fmtSigned f then signed (fmtBits f) c else (c : Int)

/-- Exact sum of the products of two packed words in integer format `f` (R284). -/
def dotInt (f : Nat) (a b : Word) : Int :=
  ((List.range (32 / fmtBits f)).map fun i => intElem f i a * intElem f i b).sum

/-- An integer dot product with its addend (R284). -/
def dotWord (f : Nat) (sat : Bool) (a b c : Word) : Word :=
  let sgn := fmtSigned f
  let t := dotInt f a b + (if sgn then c.toInt else (c.toNat : Int))
  w32i (if sat then saturate t (if sgn then 14 else 15) else t)

/-- DOT4.i8 (R284). -/
def execDot4I8 (vd va vb g : Nat) (s : State) : Res :=
  issue (.dot4I8 vd va vb g) s
    (.go (s.vop g vd fun l => dotWord 7 s.sat (s.vget l va) (s.opB l vb) (s.opC l vd)))

/-- DOT4.n8 (R284). -/
def execDot4N8 (vd va vb g : Nat) (s : State) : Res :=
  issue (.dot4N8 vd va vb g) s
    (.go (s.vop g vd fun l => dotWord 8 s.sat (s.vget l va) (s.opB l vb) (s.opC l vd)))

/-- DOT8.i4 (R284). -/
def execDot8I4 (vd va vb g : Nat) (s : State) : Res :=
  issue (.dot8I4 vd va vb g) s
    (.go (s.vop g vd fun l => dotWord 9 s.sat (s.vget l va) (s.opB l vb) (s.opC l vd)))

/-- DOT8.n4 (R284). -/
def execDot8N4 (vd va vb g : Nat) (s : State) : Res :=
  issue (.dot8N4 vd va vb g) s
    (.go (s.vop g vd fun l => dotWord 10 s.sat (s.vget l va) (s.opB l vb) (s.opC l vd)))

/-- The scale code of a register of the prefix's scale pair: 127 without a prefix (R226, R285). -/
def State.dotScale (s : State) (l : Lane) (which bs : Nat) : Nat :=
  match s.hint.xv with
  | none => 127
  | some x => elemOf 8 bs (s.vget l (x.vc + which)).toNat

/-- The exact terms of a float dot product (R285). -/
def dotTerms (f sa sb : Nat) (a b : Word) : List XR :=
  (List.range (32 / fmtWidth f)).map fun i =>
    XR.mul ((decodeFmt f (elemOf (fmtWidth f) i a.toNat)).scale sa)
      ((decodeFmt f (elemOf (fmtWidth f) i b.toNat)).scale sb)

/-- A float dot product in every active lane (R285). -/
def State.dotf (s : State) (f g vd va bs : Nat) : State :=
  s.fop 0 g vd fun l _ =>
    XR.sum (dotTerms f (s.dotScale l 0 bs) (s.dotScale l 1 bs) (s.vget l va) (s.vget l (va + 1)) ++
      [f32 (s.vget l vd)])

/-- DOT4.e4m3 (R285). -/
def execDot4E4m3 (vd va bs g : Nat) (s : State) : Res :=
  issue (.dot4E4m3 vd va bs g) s (.go (s.dotf 3 g vd va bs))

/-- DOT4.e5m2 (R285). -/
def execDot4E5m2 (vd va bs g : Nat) (s : State) : Res :=
  issue (.dot4E5m2 vd va bs g) s (.go (s.dotf 4 g vd va bs))

/-- DOT8.e2m1 (R285). -/
def execDot8E2m1 (vd va bs g : Nat) (s : State) : Res :=
  issue (.dot8E2m1 vd va bs g) s (.go (s.dotf 6 g vd va bs))

end Sys2Proof.Machine
end

