-- ==== Sys2Proof/Machine/Walk.lean ====
section
/-! DEFINITION. Copy walks: tuples, ordinals, bounding ranges, the bytes a walk writes (R130, R131, R134). -/

namespace Sys2Proof.Machine

/-- Bytes of an element (R130). -/
abbrev Walk.size (w : Walk) : Nat := 2 ^ w.esz

/-- Ord(c) (R131): counters innermost first. -/
def ordOf : List Nat → List Nat → Nat
  | e :: es, c :: cs => c + e * ordOf es cs
  | _, _ => 0

/-- The tuple of an ordinal. -/
def tupleOf : List Nat → Nat → List Nat
  | [], _ => []
  | e :: es, n => n % e :: tupleOf es (n / e)

/-- The number of tuples of the whole walk. -/
def Walk.total (w : Walk) : Nat := w.ext.foldl (· * ·) 1

/-- The ordinal the walk starts at (R131). -/
def Walk.first (w : Walk) : Nat := ordOf w.ext w.start

/-- Σ ci·si. -/
def strideSum : List Nat → List Int → Int
  | c :: cs, s :: ss => (c : Int) * s + strideSum cs ss
  | _, _ => 0

/-- A side's address of a tuple: far sums are modulo 2^64 (R131). -/
def sideAddr (base : Nat) (strides : List Int) (c : List Nat) (far : Bool) : Int :=
  let a := (base : Int) + strideSum c strides
  if far then (wrapNat 64 a : Int) else a

/-- Source address of the element of an ordinal. -/
def Walk.srcAddr (w : Walk) (n : Nat) : Int := sideAddr w.sbase w.ss (tupleOf w.ext n) (w.ssp == 2)

/-- Destination address of the element of an ordinal. -/
def Walk.dstAddr (w : Walk) (n : Nat) : Int := sideAddr w.dbase w.ds (tupleOf w.ext n) (w.dsp == 2)

/-- The counters of one side, outermost first: extent, start, stride. -/
def Walk.counters (w : Walk) (strides : List Int) : List (Nat × Nat × Int) :=
  (w.ext.zip (w.start.zip strides)).reverse

/-- The offsets that free counters reach. -/
def fullRange : List (Nat × Nat × Int) → Int × Int
  | [] => (0, 0)
  | (e, _, sd) :: r =>
    let (lo, hi) := fullRange r
    let x := ((e : Int) - 1) * sd
    (lo + min 0 x, hi + max 0 x)

/-- The visited tuples as boxes: those that first exceed START at one counter, and START itself. -/
def tailBoxes : List (Nat × Nat × Int) → Int → List (Int × Int)
  | [], acc => [(acc, acc)]
  | (e, st, sd) :: r, acc =>
    (if st + 1 < e then
      let (lo, hi) := fullRange r
      let x := ((st : Int) + 1) * sd
      let y := ((e : Int) - 1) * sd
      [(acc + min x y + lo, acc + max x y + hi)]
    else []) ++ tailBoxes r (acc + (st : Int) * sd)

/-- The bounding range of a side: its least and greatest byte (R132). -/
def Walk.bounds (w : Walk) (base : Nat) (strides : List Int) : Int × Int :=
  let bs := tailBoxes (w.counters strides) base
  (bs.foldl (fun a b => min a b.1) ((bs.head?.map (·.1)).getD 0),
   bs.foldl (fun a b => max a b.2) ((bs.head?.map (·.2)).getD 0) + w.size - 1)

/-- Bounding range of the destination. -/
abbrev Walk.dstRange (w : Walk) : Int × Int := w.bounds w.dbase w.ds
/-- Bounding range of the source. -/
abbrev Walk.srcRange (w : Walk) : Int × Int := w.bounds w.sbase w.ss

/-- Some assignment of the free counters puts a byte of an element at `t`. -/
def hitsFull (size : Nat) : List (Nat × Nat × Int) → Int → Bool
  | [], t => decide (0 ≤ t) && decide (t < size)
  | (e, st, sd) :: r, t =>
    let (lo, hi) := fullRange ((e, st, sd) :: r)
    decide (lo ≤ t) && decide (t < hi + size) && (List.range e).any fun c => hitsFull size r (t - (c : Int) * sd)

/-- Some visited tuple puts a byte of an element at `t`. -/
def hitsTail (size : Nat) : List (Nat × Nat × Int) → Int → Bool
  | [], t => decide (0 ≤ t) && decide (t < size)
  | (e, st, sd) :: r, t =>
    (List.range e).any (fun c => decide (st < c) && hitsFull size r (t - (c : Int) * sd)) ||
      hitsTail size r (t - (st : Int) * sd)

/-- The walk writes this destination byte. -/
def Walk.writes (w : Walk) (a : Nat) : Bool := hitsTail w.size (w.counters w.ds) ((a : Int) - w.dbase)

/-- Two ranges share a byte. -/
def overlaps (a b : Int × Int) : Bool := decide (a.1 ≤ b.2) && decide (b.1 ≤ a.2)

/-- The die a copy's core is on. -/
abbrev Copy.die (c : Copy) : Nat := coreDie c.core

/-- A landing permit of a copy covers an on-chip byte that the copy writes (R134). -/
def Copy.lands (c : Copy) (b : Nat) (sp : Space) (a : Nat) : Bool :=
  c.landOn && (match sp with
    | .shared => c.walk.dsp == 0 && c.blk == b
    | .granary d => c.walk.dsp == 1 && c.die == d
    | .spill _ => false) && c.walk.writes a

end Sys2Proof.Machine
end

