-- ==== Sys2Proof/Machine/OnChip.lean ====
section
/-! DEFINITION. On-chip loads and stores and ATOM (R293 to R302), with the address checks they share. -/

namespace Sys2Proof.Machine

/-- A precise trap that names a lane and its address (R294). -/
def laneTrap (c lane addr : Nat) : Act := .trap { cause := c, addr := addr, mask := some (2 ^ lane) }

/-- Check one kind for every lane; the lowest lane that fails is named (R294). -/
def checkLanes (xs : List (Nat × Nat)) (c : Nat) (ok : Nat → Bool) (k : Act) : Act :=
  match xs.find? fun x => !ok x.2 with
  | some x => laneTrap c x.1 x.2
  | none => k

/-- Bytes of a thread's spill window (R65). -/
def State.spillSize (s : State) : Nat := s.pkt.spl * 256

/-- Alignment, then the range rule of the space: 0 shared, 1 Granary, 2 spill (R68 to R70, R294). -/
def State.checkOnChip (s : State) (sp size : Nat) (xs : List (Nat × Nat)) (k : Act) : Act :=
  checkLanes xs 0x20 (fun a => a % size == 0)
    (match sp with
      | 0 => checkLanes xs 0x22 (fun a => s.sharedOk a size) k
      | 1 => checkLanes xs 0x23 (fun a => s.granaryOk s.blk.grid s.dieNo a size) k
      | _ => checkLanes xs 0x21 (fun a => decide (a < s.spillSize)) k)

/-- The space of a lane's access. -/
def State.spaceOf (s : State) (sp lane : Nat) : Space :=
  match sp with
  | 0 => .shared
  | 1 => .granary s.dieNo
  | _ => .spill lane

/-- The address of a lane's access, summed exactly (R294, R297). -/
def State.vmAddr (s : State) (l : Lane) (va off size : Nat) : Nat := (s.vget l va).toNat + off * size

/-- The lanes' accesses. -/
def State.vmAddrs (s : State) (g va off size : Nat) : List (Nat × Nat) :=
  (s.actives g).map fun l => (l.id, s.vmAddr l va off size)

/-- Words of a value of 4 or 8 bytes. -/
def dataWords (size x : Nat) : List Word := if size = 8 then [lo32 x, hi32 x] else [lo32 x]

/-- The bytes of a memory that other parties reach too, as keys. -/
def State.keysOf (s : State) (sp : Space) (a n : Nat) : List Nat :=
  match sp with
  | .spill _ => []
  | _ => (List.range n).map fun i => byteKey (s.memTag sp) (a + i)

/-- A lane has read bytes of shared memory at once, into registers: those of the warp's queued stores left aside, its thread
learns what they hand on, and what stands behind the registers `from'` that the word reads (R26, R176, R181). -/
def State.heardAt (s : State) (lane a n : Nat) (from' into : List Nat) : State :=
  let who := s.threadOf lane
  let seen := (List.range n).filter fun i => !s.w.queue.any fun q => q.covers .shared (a + i)
  let got := joinClk (s.order.handed (seen.map fun i => byteKey (s.memTag .shared) (a + i))) (s.order.ofRegs (s.vKeys lane from'))
  { s with order := (s.order.reads (s.vKeys lane into) (joinClk got (s.order.loadClk who))).learn [who] got false }

/-- Lanes' loads of `n` bytes by the offsets in a register have read shared memory. -/
def State.heard (s : State) (sp n va : Nat) (into : List Nat) (xs : List (Nat × Nat)) : State :=
  if sp = 0 then xs.foldl (fun t x => t.heardAt x.1 x.2 n [va] into) s else s

/-- What a load or store of a lane to other memory comes after (R176, R183). -/
def State.laterOf (s : State) (lane : Nat) (from' : List Nat) : SMap Nat :=
  joinClk (s.order.pastOf (s.threadOf lane)) (s.order.ofRegs (s.vKeys lane from'))

/-- What a store of a lane comes after: R181 orders those to shared memory and the spill stack, R183 others. -/
def State.orderOf (s : State) (sp : Space) (lane : Nat) (from' : List Nat) : SMap Nat :=
  match sp with
  | .granary _ => s.laterOf lane from'
  | _ => joinClk (s.order.tellStore (s.threadOf lane)) (s.order.ofRegs (s.vKeys lane from'))

/-- A load of R297 from shared memory or the spill stack: it waits for the warp's far acquires (R305). -/
def State.loadAct (s : State) (g sp vd va off size : Nat) : Act :=
  s.checkOnChip sp size (s.vmAddrs g va off size)
    (if s.acquires.isEmpty then
      s.unlessBroken (if sp = 0 then (s.vmAddrs g va off size).map fun x => (x.2, size) else [])
        (.go ((s.vwrite g (dataRegs size vd) fun l =>
          dataWords size (s.loadNat (s.spaceOf sp l.id) (s.vmAddr l va off size) size)).heard sp size va (dataRegs size vd)
          (s.vmAddrs g va off size)).advance)
    else .stall)

/-- The loads of the lanes from the Granary, numbered in ascending order of the lanes (R73). -/
def State.gloadsOf (s : State) (serial vd size va : Nat) : List (Nat × Nat) → List GLoad
  | [] => []
  | x :: r => ⟨serial, x.1, x.2, size, vd, .lane, [s.threadOf x.1], s.laterOf x.1 [va]⟩ :: s.gloadsOf (serial + 1) vd size va r

/-- A load of R297 from the Granary: it issues here and reads its value later, in any order with the warp's accesses to other
locations (R181). What names its registers meanwhile waits. (DEDUCED, log 45) -/
def State.loadLater (s : State) (g vd va off size : Nat) : Act :=
  let xs := s.vmAddrs g va off size
  s.checkOnChip 1 size xs
    (if s.acquires.isEmpty then
      let regs := dataRegs size vd
      let t := s.vwrite g regs fun l => regs.map l.vraw
      .go ({ t with
        serial := s.serial + xs.length
        w := { t.w with gloads := t.w.gloads ++ s.gloadsOf s.serial vd size va xs } } : State).advance
    else .stall)

/-- Data of a store: one register or a pair. -/
def State.storeData (s : State) (l : Lane) (vs size : Nat) : List Byte :=
  leBytes size (if size = 8 then s.vpair l vs else (s.vget l vs).toNat)

/-- The store goes to the Granary. -/
def Space.far : Space → Bool
  | .granary _ => true
  | _ => false

/-- A lane's store joins the accesses that later ones of its thread come after, and hands on what it did (R181, R183). -/
def State.stores (s : State) (lane : Nat) (sp : Space) (clk : SMap Nat) : State :=
  let who := s.threadOf lane
  { s with order := (s.order.wrote [who] sp.far clk).told [who] }

/-- Enter one store of a lane in the warp's queue (R298), its address and data from registers; it leaves only after the far
acquires before it (R305). -/
def State.enqueue (s : State) (lane : Nat) (sp : Space) (a : Nat) (bs : List Byte) (from' : List Nat) : State :=
  let t := s.stores lane sp (s.orderOf sp lane from')
  { t with
    serial := s.serial + 1
    w := { s.w with queue := s.w.queue ++ [⟨s.serial, sp, a, bs, s.acquires, none, s.threadOf lane, s.orderOf sp lane from'⟩] } }

/-- Enter the stores of the lanes in ascending order (R73, R298). -/
def State.enqueueAll (s : State) (from' : List Nat) : List (Nat × Space × Nat × List Byte) → State
  | [] => s
  | (lane, sp, a, bs) :: r => (s.enqueue lane sp a bs from').enqueueAll from' r

/-- A store of R297. -/
def State.storeAct (s : State) (g sp vs va off size : Nat) : Act :=
  s.checkOnChip sp size (s.vmAddrs g va off size)
    (.go (s.enqueueAll (va :: dataRegs size vs) ((s.actives g).map fun l =>
      (l.id, s.spaceOf sp l.id, s.vmAddr l va off size, s.storeData l vs size))).advance)

/-- LDS.b32 (R297). -/
def execLdsB32 (vd va off g : Nat) (s : State) : Res :=
  issue (.ldsB32 vd va off g) s (s.loadAct g 0 vd va off 4)

/-- LDS.b64 (R297). -/
def execLdsB64 (vd va off g : Nat) (s : State) : Res :=
  issue (.ldsB64 vd va off g) s (s.loadAct g 0 vd va off 8)

/-- STS.b32 (R297). -/
def execStsB32 (vs va off g : Nat) (s : State) : Res :=
  issue (.stsB32 vs va off g) s (s.storeAct g 0 vs va off 4)

/-- STS.b64 (R297). -/
def execStsB64 (vs va off g : Nat) (s : State) : Res :=
  issue (.stsB64 vs va off g) s (s.storeAct g 0 vs va off 8)

/-- LDG.b32 (R297). -/
def execLdgB32 (vd va off g : Nat) (s : State) : Res :=
  issue (.ldgB32 vd va off g) s (s.loadLater g vd va off 4)

/-- LDG.b64 (R297). -/
def execLdgB64 (vd va off g : Nat) (s : State) : Res :=
  issue (.ldgB64 vd va off g) s (s.loadLater g vd va off 8)

/-- STG.b32 (R297). -/
def execStgB32 (vs va off g : Nat) (s : State) : Res :=
  issue (.stgB32 vs va off g) s (s.storeAct g 1 vs va off 4)

/-- STG.b64 (R297). -/
def execStgB64 (vs va off g : Nat) (s : State) : Res :=
  issue (.stgB64 vs va off g) s (s.storeAct g 1 vs va off 8)

/-- LDK.b32 (R297, R299). -/
def execLdk (vd va off g : Nat) (s : State) : Res :=
  issue (.ldk vd va off g) s (s.loadAct g 2 vd va off 4)

/-- STK.b32 (R297, R299). -/
def execStk (vs va off g : Nat) (s : State) : Res :=
  issue (.stk vs va off g) s (s.storeAct g 2 vs va off 4)

/-- AtomOp (R301): operation, type 0 .n32, 1 .i32, 2 .n64, 3 .f32 as FATOM codes it. -/
def atomOp (op ty old x y : Nat) : Nat :=
  let n := if ty = 2 then 64 else 32
  let lt := if ty = 1 then decide (signed 32 x < signed 32 old) else decide (x < old)
  match op with
  | 0 => if ty = 3 then rtf (XR.add false (decodeFmt 0 old) (decodeFmt 0 x)) 0 1 0 else (old + x) % 2 ^ n
  | 1 => if ty = 3 then rtf (XR.pick false (decodeFmt 0 old) (decodeFmt 0 x)) 0 1 0 else if lt then x else old
  | 2 =>
    if ty = 3 then rtf (XR.pick true (decodeFmt 0 old) (decodeFmt 0 x)) 0 1 0
    else if lt || x == old then old else x
  | 3 => old &&& x
  | 4 => old ||| x
  | 5 => old ^^^ x
  | 6 => x
  | _ => if old = x then y else old

/-- The 8-byte units that bytes touch. -/
def unitsIn (a n : Nat) : List Nat := (List.range ((a + n + 7) / 8 - a / 8)).map fun i => 8 * (a / 8 + i)

/-- The landing copy that a store to a byte disturbs. -/
def Copy.spoil (c : Copy) (blk : Nat) (sp : Space) (a n : Nat) : Copy :=
  { c with spoilt := c.spoilt ++
      ((List.range n).map (a + ·)).filter fun x => c.lands blk sp x && !c.spoilt.contains x }

/-- A store of a thread, which comes after `clk`, as it takes effect in a space: bytes a copy is landing become undefined, and
stay so until the copy has landed (R134), and so does a hurdle in use (R26). -/
def State.storeTo (s : State) (who : Nat) (clk : SMap Nat) (sp : Space) (a : Nat) (bs : List Byte) : State :=
  let free (x : Nat) : Byte := BitVec.ofNat 8 (s.choice x)
  let bs' := (List.range bs.length).map fun i =>
    if s.copies.any fun c => c.lands s.blk.key sp (a + i) then free (a + i) else bs.getD i 0
  let t0 := s.poke sp a bs'
  let t : State := { t0 with
    copies := t0.copies.map fun c => c.spoil s.blk.key sp a bs.length
    order := t0.order.give (s.keysOf sp a bs.length) clk }
  match sp with
  | .shared =>
    let units := unitsIn a bs.length
    let key (u : Nat) : Nat := byteKey (s.memTag .shared) u
    let used := units.filter fun u => s.order.inUse (key u) clk
    let t1 := used.foldl (fun t u => t.poke sp u ((List.range 8).map fun i => free (u + i))) t
    { t1 with order := units.foldl (fun o u => o.stored (key u) who clk) t1.order }
  | _ => t

/-- A lane's atomic has read a word of a space into a register: of the Granary, later accesses to other words do not come after
it of themselves (R176, R181). -/
def State.heardWord (s : State) (sp : Space) (lane a : Nat) (from' : List Nat) (vd : Nat) : State :=
  match sp with
  | .granary _ =>
    let got := joinClk (s.order.handed (s.keysOf sp a 4)) (s.laterOf lane from')
    let o := s.order.reads (s.vKeys lane [vd]) got
    { s with order := { o with seen := addClk o.seen (s.threadOf lane) got } }
  | _ => s.heardAt lane a 4 from' [vd]

/-- The lanes' read-modify-writes of an ATOM of registers `from'` into `vd`, one after another (R301): the old values and the
state. -/
def State.atomRun (s : State) (sp : Space) (op ty vd : Nat) (from' : List Nat) :
    List (Nat × Nat × Nat × Nat) → List (Nat × Nat) × State
  | [] => ([], s)
  | (lane, a, x, y) :: r =>
    let old := s.loadNat sp a 4
    let s0 := s.heardWord sp lane a from' vd
    let clk := joinClk (s0.orderOf sp lane from') (s0.order.handed (s.keysOf sp a 4))
    let s1 := (s0.storeTo (s.threadOf lane) clk sp a (leBytes 4 (atomOp op ty old x y))).stores lane sp clk
    let (olds, s2) := s1.atomRun sp op ty vd from' r
    ((lane, old) :: olds, s2)

/-- The lanes' operands of an ATOM. -/
def State.atomLanes (s : State) (g vd va : Nat) : List (Nat × Nat × Nat × Nat) :=
  (s.actives g).map fun l => (l.id, (s.vget l va).toNat, (s.vget l vd).toNat, (s.vget l (vd + 1)).toNat)

/-- ATOM (R300 to R302): it waits for the store queue to empty, for earlier loads and for far acquires. -/
def execAtom (vd va op sp ty g : Nat) (s : State) : Res :=
  issue (.atom vd va op sp ty g) s
    (s.checkOnChip sp 4 (s.vmAddrs g va 0 4)
      (if s.w.queue.isEmpty && s.w.gloads.isEmpty && s.acquires.isEmpty then
        s.unlessBroken (if sp = 0 then (s.vmAddrs g va 0 4).map fun x => (x.2, 4) else [])
          (let (olds, t) := s.atomRun (s.spaceOf sp 0) op (if ty = 2 then 3 else ty) vd (va :: group vd (if op = 7 then 2 else 1))
            (s.atomLanes g vd va)
          .go (t.vwrite g [vd] fun l => [w32 ((smGet olds l.id).getD 0)]).advance)
      else .stall))

end Sys2Proof.Machine
end

