-- ==== Sys2Proof/Machine/Far.lean ====
section
/-! DEFINITION. Far loads, stores, acquires, releases, atomics and fences (R159 to R174, R303 to R308). -/

namespace Sys2Proof.Machine

/-- The far addresses of a list of lanes. -/
def State.farAddrs (s : State) (ls : List Lane) (va : Nat) : List (Nat × Nat) :=
  ls.map fun l => (l.id, s.vpair l va)

/-- Translate for the focused block (R71, R159, R395). -/
def State.tr (s : State) (need va : Nat) : Trans := s.translate s.dieNo s.blk.tenant need va

/-- The translations the lanes used are kept (R396). -/
def State.keepAll (s : State) (need : Nat) : List (Nat × Nat) → State
  | [] => s
  | x :: r => (s.keep s.dieNo s.blk.tenant need x.2).keepAll need r

/-- The locators of translated lanes. -/
def State.locsOf (s : State) (need : Nat) (xs : List (Nat × Nat)) : List (Nat × Nat) :=
  xs.filterMap fun x => match s.tr need x.2 with | .ok l => some (x.1, l) | .bad _ _ => none

/-- The checks of a far instruction: alignment, bits [63:57], the hold of R397, translation (R294); then it
goes on with the lanes' locators. -/
def State.checkFar (s : State) (size need : Nat) (xs : List (Nat × Nat)) (k : List (Nat × Nat) → Act) : Act :=
  checkLanes xs 0x20 (fun a => a % size == 0)
    (checkLanes xs 0x24 (fun a => vaOk a)
      (if xs.any fun x => s.heldVa s.dieNo s.blk.tenant x.2 then .stall
      else match xs.find? fun x => match s.tr need x.2 with | .ok _ => false | .bad _ _ => true with
        | some x =>
          match s.tr need x.2 with
          | .bad d l => .trap { cause := 0x25, detail := d, addr := x.2, loc := l, mask := some (2 ^ x.1) }
          | .ok _ => .stall
        | none => k (s.locsOf need xs)))

/-- Put a lane into the group of its line (R159). -/
def addLine (x : Nat × Nat) : List (List (Nat × Nat)) → List (List (Nat × Nat))
  | [] => [[x]]
  | g :: r =>
    match g with
    | y :: _ => if lineOf y.2 = lineOf x.2 then (g ++ [x]) :: r else g :: addLine x r
    | [] => g :: addLine x r

/-- The line accesses of one FLD or FST: the lanes that touch one line go together (R159). -/
def byLine (xs : List (Nat × Nat)) : List (List (Nat × Nat)) := xs.foldl (fun a x => addLine x a) []

/-- One line access (R159). -/
structure LineReq where
  loc : Nat
  /-- lane, locator, destination register, operand, new value of a cas -/
  lanes : List (Nat × Nat × Nat × Nat × Nat)
  /-- lane, thread, and what the lane's access comes after (R26) -/
  clk : List (Nat × Nat × SMap Nat)
  deriving DecidableEq, Repr

/-- What the line accesses of one instruction have in common (R159, R163, R168). -/
structure FarReq where
  kind : Nat
  cls : Nat
  scope : Nat
  set : Nat
  flag : Option Nat
  size : Nat
  aop : Nat
  aty : Nat
  deriving DecidableEq, Repr

/-- Send the line accesses of an instruction to the far-access unit, in order; each waits for the far
acquires before it (R173, R305), and a release for the stores before it (R306). -/
def State.sendAll (s : State) (op : Nat) (r : FarReq) : List LineReq → State
  | [] => s
  | q :: rest =>
    let x : FarAcc :=
      { id := s.serial, op := op, grid := s.blk.grid, blk := s.blk.key, wid := s.w.wid, core := s.core
        kind := r.kind, cls := r.cls, scope := r.scope, set := r.set, flag := r.flag, loc := q.loc
        size := r.size, aop := r.aop, aty := r.aty, lanes := q.lanes, got := [], stage := 0
        acked := false, st := 0, after := s.acquires.filter (· < op)
        queueTo := if r.kind = 3 then op else 0, born := none
        clk := q.clk }
    State.sendAll { s with farQ := s.farQ ++ [x], serial := s.serial + 1 } op r rest

/-- Mark the flag of a far instruction; a far load clears the arrival bits of its lanes (R251, R304), and
the destination registers are undefined until the replies are in (R45). -/
def State.markFar (s : State) (op : Nat) (r : FarReq) (lanes : List Nat) (regs : List Nat) : State :=
  match r.flag with
  | none => s
  | some k =>
    let s := s.mark k op false
    let s := if r.kind ≤ 1 then s.mapLanes fun l => if lanes.contains l.id then l.setArrival k false else l else s
    { s with w := { s.w with pend := s.w.pend ++ lanes.flatMap fun l => regs.map fun n => ⟨op, l, n⟩ } }

/-- The class set holds a class: [2] O, [1] A, [0] V (R238, R308). -/
def setHas (set cls : Nat) : Bool := bit set (2 - cls)

/-- A thread's far accesses that a fence or a release of a class set and scope covers, as keys: it waits for the writes beyond
the package at .isl and .sys alone (R169, R177). -/
def coveredBy (set scope who : Nat) : List Nat :=
  ((List.range 3).filter (setHas set)).flatMap fun c => classKey who c false :: if 4 ≤ scope then [classKey who c true] else []

/-- What a far access of a lane comes after: a release after all its thread did and the far accesses that it covers, others as a
fence or an acquire has it, and each after what stands behind its address and data (R176, R183). -/
def State.comesAfter (s : State) (r : FarReq) (lane : Nat) (from' : List Nat) : SMap Nat :=
  let c := s.laterOf lane from'
  if r.kind = 3 then
    let who := s.threadOf lane
    joinClk c (joinClk (s.order.hand who) (clkOver s.order.farSeen (coveredBy r.set r.scope who)))
  else c

/-- The part of a line access that the order of R26 needs. -/
def State.ordered (s : State) (r : FarReq) (from' : List Nat) (q : LineReq) : LineReq :=
  { q with clk := q.lanes.map fun l => (l.1, s.threadOf l.1, s.comesAfter r l.1 from') }

/-- Start a far instruction of registers `from'`: mark its flag, send its line accesses, go on. -/
def State.farGo (s : State) (r : FarReq) (need : Nat) (xs : List (Nat × Nat)) (from' regs : List Nat)
    (reqs : List LineReq) : Act :=
  let op := s.serial
  let s1 := ({ s with serial := s.serial + 1 } : State).keepAll need xs
  let s2 := (s1.markFar op r (xs.map (·.1)) regs).sendAll op r (reqs.map (s.ordered r from'))
  .go (if r.kind = 3 then { s2 with order := s2.order.told (xs.map fun x => s.threadOf x.1) } else s2).advance

/-- The line access of lanes with their operands. -/
def lineReq (f : Nat × Nat → Nat × Nat × Nat × Nat × Nat) (g : List (Nat × Nat)) : LineReq :=
  { loc := (g.head?.map (·.2)).getD 0, lanes := g.map f, clk := [] }

/-- Bytes of a size code (R238). -/
abbrev szBytes (z : Nat) : Nat := 2 ^ z

/-- Data of a lane for a store of `size` bytes. -/
def State.farData (s : State) (lane vs size : Nat) : Nat :=
  match s.w.lanes[lane]? with
  | some l => (if size = 8 then s.vpair l vs else (s.vget l vs).toNat) % 2 ^ (8 * size)
  | none => 0

/-- A far load (R304): FLD, or FLDACQ with acquire (R305). -/
def State.farLoad (s : State) (kind vd va cls scope fs sz : Nat) : Act :=
  let size := szBytes sz
  let xs := s.farAddrs s.issuing va
  s.checkFar size 0 xs fun locs =>
    s.farGo ⟨kind, cls, scope, 0, s.fsFlag fs, size, 0, 0⟩ 0 xs (group va 2) (dataRegs size vd)
      ((byLine locs).map (lineReq fun x => (x.1, x.2, vd, 0, 0)))

/-- FLD (R303, R304). -/
def execFld (vd va cls scope fs sz : Nat) (s : State) : Res :=
  issue (.fld vd va cls scope fs sz) s (s.farLoad 0 vd va cls scope fs sz)

/-- FLDACQ (R305). -/
def execFldacq (vd va cls scope fs sz : Nat) (s : State) : Res :=
  issue (.fldacq vd va cls scope fs sz) s (s.farLoad 1 vd va cls scope fs sz)

/-- FST (R303, R304): with a flag, or without one (R218). -/
def execFst (vs va cls scope fs sz : Nat) (s : State) : Res :=
  let size := szBytes sz
  let xs := s.farAddrs s.issuing va
  issue (.fst vs va cls scope fs sz) s
    (s.checkFar size 1 xs fun locs =>
      s.farGo ⟨2, cls, scope, 0, s.fsFlag fs, size, 0, 0⟩ 1 xs (group va 2 ++ dataRegs size vs) []
        ((byLine locs).map (lineReq fun x => (x.1, x.2, 0, s.farData x.1 vs size, 0))))

/-- FSTREL (R306): the warp does not stall; the line access waits (R172). -/
def execFstrel (vs va cls scope fs set : Nat) (s : State) : Res :=
  let xs := s.farAddrs s.issuing va
  issue (.fstrel vs va cls scope fs set) s
    (s.checkFar 4 1 xs fun locs =>
      s.farGo ⟨3, cls, scope, set, s.fsFlag fs, 4, 0, 0⟩ 1 xs (group va 2 ++ [vs]) []
        ((byLine locs).map (lineReq fun x => (x.1, x.2, 0, s.farData x.1 vs 4, 0))))

/-- FATOM (R307): each lane is one line access, in ascending lane order. -/
def execFatom (vd va cls scope fs op ty : Nat) (s : State) : Res :=
  let size := if ty = 2 then 8 else 4
  let xs := s.farAddrs s.issuing va
  let regs := dataRegs size vd
  issue (.fatom vd va cls scope fs op ty) s
    (s.checkFar size 2 xs fun locs =>
      s.farGo ⟨4, cls, scope, 0, s.fsFlag fs, size, op, ty⟩ 2 xs
        (group va 2 ++ group vd (size / 4 * if op = 7 then 2 else 1)) regs
        (locs.map fun x => lineReq (fun x =>
          (x.1, x.2, vd, s.farData x.1 vd size, s.farData x.1 (vd + size / 4) size)) [x]))

/-- A far write or atomic stands as the table of R169 asks of a scope, by the place where its line is at home (R188). -/
def State.landedAt (s : State) (x : FarAcc) (scope : Nat) : Bool :=
  let h := s.home x.loc
  if locHere h then decide (2 ≤ x.stage)
  else if scope < 4 then true
  else if locHost h then decide (1 ≤ x.stage) && (scope == 4 || s.hostQ.all fun q => q.1 != x.id)
  else decide (2 ≤ x.stage)

/-- An earlier far access is completed at a scope (R169): writes and atomics by the table, reads and atomics once their
reply has arrived. -/
def State.completeAt (s : State) (x : FarAcc) (scope : Nat) : Bool :=
  if x.kind = 2 ∨ x.kind = 3 then s.landedAt x scope
  else x.acked && (x.kind != 4 || s.landedAt x scope)

/-- Every far access of a warp, numbered below `upTo` and in a class of the set, is completed (R171). -/
def State.farDone (s : State) (blk wid set scope upTo : Nat) : Bool :=
  s.farQ.all fun x =>
    !(x.blk == blk && x.wid == wid && decide (x.id < upTo) && setHas set x.cls) || s.completeAt x scope

/-- The number of the first far access that an FNC of a lane does not cover: the first after its first issue (R308). -/
def State.fenceOf (s : State) (l : Lane) : Nat := l.hint.fence.getD s.serial

/-- FNC (R171, R308): stalls its path until the far accesses of the warp that issued before it and that it covers are
completed, and the warp's store queue is empty. -/
def execFnc (set scope : Nat) (s : State) : Res :=
  issue (.fnc set scope) s
    (if s.farDone s.blk.key s.w.wid set scope ((s.issuing.map s.fenceOf).foldl max 0) && s.w.queue.isEmpty then
      .go ({ s with order := s.order.fence (s.issuing.map fun l => s.threadOf l.id) (coveredBy set scope) } : State).advance
    else .wait (s.mapIm fun l => { l with hint := { l.hint with fence := some (s.fenceOf l) } }))

/-! ### What an engine operation waits for (R185) -/

/-- The store queue of a warp holds no store numbered below `n` (R306). -/
def State.queueBelow (s : State) (b w n : Nat) : Bool :=
  match s.warp? b w with
  | some x => x.queue.all fun q => decide (n ≤ q.serial)
  | none => true

/-- Far acquires have been answered, and landed copies have ended (R173, R315). -/
def State.answeredAll (s : State) (ids : List Nat) : Bool :=
  (s.farQ.all fun x => !ids.contains x.id || x.acked) && s.copies.all fun c => !ids.contains c.id

/-- An operation that a warp issued may make its accesses: the warp's stores numbered below `n` have left its queue, and
the far acquires before it have been answered (R185). -/
def State.mayBegin (s : State) (b w n : Nat) (acq : List Nat) : Bool := s.queueBelow b w n && s.answeredAll acq

end Sys2Proof.Machine
end

