-- ==== Sys2Proof/Machine/Sync.lean ====
section
/-! DEFINITION. Hurdles, stamps, the block barrier and LAND (R25, R26, R309 to R313, R315). -/

namespace Sys2Proof.Machine

/-- Issuing lanes whose guard is true, in ascending order: the active lanes of the SY layout (R293). -/
def State.guarded (s : State) (g : Nat) : List Lane := s.issuing.filter (·.pget g)

/-- The hurdle format check fails (R26). -/
def hurdleBad (h : Nat) : Bool := decide (2 ^ 33 ≤ h) || h % 2 ^ 16 == 0

/-- PH of a hurdle (R25). -/
abbrev hurdlePhase (h : Nat) : Bool := bit h 32

/-- An arrival of `count` (R26). -/
def hurdleArrive (h count : Nat) : Nat :=
  let e := h % 2 ^ 16
  let a := field h 16 16 + count
  let ph := if hurdlePhase h then 1 else 0
  if e ≤ a then (1 - ph) * 2 ^ 32 + (a - e) % 2 ^ 16 * 2 ^ 16 + e
  else ph * 2 ^ 32 + a % 2 ^ 16 * 2 ^ 16 + e

/-- The threads of the active lanes, whose one access a hurdle instruction makes (R309). -/
def State.threads (s : State) (g : Nat) : List Nat := (s.guarded g).map fun l => s.threadOf l.id

/-- The unit of shared memory at `a`, as a key. -/
def State.unitKey (s : State) (a : Nat) : Nat := byteKey (s.memTag .shared) a

/-- Threads are about to reach the hurdle at `a`: stores to it that do not come before them reached a hurdle in use, and have
left it undefined (R26). -/
def State.contend (s : State) (whos : List Nat) (a : Nat) : State :=
  if s.order.unmet (s.unitKey a) whos then
    let t := s.poke .shared a ((List.range 8).map fun i => BitVec.ofNat 8 (s.choice (a + i)))
    { t with order := { t.order with stores := smDel t.order.stores (s.unitKey a) } }
  else s

/-- Threads have reached the hurdle at `a` (R26). -/
def State.touch (s : State) (whos : List Nat) (a : Nat) : State := { s with order := s.order.reach (s.unitKey a) whos }

/-- Threads have read the hurdle at `a`: their later accesses to shared memory come after what it hands on (R181). -/
def State.hearHurdle (s : State) (whos : List Nat) (a : Nat) : State :=
  { s with order := s.order.learn whos (s.order.handed (s.keysOf .shared a 8)) false }

/-- A wait of threads at the hurdle at `a` completes (R183). -/
def State.passHurdle (s : State) (whos : List Nat) (a : Nat) : State :=
  { s with order := s.order.waitedAt whos (s.order.handed (s.keysOf .shared a 8)) }

/-- An arrival hands on what its threads know and have done (R183). -/
def State.handOn (s : State) (whos : List Nat) (a : Nat) : State :=
  let t := s.hearHurdle whos a
  let c := t.order.handAll whos
  { t with order := ((t.order.give (s.keysOf .shared a 8) c).wrote whos false c).told whos }

/-- What stands behind the offset of a hurdle comes before the access of the active lanes to it (R176, R309). -/
def State.behindAt (s : State) (g va : Nat) : State :=
  { s with order := s.order.learn (s.threads g) (s.order.ofRegs ((s.guarded g).flatMap fun l => s.vKeys l.id [va])) false }

/-- The checks of a hurdle offset, then the format check of what stands there (R309, R310). -/
def State.withHurdle (s : State) (g va : Nat) (k : State → Nat → Nat → Act) : Act :=
  match s.guarded g with
  | [] => .go s.advance
  | l :: _ =>
    let a := (s.vget l va).toNat
    s.checkOnChip 0 8 [(l.id, a)]
      (if !s.acquires.isEmpty then .stall
      else
        s.unlessBroken [(a, 8)]
          (let t := (s.behindAt g va).contend (s.threads g) a
          let h := t.loadNat .shared a 8
          if hurdleBad h then laneTrap 0x26 l.id a else k t a h))

/-- HURDLE.ARRIVE (R310): it waits for the warp's store queue to empty, and for its earlier loads (R183). -/
def execHurdleArrive (va count g : Nat) (s : State) : Res :=
  issue (.hurdleArrive va count g) s
    (match s.guarded g with
      | [] => .go s.advance
      | _ =>
        if s.w.queue.isEmpty && s.w.gloads.isEmpty then
          s.withHurdle g va fun t a h =>
            .go (((t.touch (s.threads g) a).handOn (s.threads g) a).poke .shared a (leBytes 8 (hurdleArrive h count))).advance
        else
          match s.guarded g with
          | l :: _ => s.checkOnChip 0 8 [(l.id, (s.vget l va).toNat)] .stall
          | [] => .stall)

/-- HURDLE.WAIT (R311): completes on a read that finds PH ≠ q. -/
def execHurdleWait (va sb g : Nat) (s : State) : Res :=
  let q := (s.sfld 1 sb).getLsbD 0
  issue (.hurdleWait va sb g) s
    (s.withHurdle g va fun t a h =>
      let u := t.touch (s.threads g) a
      if hurdlePhase h != q then .go (u.passHurdle (s.threads g) a).advance else .wait (u.hearHurdle (s.threads g) a))

/-- The expected sequence number of a WAITST: 48 bits of an even pair (R313). -/
def State.expectedSeq (s : State) (sb : Nat) : Nat :=
  let b := s.sname 1 sb
  (s.sget b).toNat + 2 ^ 32 * ((s.sget (b + 1)).toNat % 2 ^ 16)

/-- A stamp has reached or passed sequence E (R313). -/
def stampReached (stamp e : Nat) : Bool := decide ((stamp / 2 ^ 16 + 2 ^ 48 - e) % 2 ^ 48 < 2 ^ 47)

/-- Lanes have read stamps at what registers give: an acquire (R175, R176, R183). -/
def State.hearStamp (s : State) (from' : List Nat) (xs : List (Nat × List Nat)) : State :=
  { s with order := xs.foldl (fun o x =>
      o.learn [s.threadOf x.1] (joinClk (o.handed x.2) (o.ofRegs (s.vKeys x.1 from'))) true) s.order }

/-- WAITST on an on-chip stamp: space 0 shared, 1 Granary (R313); it reads at issue. (DEDUCED, log 45) -/
def State.waitStamp (s : State) (sp va sb g : Nat) : Act :=
  let xs := (s.guarded g).map fun l => (l.id, (s.vget l va).toNat)
  let e := s.expectedSeq sb
  s.checkOnChip sp 8 xs
    (if !s.acquires.isEmpty then .stall
    else
      s.unlessBroken (if sp = 0 then xs.map fun x => (x.2, 8) else [])
        (if xs.all fun x => !s.awaitsAt (s.spaceOf sp 0) x.2 8 && stampReached (s.loadNat (s.spaceOf sp 0) x.2 8) e then
          .go (s.hearStamp [va] (xs.map fun x => (x.1, s.keysOf (s.spaceOf sp 0) x.2 8))).advance
        else .stall))

/-- WAITST (R313). -/
def execWaitst (va sb g : Nat) (s : State) : Res :=
  issue (.waitst va sb g) s (s.waitStamp 0 va sb g)

/-- WAITST.granary (R313). -/
def execWaitstGranary (va sb g : Nat) (s : State) : Res :=
  issue (.waitstGranary va sb g) s (s.waitStamp 1 va sb g)

/-- A class O read of the warp at `loc` may be performed now: no earlier access of the warp to the line,
and no earlier class O access of the core to the target in the plane, is still to be performed (R164,
R166), none of the core in the plane stands at a frozen line (R188), and the plane is open. -/
def State.readFree (s : State) (loc : Nat) : Bool :=
  !s.shut s.dieNo loc && s.acquires.isEmpty &&
  s.farQ.all fun x =>
    !(x.blk == s.blk.key && x.wid == s.w.wid && lineOf x.loc == lineOf loc &&
        (if x.cls = 0 then decide (x.stage < 2) else !x.acked)) &&
    !(x.cls == 0 && (x.core == s.core || (x.blk == s.blk.key && x.wid == s.w.wid)) &&
        locTarget x.loc == locTarget loc && planeOf x.loc == planeOf loc &&
        decide (x.stage < (if locHost (s.home x.loc) then 1 else 2))) &&
    !(x.stage == 0 && decide (2 ≤ x.kind) && x.core == s.core && planeOf x.loc == planeOf loc && s.frozen x.loc)

/-- The reads of the issuing path's LAUNCH or WAITST.far that go unanswered (R392). -/
def State.wordSent (s : State) : Option Sent := s.issuing.findSome? fun l => l.hint.sent

/-- The issuing path has sent reads that go unanswered. -/
def State.sendWord (s : State) (found : List (Nat × Nat × Nat)) : State :=
  s.mapIm fun l => { l with hint := { l.hint with sent := s.noteSent none s.dieNo 0 found } }

/-- The reads of a WAITST.far that would go unanswered now: those that can leave the far-access unit, and where nothing answers
(R162, R392). -/
def State.stampsDead (s : State) (xs : List (Nat × Nat)) : List (Nat × Nat × Nat) :=
  if s.anyDead && s.acquires.isEmpty then xs.flatMap fun x => s.deadLines s.dieNo s.blk.tenant 0 x.2 8 else []

/-- WAITST.far (R313): the stamp is read in class O at scope .sys. A read that has gone unanswered for the system timeout is
given up, and the instruction, which has no flag to report it, reads again (R392). (DESIGN CHOICE, log 43) -/
def execWaitstFar (va sb g : Nat) (s : State) : Res :=
  let xs := s.farAddrs (s.guarded g) va
  let e := s.expectedSeq sb
  issue (.waitstFar va sb g) s
    (match s.wordSent with
    | some x =>
      if s.timeUp s.dieNo x.since then .wait (s.mapIm fun l => { l with hint := { l.hint with sent := none } }) else .stall
    | none => s.checkFar 8 0 xs fun locs =>
      if !(s.stampsDead xs).isEmpty then .wait ((s.keepAll 0 xs).sendWord (s.stampsDead xs))
      else if locs.all fun x => s.readFree x.2 && stampReached (s.farNat x.2 8) e then
        .go (((s.keepAll 0 xs).sawHost (locs.map fun x => (x.2, 8))).hearStamp (group va 2) (locs.map fun x => (x.1, s.locKeys x.2 8))).advance
      else .wait (s.keepAll 0 xs))

/-- BARB (R312): each active lane arrives and stands at the BARB until the barrier opens; the others go on. -/
def execBarb (g : Nat) (s : State) : Res :=
  issue (.barb g) s
    (.go { s.mapIm (fun l => if l.pget g then { l with arrived := some s.serial } else l.next) with
      serial := s.serial + 1 })

/-- The copies with a permit of the block that overlaps bytes of a space: 0 shared, 1 Granary (R134, R315). -/
def State.permitsOn (s : State) (sp off len : Nat) : List Copy :=
  let r : Int × Int := (off, (off : Int) + len - 1)
  s.copies.filter fun c =>
    c.blk == s.blk.key &&
    ((c.landOn && c.walk.dsp == sp && overlaps c.walk.dstRange r) ||
     (c.srcOn && c.walk.ssp == sp && overlaps c.walk.srcRange r))

/-- What the accesses of copies come after, as far as they have been made (R26). -/
def State.copiesClk (s : State) (ids : List Nat) : SMap Nat :=
  (s.copies.filter fun c => ids.contains c.id).foldl (fun m c => joinClk m c.clk)
    (clkOver s.order.owed (ids.map fun i => flagKey (copyParty i) 0))

/-- A LAND completes: later accesses of its warp come after all of the copies whose permit has held it (R185, R315). -/
def State.landed (s : State) : State :=
  let ids := s.issuing.flatMap fun l => l.hint.land
  if ids.isEmpty then s
  else
    { s with
      w := { s.w with landed := (s.w.landed.filter fun c => s.copies.any (·.id == c)) ++ ids }
      order := s.order.learn (s.issuing.map fun l => s.threadOf l.id) (s.copiesClk ids) true }

/-- LAND (R315). -/
def execLand (sa : Nat) (s : State) : Res :=
  let b := s.sname 1 sa
  let w0 := (s.sget b).toNat
  let w1 := (s.sget (b + 1)).toNat
  let sp := field w0 30 2
  let off := field w0 0 27
  let len := field w1 0 28
  issue (.land sa) s
    (if 2 ≤ sp ∨ field w0 27 3 ≠ 0 ∨ field w1 28 4 ≠ 0 then .cause 0x27
    else if len = 0 then .go s.advance
    else if sp = 0 ∧ !s.sharedOk off len then .trap { cause := 0x22, addr := off }
    else if sp = 1 ∧ !s.granaryOk s.blk.grid s.dieNo off len then .trap { cause := 0x23, addr := off }
    else if (s.permitsOn sp off len).isEmpty then .go s.landed.advance
    else .wait (s.mapIm fun l => { l with hint := { l.hint with
      land := l.hint.land ++ ((s.permitsOn sp off len).map (·.id)).filter fun i => !l.hint.land.contains i } }))

end Sys2Proof.Machine
end

