-- ==== Sys2Proof/Machine/Paths.lean ====
section
/-! DEFINITION. Paths and their order, what is behind a marker, readiness, safe points (R36 to R47, R90). -/

namespace Sys2Proof.Machine

/-- A path (R37). -/
structure Path where
  n : Nat
  depth : Nat
  pc : Word
  mask : Nat
  deriving DecidableEq, Repr

/-- The order of R38. -/
def Path.before (a b : Path) : Bool :=
  decide (b.n < a.n) ||
  (a.n == b.n && (decide (b.depth < a.depth) || (a.depth == b.depth && decide (a.pc.toNat < b.pc.toNat))))

/-- Put a lane into its path. -/
def addToPath (l : Lane) : List Path → List Path
  | [] => [⟨1, l.depth, l.pc, 2 ^ l.id⟩]
  | p :: r =>
    if p.depth = l.depth ∧ p.pc = l.pc then { p with n := p.n + 1, mask := p.mask + 2 ^ l.id } :: r
    else p :: addToPath l r

/-- Put a path into its place. -/
def insertPath (p : Path) : List Path → List Path
  | [] => [p]
  | q :: r => if p.before q then p :: q :: r else q :: insertPath p r

/-- The paths of a list of lanes, in the order of R38. -/
def pathsOf (ls : List Lane) : List Path :=
  (ls.foldl (fun a l => addToPath l a) []).foldl (fun a p => insertPath p a) []

/-- A lane that called a service and has no reply yet: it stands where it parked (R350). -/
def Warp.calling (w : Warp) (l : Lane) : Bool :=
  match w.parked with
  | none => false
  | some k => bit k.mask l.id

/-- The paths of a warp that may issue. -/
def Warp.paths (w : Warp) : List Path := pathsOf (w.lanes.filter fun l => l.onPath && !w.calling l)

/-- Every runnable path, lanes that stand at a BARB among them (R90). -/
def Warp.runnablePaths (w : Warp) : List Path := pathsOf (w.lanes.filter (·.st == .runnable))

/-- The lane is behind a position (R46). -/
def Lane.behind (l : Lane) (d : Nat) (pc : Word) : Bool :=
  l.live && (decide (d < l.depth) || (l.depth == d && decide (l.pc.toNat < pc.toNat)))

/-- Some lane of the warp is behind a position. -/
def Warp.anyBehind (w : Warp) (d : Nat) (pc : Word) : Bool := w.lanes.any (·.behind d pc)

/-- The warp has ended (R36). -/
def Warp.over (w : Warp) : Bool := w.lanes.all fun l => !l.live

/-- Past the hint words at a PC: where their target stands (R224). -/
def State.target (s : State) : Nat → Word → Word
  | 0, pc => pc
  | n + 1, pc =>
    match s.fetch pc with
    | .word w => if 0x70 ≤ w / 2 ^ 25 ∧ w / 2 ^ 25 ≤ 0x73 then s.target n (pc + 4) else pc
    | _ => pc

/-- Where the safe bit of a path stands: the first word of a clause it is about to enter, the target of
the hints it is about to issue (R90, R93, R224). -/
def State.safeWord (s : State) (l : Lane) : Word :=
  s.target 16 (if l.clause.isNone then l.pc + 4 else l.pc)

/-- What keeps an SVC of `n` calling lanes at its issue: the warp's queued stores, its loads and its far accesses (R351),
the request ring of the die and the reach of its slots (R188, R348, R410, R423, R424, R426), or an earlier call of the warp, at which its other paths stop (R350). -/
def State.svcStalls (s : State) (n : Nat) : Bool :=
  let x := s.die s.dieNo
  s.w.parked.isSome || !s.w.queue.isEmpty || !s.w.gloads.isEmpty || !s.farDone s.blk.key s.w.wid 7 5 s.serial ||
  !bit (x.ctlNat 0xA8) 31 || decide (x.svcSlots < x.svcUsed + n + 1) ||
  (List.range (n + 1)).any fun i => s.areaHeld s.dieNo (x.ctl64 0xA0 + 64 * ((x.ctlNat 0xB0 + i) % 2 ^ 17 % x.svcSlots)) 64

/-- The lanes of the warp that stand where a lane stands. -/
def State.standing (s : State) (l : Lane) : List Lane :=
  s.w.lanes.filter fun x => x.onPath && x.depth == l.depth && x.pc == l.pc

/-- The block of the focused warp has trap 0x34 to take at a wait on these flags (R408). -/
def State.accTrap (s : State) (m : Nat) : Bool := s.blk.accLost && s.w.flagsLost m

/-- The flags that the first word of the lane's clause waits for are clear (R44, R215). -/
def Warp.clauseOpen (w : Warp) (l : Lane) : Bool := w.flagsClear ((l.clause.map (·.wait)).getD 0)

/-- A lane stalls at an SVC, which is then a safe point; one with no calling lane never stalls, nor does one that traps (R348). -/
def State.atSvc (s : State) (l : Lane) : Bool :=
  match s.fetch l.pc with
  | .word w =>
    (match decode w with
      | some (.svc va n g) =>
        let calling := (s.standing l).filter (·.pget g)
        l.clause.isSome && s.w.clauseOpen l && !calling.isEmpty &&
        (issueTrap (.svc va n g) { s with im := maskOf (s.standing l) }).isNone && s.svcStalls calling.length
      | _ => false)
  | _ => false

/-- A lane is stopped at a safe point (R90); a lane that called a service stands at one (R348, R350). -/
def State.laneSafe (s : State) (l : Lane) : Bool :=
  l.st != .runnable || s.w.calling l || s.atSvc l || s.safeBit (s.safeWord l).toNat

/-- The focused warp is stopped at a safe point; a warp held for a trap stands at its resumption point (R90, R345). -/
def State.warpSafe (s : State) : Bool :=
  s.blk.held.any (·.wid == s.w.wid) || s.w.lanes.all s.laneSafe

/-- Every lane of a path of the focused warp is stopped at a safe point. -/
def State.pathSafe (s : State) (p : Path) : Bool := (s.w.lanes.filter fun l => bit p.mask l.id).all s.laneSafe

/-- The uniform registers that a kernel-level trap writes (R342). -/
def frameRegs : List Nat := [42, 43, 44, 45]

/-- The uniform registers that a word names, the frame's where it may trap to the handler among them. -/
def uniNamed (s : State) (i : Instr) (sh : Shape) : List Nat :=
  ((List.range sh.uf.length).flatMap fun k => match sh.uf[k]? with
    | some f => f.regs (s.bank (k + 1))
    | none => []) ++
  (match i with
    | .trap .. | .callo .. => frameRegs
    | _ => [])

/-- Some register that a word names waits for a load from the Granary (R44, R181, R261). -/
def State.awaited (s : State) (i : Instr) (sh : Shape) : Bool :=
  let regs := srcV sh s.hint ++ sh.vw ++ s.describedV i ++ s.describedW i
  s.w.gloads.any fun x => match x.dest with
    | .lane => (dataRegs x.size x.reg).any regs.contains
    | .uniform => (uniNamed s i sh).contains x.reg
    | .tile => false

/-- Some source of a word is still under its interlock (R44). -/
def State.locked (s : State) (i : Instr) : Bool :=
  let sh := shapeOf s.W i
  s.awaited i sh || s.w.locks.any fun k => decide (s.clock < k.ready) &&
    (match k.cls with
      | 0 => (srcV sh s.hint).contains k.reg || (s.describedV i).contains k.reg
      | 1 => (uniSrc s i sh).contains k.reg
      | _ => sh.pr.contains k.reg || (s.hint.xv.map (·.mp)) == some k.reg)

/-- The word at a PC meets no interlock; a word that will trap meets none. -/
def State.free (s : State) (pc : Word) : Bool :=
  match s.fetch pc with
  | .absent => false
  | .past => true
  | .word w =>
    match decode w with
    | some i => if isHeader w || decide (0x70 ≤ w / 2 ^ 25) then true else !s.locked i
    | none => true

/-- The issuing path is ready (R44). -/
def State.pathReady (s : State) : Bool :=
  match s.lead with
  | none => false
  | some l =>
    if l.clause.isSome then s.accTrap ((l.clause.map (·.wait)).getD 0) || (s.w.clauseOpen l && s.free l.pc)
    else
      match s.fetch l.pc with
      | .absent => false
      | .past => true
      | .word w =>
        match decode w with
        | some (.clauseHeader wait seta setb len yld rcv) =>
          !(Instr.clauseHeader wait seta setb len yld rcv).wf ||
          s.accTrap wait ||
          (s.w.flagsClear wait && ((rcv == 1 && s.w.anyBehind l.depth l.pc) || s.free (l.pc + 4)))
        | _ => true

/-- The block is to leave its core at its next safe points: a swap-out of it is wanted, or a trap holds it (R35, R345). -/
def State.leaving (s : State) : Bool := (s.blk.swapReason.isSome || !s.blk.held.isEmpty) && !s.blk.deferred

/-- The focused warp issues nothing: held for a trap, stopped for a swap-out, or its block does not run (R345, R399,
R403). -/
def State.quiet (s : State) : Bool :=
  s.blk.stopped || s.blk.core.isNone ||
  s.blk.held.any (·.wid == s.w.wid) ||
  (s.leaving && s.warpSafe)

/-- The first path of the focused warp, a lane at a BARB among its lanes. -/
def State.firstPath (s : State) : Option Path := s.w.runnablePaths.head?

/-- The pending divergence trap of the focused warp can enter the handler now: its first path stands at a
safe point, no lane has its H bit set, and no load into the frame's registers is to come. -/
def State.divReady (s : State) : Bool :=
  s.w.divPend && s.w.parked.isNone && !s.quiet && !(s.w.lanes.any fun l => l.live && l.h) &&
  !(s.w.gloads.any fun x => x.dest == .uniform && frameRegs.contains x.reg) &&
  match s.firstPath with
  | some p => s.pathSafe p
  | none => false

/-- The paths of the focused warp stop at their next safe points: its block is to leave its core (R35, R345, R403), or it is
parked at an SVC (R350). -/
def State.stopping (s : State) : Bool := s.leaving || s.w.parked.isSome

/-- A path of the focused warp has lanes in the handler. -/
def State.inHandler (s : State) (p : Path) : Bool := s.w.lanes.any fun l => bit p.mask l.id && l.h

/-- A path stops at its safe point; one in the handler goes on while another path, which may be waiting to enter it (R341), has
not come to a safe point, since the warp has not stopped before that (R403). (DEDUCED, log 7) -/
def State.stopsAt (s : State) (p : Path) : Bool :=
  s.stopping && s.pathSafe p &&
  !(s.w.parked.isNone && s.inHandler p && s.w.paths.any fun q => !s.inHandler q && !s.pathSafe q)

/-- The ready paths of the focused warp, in order; one that is to take the divergence trap does not issue before it
(R341), and one that is to stop stops at its next safe point. -/
def State.readyPaths (s : State) : List Path :=
  if s.quiet then []
  else s.w.paths.filter fun p =>
    !(s.divReady && s.firstPath.map (·.mask) == some p.mask) && !s.stopsAt p &&
    ({ s with im := p.mask } : State).pathReady

/-- Some path of a warp is ready. -/
def State.warpReady (s : State) (b w : Nat) : Bool := !(s.focus b w).readyPaths.isEmpty

/-- The warps placed on a partition of a core, or a half of one. -/
def State.warpsOn (s : State) (core part half : Nat) : List (Nat × Nat) :=
  let s := s.unfocus
  s.blocks.flatMap fun b =>
    match b.2.core with
    | none => []
    | some _ => (b.2.warps.filter fun w =>
        b.2.coreOf w.2 == core && w.2.part == part && w.2.half == half).map fun w => (b.1, w.1)

/-- Another warp of the issuing warp's partition or half is ready (R56). -/
def State.otherReady (s : State) : Bool :=
  (s.warpsOn s.core s.w.part s.w.half).any fun x => some x != s.cur && s.warpReady x.1 x.2

/-- The policy of a core is round robin: its own, or that of the grids of its blocks (R369, R384). -/
def State.coreRR (s : State) (core : Nat) : Bool :=
  match (s.die (coreDie core)).corePol (core % 48) with
  | some rr => rr
  | none =>
    let s := s.unfocus
    s.blocks.any fun b => b.2.core.isSome && (b.2.onCore == core ||
      ((s.pktOf b.2).e != 0 && b.2.onCore + 1 == core)) && (s.pktOf b.2).pol == 1

end Sys2Proof.Machine
end

