-- ==== Sys2Proof/Machine/Faults.lean ====
section
/-! DEFINITION. Fault records and the fault ring (R399, R400). -/

namespace Sys2Proof.Machine

/-- A held trap of kind 1 or an event of another kind, with nothing in it but what is named. -/
def Held.zero : Held where
  cause := 0
  detail := 0
  reason := 0
  wid := 0xFFFF
  pc := 0
  mask := 0
  addr := 0
  loc := 0
  recorded := true

/-- The 64 bytes of a record with its sequence number (R400). -/
def FaultRec.bytes (r : FaultRec) (seq : Nat) : List Byte :=
  leBytes 1 r.kind ++ leBytes 1 (if r.kind = 1 then r.held.cause else 0) ++ leBytes 1 r.held.detail ++
  leBytes 1 r.held.reason ++ leBytes 2 r.tenant ++ leBytes 2 r.core ++ leBytes 4 r.grid ++
  leBytes 4 r.block ++ leBytes 2 r.held.wid ++ leBytes 2 0 ++ leBytes 4 r.held.pc.toNat ++
  leBytes 8 r.held.mask ++ leBytes 8 r.held.addr ++ leBytes 8 r.held.loc ++ leBytes 8 r.save ++ leBytes 8 seq

/-- Write a record at TAIL and advance TAIL (R400). -/
def State.writeRecord (s : State) (r : FaultRec) : State :=
  let d := s.die r.die
  let tail := d.ctlNat 0x60
  let at' := d.ctl64 0x50 + 64 * (tail % d.faultSlots)
  let s := s.farPut at' (r.bytes (d.faultSeq + 1))
  s.modDie r.die fun x =>
    { x.ctlSet 0x60 (w32 ((tail + 1) % 2 ^ 17)) with faultSeq := x.faultSeq + 1 }

/-- The die's ring has room for a record. -/
def Die.faultRoom (d : Die) : Bool := decide (d.faultUsed < d.faultSlots)

/-- The next record's place cannot be written now (R188, R423, R424, R426). -/
def State.recordCut (s : State) (die : Nat) : Bool :=
  let d := s.die die
  s.areaHeld die (d.ctl64 0x50 + 64 * (d.ctlNat 0x60 % d.faultSlots)) 64

/-- Record a fault: kind 2 is dropped when the ring is full, and the others wait for room (R400); all wait where the ring's
lines cannot be reached or are frozen (R188, R423, R424). -/
def State.record (s : State) (r : FaultRec) : State :=
  let d := s.die r.die
  if d.faultRoom && d.backlog.isEmpty && !s.recordCut r.die then s.writeRecord r
  else if r.kind = 2 ∧ d.faultRoom = false then s
  else s.modDie r.die fun x => { x with backlog := x.backlog ++ [r] }

/-- Write the records that wait, as far as the ring has room and can be reached. -/
def State.flushRecords (s : State) (d : Nat) : List FaultRec → State
  | [] => s.modDie d fun x => { x with backlog := [] }
  | r :: rest =>
    if (s.die d).faultRoom && !s.recordCut d then (s.writeRecord r).flushRecords d rest
    else s.modDie d fun x => { x with backlog := r :: rest }

/-- The record of a held block (R345, R400). -/
def heldRecord (b : Block) (h : Held) : FaultRec :=
  { die := b.homeDie, kind := 1, held := h, tenant := b.tenant, core := ((smGet b.warps h.wid).map b.coreOf).getD b.onCore, grid := b.grid
    block := b.idx, save := b.save.getD 0 }

/-- A record of an engine or of a grid. -/
def engineRecord (die kind tenant core grid : Nat) (h : Held) : FaultRec :=
  { die := die, kind := kind, held := h, tenant := tenant, core := core, grid := grid, block := 0, save := 0 }

end Sys2Proof.Machine
end

