-- ==== Sys2Proof/Machine/Hash.lean ====
section
/-! DEFINITION. SHA-256 (R78, R92, R421) and CRC-32C (R109, R141). -/

namespace Sys2Proof.Machine

/-- The primes of the hash: the numbers below 312 that no smaller prime up to its root divides. -/
def hashPrimes : List Nat :=
  (List.range 312).filter fun n => decide (2 ≤ n) && [2, 3, 5, 7, 11, 13, 17].all fun p => n == p || n % p != 0

/-- The digits of a root, from bit `n` down: the greatest number from `r` up whose power `k` does not pass `goal`. -/
def rootFrom (k goal : Nat) : Nat → Nat → Nat
  | 0, r => r
  | n + 1, r => rootFrom k goal n (if (r + 2 ^ n) ^ k ≤ goal then r + 2 ^ n else r)

/-- The first 32 bits of the fraction of the root of order `k` of a number. -/
def rootWord (k p : Nat) : Nat := rootFrom k (p * 2 ^ (32 * k)) 36 0 % 2 ^ 32

/-- A word turned right by three counts, and the three added without carry. -/
def turn3 (x a b c : Nat) : Nat :=
  let y := x * 2 ^ 32 + x
  (y / 2 ^ a ^^^ y / 2 ^ b ^^^ y / 2 ^ c) % 2 ^ 32

/-- The same with the third a shift. -/
def turn2 (x a b c : Nat) : Nat :=
  let y := x * 2 ^ 32 + x
  (y / 2 ^ a ^^^ y / 2 ^ b) % 2 ^ 32 ^^^ x / 2 ^ c

/-- A big-endian number of bytes. -/
def beNat (bs : List Byte) : Nat := bs.foldl (fun a b => a * 256 + b.toNat) 0

/-- Big-endian bytes of a number. -/
def beBytes (n x : Nat) : List Byte := (leBytes n x).reverse

/-- `n` more words of the schedule of a block, before those that stand: newest first. -/
def hashWords : Nat → List Nat → List Nat
  | 0, w => w
  | n + 1, w =>
    hashWords n ((w.getD 15 0 + turn2 (w.getD 14 0) 7 18 3 + w.getD 6 0 + turn2 (w.getD 1 0) 17 19 10) % 2 ^ 32 :: w)

/-- The two chains of a hash, each with its four latest words, newest first. -/
abbrev Chains : Type := List Nat × List Nat

/-- One more word of each chain, from a word of the schedule with its constant. -/
def Chains.grow (h : Chains) (x : Nat) : Chains :=
  let p (i : Nat) : Nat := h.1.getD i 0
  let q (i : Nat) : Nat := h.2.getD i 0
  let pick := q 0 &&& q 1 ||| (q 0 ^^^ (2 ^ 32 - 1)) &&& q 2
  let most := p 0 &&& (p 1 ||| p 2) ||| p 1 &&& p 2
  let feed := q 3 + turn3 (q 0) 6 11 25 + pick + x
  (((feed + turn3 (p 0) 2 13 22 + most) % 2 ^ 32) :: h.1.take 3, ((p 3 + feed) % 2 ^ 32) :: h.2.take 3)

/-- The constants of the steps of a block. -/
def hashConsts : List Nat := hashPrimes.map (rootWord 3)

/-- The chains before the first block. -/
def hashStart : List Nat := (hashPrimes.take 8).map (rootWord 2)

/-- Compress one 64-byte block. -/
def shaBlock (h : List Nat) (bs : List Byte) : List Nat :=
  let first := (List.range 16).map fun i => beNat ((bs.drop (4 * i)).take 4)
  let steps := (hashConsts.zip (hashWords 48 first.reverse).reverse).map fun x => x.1 + x.2
  let last : Chains := steps.foldl Chains.grow (h.take 4, h.drop 4)
  (h.zip (last.1 ++ last.2)).map fun x => (x.1 + x.2) % 2 ^ 32

/-- Compress `n` blocks. -/
def shaBlocks : Nat → List Nat → List Byte → List Nat
  | 0, h, _ => h
  | n + 1, h, bs => shaBlocks n (shaBlock h (bs.take 64)) (bs.drop 64)

/-- The 32 bytes of the SHA-256 of a message. -/
def sha256 (m : List Byte) : List Byte :=
  let pad := (119 - m.length % 64) % 64
  let bs := m ++ [0x80] ++ List.replicate pad 0 ++ beBytes 8 (8 * m.length)
  (shaBlocks (bs.length / 64) hashStart bs).flatMap (beBytes 4)

/-- SHA-256 as the number of its bytes in stored order. -/
def sha256Nat (m : List Byte) : Nat := leNat (sha256 m)

/-- `n` bit steps of the reflected Castagnoli polynomial. -/
def crcBits : Nat → Nat → Nat
  | 0, c => c
  | n + 1, c => crcBits n (if c % 2 = 1 then (c / 2) ^^^ 0x82F63B78 else c / 2)

/-- CRC-32C of bytes (R109). -/
def crc32c (bs : List Byte) : Nat :=
  (bs.foldl (fun c b => crcBits 8 (c ^^^ b.toNat)) 0xFFFFFFFF) ^^^ 0xFFFFFFFF

end Sys2Proof.Machine
end

