-- ==== Sys2Proof/Machine/LoftOps.lean ====
section
/-! DEFINITION. The overlay table of a core: pins, eviction, loads (R77 to R89, R336 to R339). -/

namespace Sys2Proof.Machine

/-- The overlays a lane is in: that of its PC and those of its return chain. -/
def Lane.overlays (l : Lane) : List Nat := pcOvx l.pc :: l.chain.map fun r => pcOvx r.pc

/-- The key of an entry in `State.loft`. -/
abbrev loftKey (core n : Nat) : Nat := core * 256 + n

/-- A warp of a block has a live lane in the code of an entry (R83). -/
def State.inCode (s : State) (b : Block) (w : Warp) (e : LoftEntry) : Bool :=
  match smGet s.grids b.grid with
  | none => false
  | some g => w.lanes.any fun l => l.live && l.overlays.any fun o => g.dirHash o == some e.hash

/-- Implicit pins of an entry of a core (R83); those of a swapped-out warp count where it last ran. (DESIGN CHOICE,
log 39) -/
def State.implicitPins (s : State) (core : Nat) (e : LoftEntry) : Nat :=
  let s := s.unfocus
  (s.blocks.map fun b =>
    if b.2.tenant = e.tenant then
      (b.2.warps.filter fun w => b.2.coreOf w.2 == core && s.inCode b.2 w.2 e).length
    else 0).sum

/-- Explicit pins of an entry (R83). -/
def State.explicitPins (s : State) (core n : Nat) : Nat :=
  let s := s.unfocus
  (s.blocks.map fun b => (smGet b.2.pins (loftKey core n)).getD 0).sum

/-- The pin count of an entry (R83); a base overlay stays pinned for its grids (R86), one pin for each. (DESIGN CHOICE,
log 39) -/
def State.pinCount (s : State) (core n : Nat) (e : LoftEntry) : Nat :=
  s.implicitPins core e + s.explicitPins core n + e.base.length

/-- Change a loft entry. -/
def State.modLoft (s : State) (core n : Nat) (f : LoftEntry → LoftEntry) : State :=
  { s with loft := smMod s.loft (loftKey core n) f }

/-- An entry with nothing in it, its generation kept. -/
def LoftEntry.empty (e : LoftEntry) : LoftEntry :=
  { e with st := .absent, words := [], entries := [], safe := [], slots := 0, evictMark := false, base := []
           waiters := [], forced := false, due := none, deadSince := none }

/-- Every block forgets its explicit pins of an entry: they named a residency that has gone. (DESIGN CHOICE, log 39) -/
def State.dropPins (s : State) (key : Nat) : State :=
  { s with
    blk := { s.blk with pins := smDel s.blk.pins key }
    blocks := s.blocks.map fun b => (b.1, { b.2 with pins := smDel b.2.pins key }) }

/-- An entry becomes absent, and its slots are free (R84, R88). -/
def State.freeEntry (s : State) (core n : Nat) : State :=
  (s.modLoft core n LoftEntry.empty).dropPins (loftKey core n)

/-- Entries of a list that are evict-pending with pin count 0 are freed (R84). -/
def State.reapList (s : State) (core : Nat) : List (Nat × LoftEntry) → State
  | [] => s
  | (n, e) :: r =>
    (if e.st = .evictPending ∧ s.pinCount core n e = 0 then s.freeEntry core n else s).reapList core r

/-- Free what has lost its last pin on a core (R84). -/
def State.reapLoft (s : State) (core : Nat) : State :=
  if s.loft.any fun e => e.2.st == .evictPending then s.reapList core (s.loftOf core) else s

/-- The entry that holds a key (R78). -/
def State.findKey (s : State) (core tenant hash : Nat) : Option (Nat × LoftEntry) :=
  (s.loftOf core).find? fun e => e.2.st != .absent && e.2.tenant == tenant && e.2.hash == hash

/-- Token of an entry (R77). -/
def tokenOf (n : Nat) (e : LoftEntry) : Nat := n * 256 + e.gen

/-- The entry a token names for a tenant, unless it is invalid (R77, R337). -/
def State.tokEntry (s : State) (core tenant tok : Nat) : Option (Nat × LoftEntry) :=
  if tok % 256 = 0 then none
  else (s.loftOf core).find? fun e =>
    e.1 == tok / 256 && e.2.st != .absent && e.2.tenant == tenant && e.2.gen == tok % 256

/-- Slots a tenant uses on a core. -/
def State.slotsUsed (s : State) (core tenant : Nat) : Nat :=
  ((s.loftOf core).map fun e => if e.2.tenant = tenant ∧ e.2.st ≠ .absent then e.2.slots else 0).sum

/-- Loft quota of a tenant on a core (R371). -/
def State.quotaOf (s : State) (core tenant : Nat) : Nat :=
  (s.die (coreDie core)).loftQuota (core % 48) tenant

/-- Put an entry in order of its last entry by CALLO, oldest first; of those no CALLO has entered, the lowest-numbered
entry comes first. (DESIGN CHOICE, log 39) -/
def insertByCall (e : Nat × LoftEntry) : List (Nat × LoftEntry) → List (Nat × LoftEntry)
  | [] => [e]
  | x :: r => if e.2.lastCall < x.2.lastCall then e :: x :: r else x :: insertByCall e r

/-- What R80 may evict, in its order; `keep` holds the hashes of overlays that a reload still needs (R89). -/
def State.evictable (s : State) (core tenant : Nat) (keep : List Nat) : List (Nat × LoftEntry) :=
  ((s.loftOf core).filter fun e => e.2.tenant == tenant && e.2.st == .resident && s.pinCount core e.1 e.2 == 0 &&
    !keep.contains e.2.hash).foldl (fun a e => insertByCall e a) []

/-- Evict from a list until `need` more slots are free. -/
def State.evictFor (s : State) (core need : Nat) : List (Nat × LoftEntry) → State
  | [] => s
  | (n, e) :: r => if need = 0 then s else (s.freeEntry core n).evictFor core (need - e.slots) r

/-- Slots in use on a core. -/
def State.slotsOn (s : State) (core : Nat) : Nat :=
  ((s.loftOf core).map fun e => if e.2.st ≠ .absent then e.2.slots else 0).sum

/-- Make room for `slots` under a tenant's quota and within the core's 256 slots (R13, R80): none where even eviction of the
tenant's own does not. While another tenant still exceeds a quota that has shrunk, the core's slots can be the bound.
(DEDUCED, log 39) -/
def State.makeRoom (s : State) (core tenant slots : Nat) (keep : List Nat) : Option State :=
  let quota := s.quotaOf core tenant
  let used := s.slotsUsed core tenant
  if used + slots ≤ quota ∧ s.slotsOn core + slots ≤ 256 then some s
  else
    let es := s.evictable core tenant keep
    let need := max (used + slots - quota) (s.slotsOn core + slots - 256)
    if need ≤ (es.map (·.2.slots)).sum then some (s.evictFor core need es) else none

/-- The lowest-numbered absent entry of a core (R336): there is one while a slot is free, since an entry in use holds one at
least (R13, R74). -/
def State.freeNumber (s : State) (core : Nat) : Nat :=
  ((List.range 256).find? fun n =>
    match smGet s.loft (loftKey core n) with
    | none => true
    | some e => e.st == .absent).getD 0

/-- The generation after a generation (R77). -/
def nextGen (g : Nat) : Nat := if g = 255 then 1 else g + 1

/-- Slots of an overlay (R74). -/
abbrev DirEntry.slots (d : DirEntry) : Nat := (d.size + 4095) / 4096

/-- Begin to load an overlay of a grid into the lowest absent entry (R78, R336); an entry's first residency after reset
has generation 1. (DESIGN CHOICE, log 39) -/
def State.startLoad (s : State) (core tenant gid ovx : Nat) (d : DirEntry) (base : List Nat)
    (ws : List LoftWaiter) (due : Option (Nat × Nat × Nat × List Nat)) (clk : SMap Nat) : Nat × State :=
  let n := s.freeNumber core
  let g := nextGen (((smGet s.loft (loftKey core n)).map (·.gen)).getD 0)
  let e : LoftEntry :=
    { tenant := tenant, hash := d.hash, ovx := ovx, gen := g, st := .loading, grid := gid
      cont := ((smGet s.grids gid).map (·.packet.cont)).getD 0, dirE := d, words := []
      entries := [], safe := [], slots := d.slots, lastCall := 0, evictMark := false, base := base
      waiters := ws, forced := false, due := due, deadSince := none, clk := clk }
  (tokenOf n e, { s with loft := smSet s.loft (loftKey core n) e })

/-- The little-endian number of `n` bytes at an offset of a list. -/
def numAt (bs : List Byte) (off n : Nat) : Nat := leNat ((bs.drop off).take n)

/-- The records of the safe-point table at `a` that name an overlay: byte offset and length of each run (R92, R93). -/
def State.safeRuns (s : State) (die tenant a ovx : Nat) : Option (List (Nat × Nat)) := do
  let h ← s.vaBytes die tenant 0 a 8
  let bs ← s.vaBytes die tenant 0 (a + 8) (8 * numAt h 0 4)
  let runs := (List.range (numAt h 0 4)).map fun i => (numAt bs (8 * i) 4, numAt bs (8 * i + 4) 2)
  pure ((runs.filter fun r => r.1 / 2 ^ 24 == ovx).map fun r => (r.1 % 2 ^ 24, r.2))

/-- What a load reads of main memory as one operation: its image, entry table first, and its safe-point runs; none where
a read faults (R78, R92, R93). -/
def State.readOverlay (s : State) (die : Nat) (e : LoftEntry) : Option (List Byte × List (Nat × Nat)) := do
  let bs ← s.vaBytes die e.tenant 0 (e.cont + e.dirE.image) (4 * e.dirE.count + e.dirE.size)
  let table ← s.vaBytes die e.tenant 0 (e.cont + 24) 8
  let runs ← s.safeRuns die e.tenant (e.cont + numAt table 0 8) e.ovx
  pure (bs, runs)

/-- What an OVLD comes after is over (R185). -/
def State.overlayDue (s : State) (e : LoftEntry) : Bool :=
  (e.due.map fun x => s.mayBegin x.1 x.2.1 x.2.2.1 x.2.2.2).getD true

/-- The ranges that a load reads: its image, the place of the safe-point table, its head, and its records. -/
def State.overlayReads (s : State) (die : Nat) (e : LoftEntry) : List (Nat × Nat) :=
  [(e.cont + e.dirE.image, 4 * e.dirE.count + e.dirE.size), (e.cont + 24, 8)] ++
  (match s.vaBytes die e.tenant 0 (e.cont + 24) 8 with
    | none => []
    | some p =>
      let a := e.cont + numAt p 0 8
      (a, 8) :: (match s.vaBytes die e.tenant 0 a 8 with
        | none => []
        | some h => [(a + 8, 8 * numAt h 0 4)]))

/-- A load has to wait: for what its OVLD comes after (R185), for a read that goes unanswered (R392), or for a range that it
cannot read now. -/
def State.overlayHeld (s : State) (die : Nat) (e : LoftEntry) : Bool :=
  !s.overlayDue e || e.deadSince.isSome || (s.overlayReads die e).any fun r => s.rangeHeld die e.tenant 0 r.1 r.2

/-- The lines of a load's reads that go unanswered (R162, R392). -/
def State.overlayDead (s : State) (die : Nat) (e : LoftEntry) : List (Nat × Nat × Nat) :=
  if s.anyDead && e.st == .loading && !e.forced && s.overlayDue e then s.deadIn die e.tenant (s.overlayReads die e) else []

/-- A loaded image with what its load found (R78, R79). -/
structure Loaded where
  words : List Nat
  entries : List Nat
  safe : List (Nat × Nat)
  deriving DecidableEq, Repr

/-- How a load ends: its image, or its status (R78, R79). -/
def State.loadImage (s : State) (core : Nat) (e : LoftEntry) : Nat ⊕ Loaded :=
  if e.forced then .inl 4
  else
    match s.readOverlay (coreDie core) e with
    | none => .inl 3
    | some (bs, runs) =>
      let n := e.dirE.count
      if sha256Nat bs = e.dirE.hash then .inr ⟨leWords 4 (e.dirE.size / 4) (bs.drop (4 * n)), leWords 4 n bs, runs⟩
      else .inl 2

/-- A waiter learns how a load ended: OVLD its status, OVPIN status 0 or 6 with its pin (R337), a
swapped-out block the overlay-integrity fault (R89). -/
def State.wakeLoad (s : State) (key st : Nat) (x : LoftWaiter) : State :=
  if x.reload then
    if st = 2 ∨ st = 3 then
      let h : Held := { Held.zero with cause := 0x3C, reason := st, wid := 0xFFFF }
      let s := s.modBlock x.blk fun b => { b with held := b.held ++ [h] }
      match s.block? x.blk with
      | some b => s.record (heldRecord b h)
      | none => s
    else s
  else if x.pin then
    if st = 0 then
      (s.modBlock x.blk fun b => { b with pins := smSet b.pins key ((smGet b.pins key).getD 0 + 1) }).complete
        x.blk x.wid x.op 0
    else s.complete x.blk x.wid x.op 6
  else s.complete x.blk x.wid x.op st

/-- What stands before a load stands behind the flag of the instruction that began it, and what its reads learn (R185). -/
def State.loadHeard (s : State) (core : Nat) (e : LoftEntry) : Orders :=
  match e.waiters with
  | [] => s.order
  | x :: _ =>
    let d := coreDie core
    let got := (s.overlayReads d e).foldl (fun c r => joinClk c (s.order.handed (s.vaKeys d e.tenant 0 r.1 r.2))) e.clk
    s.order.owe (warpParty x.blk x.wid) x.flag (if x.reload then [] else got)

/-- Every waiter of a load learns how it ended. -/
def State.wakeAll (s : State) (key st : Nat) : List LoftWaiter → State
  | [] => s
  | x :: r => (s.wakeLoad key st x).wakeAll key st r

/-- A load completes (R78, R84, R337). -/
def State.loadDone (s : State) (core n : Nat) : State :=
  match smGet s.loft (loftKey core n) with
  | none => s
  | some e =>
    if e.st ≠ .loading ∨ (e.forced = false ∧ s.overlayHeld (coreDie core) e = true) then s
    else
      let s : State := { s with order := s.loadHeard core e }
      match s.loadImage core e with
      | .inl st => (s.freeEntry core n).wakeAll (loftKey core n) st e.waiters
      | .inr x =>
        let e' := { e with st := .resident, words := x.words, entries := x.entries, safe := x.safe, waiters := [] }
        let s1 := ({ s with loft := smSet s.loft (loftKey core n) e' } : State).wakeAll (loftKey core n) 0 e.waiters
        if !e.evictMark then s1
        else if s1.pinCount core n e' = 0 then s1.freeEntry core n
        else s1.modLoft core n fun x => { x with st := .evictPending, evictMark := false }

/-- The directory entries of the overlays that a block needs on a core and that are not there (R89): the base overlay and
those its lanes are in, each hash once. -/
def State.missing (s : State) (core : Nat) (b : Block) (g : Grid) (os : List Nat) : List DirEntry :=
  ((os.filterMap (g.dir[·]?)).filter fun d => (s.findKey core b.tenant d.hash).isNone).foldl
    (fun a d => if a.any (·.hash == d.hash) then a else a ++ [d]) []

/-- The overlays that a block's lanes are in (R89). -/
def Block.overlays (b : Block) : List Nat :=
  (b.warps.flatMap fun w => (w.2.lanes.filter (·.live)).flatMap (·.overlays)).eraseDups

end Sys2Proof.Machine
end

