-- ==== Sys2Proof/Machine/LaunchOps.lean ====
section
/-! DEFINITION. Launch packets and AGX containers, their checks, and what an accepted grid is (R22 to R32,
R90, R92, R93, R373 to R376, R417). -/

namespace Sys2Proof.Machine

/-- A launch packet by its bytes (R373). -/
def parsePacket (bs : List Byte) : Packet :=
  let f := numAt bs 23 1
  { cont := numAt bs 0 8, gx := numAt bs 8 4, gy := numAt bs 12 4, gz := numAt bs 16 4
    t := numAt bs 20 2, wc := numAt bs 22 1, pol := f % 2, roles := bit f 1, plane := bit f 2
    nc := numAt bs 24 1, nm := numAt bs 25 1, ne := numAt bs 26 1
    vp := numAt bs 28 1, vc := numAt bs 29 1, vm := numAt bs 30 1, ve := numAt bs 31 1
    ub := numAt bs 32 2, shk := numAt bs 34 2, acc := numAt bs 36 1, z := numAt bs 37 1
    spl := numAt bs 38 1, e := numAt bs 39 1, prio := numAt bs 40 1 % 8, chunk := numAt bs 41 1
    diem := numAt bs 42 1 % 16, gran := numAt bs 44 4, seed := numAt bs 48 8, cnta := numAt bs 56 8
    waita := numAt bs 64 8, waitv := numAt bs 72 8, reta := numAt bs 80 8, retv := numAt bs 88 8
    csa := numAt bs 96 8, cslen := numAt bs 104 4
    args := leWords 4 56 (bs.drop 128) }

/-- Every reserved field of a packet is zero (R373). -/
def packetReserved (bs : List Byte) : Bool :=
  numAt bs 23 1 / 8 == 0 && numAt bs 27 1 == 0 && numAt bs 40 1 / 8 == 0 && numAt bs 42 1 / 16 == 0 &&
  numAt bs 43 1 == 0 && numAt bs 108 20 == 0 && numAt bs 352 32 == 0

/-- Warps of a block (R15). -/
def Packet.warps (p : Packet) : Nat := (p.t + p.width - 1) / p.width

/-- Role of a warp (R22). -/
def Packet.role (p : Packet) (w : Nat) : Nat :=
  if !p.roles then 0 else if w < p.nc then 1 else if w < p.nc + p.nm then 2 else 3

/-- Vector budget of a role (R22). -/
def Packet.budget (p : Packet) (role : Nat) : Nat :=
  match role with
  | 0 => p.vp
  | 1 => p.vc
  | 2 => p.vm
  | _ => p.ve

/-- A vector budget lies within its limits: present or zero (R373). -/
def budgetLimits (present : Bool) (v : Nat) : Bool :=
  if present then decide (8 ≤ v) && decide (v ≤ 128) && v % 8 == 0 else v == 0

/-- The limits of reason 0x04 (R375), with W = 16 under its feature bit (R417). -/
def Packet.limits (p : Packet) (word : Nat) : Bool :=
  decide (1 ≤ p.t) && decide (p.t ≤ 3072) && decide (p.wc ≤ 2) && (p.wc != 0 || bit word 3) &&
  budgetLimits (!p.roles) p.vp && budgetLimits (p.roles && p.nc != 0) p.vc &&
  budgetLimits (p.roles && p.nm != 0) p.vm && budgetLimits (p.roles && p.ne != 0) p.ve &&
  decide (64 ≤ p.ub) && decide (p.ub ≤ 1024) && p.ub % 64 == 0 && decide (p.shk ≤ 512) &&
  decide (p.acc ≤ 192) && decide (p.z ≤ 8) && decide (p.spl ≤ 64) && decide (1 ≤ p.chunk) &&
  decide (p.chunk ≤ 16) && p.gran % 4096 == 0 && decide (p.cslen ≤ p.gran)

/-- The role counts keep R22 and R23. -/
def Packet.rolesOk (p : Packet) : Bool :=
  if p.roles then p.nc + p.nm + p.ne == p.warps && p.nc != 0 else p.nc == 0 && p.nm == 0 && p.ne == 0

/-- The most free unit of a list: the lowest-numbered on a tie (R20). -/
def mostFree : List Nat → Nat
  | [] => 0
  | x :: r =>
    let j := mostFree r
    if r.getD j 0 ≤ x then 0 else if r = [] then 0 else j + 1

/-- Place warps one after another, each in the most free unit (R20): the units and the words left. -/
def placeAll (words : Nat → Nat) : List Nat → List Nat → Option (List (Nat × Nat) × List Nat)
  | [], free => some ([], free)
  | w :: ws, free =>
    let u := mostFree free
    if free.getD u 0 < words w then none
    else
      match placeAll words ws (listMod free u (· - words w)) with
      | none => none
      | some (r, f) => some ((w, u) :: r, f)

/-- The units of an empty core: six partitions, or twelve halves at W = 16 (R19). -/
def Packet.unitsOf (p : Packet) : List Nat := if p.wc = 0 then List.replicate 12 16384 else List.replicate 6 32768

/-- Register words of a warp (R19). -/
def Packet.wordsOf (p : Packet) (w : Nat) : Nat := p.width * p.budget (p.role w)

/-- Threads of a run of warps. -/
def Packet.threadsOf (p : Packet) (lo hi : Nat) : Nat := min (hi * p.width) p.t - min (lo * p.width) p.t

/-- Warps `lo` to `hi − 1` fit an empty core (R20, R27). -/
def Packet.fitsEmpty (p : Packet) (lo hi : Nat) : Bool :=
  decide (p.threadsOf lo hi ≤ 2048) && decide (hi - lo ≤ 128) &&
  (placeAll p.wordsOf ((List.range (hi - lo)).map (lo + ·)) p.unitsOf).isSome

/-- E keeps R27, or E is 0 for a block that one core can hold (R375). -/
def Packet.splitOk (p : Packet) : Bool :=
  if p.e = 0 then p.fitsEmpty 0 p.warps
  else decide (p.e < p.warps) && (!p.roles || decide (p.nc + p.nm ≤ p.e))

/-- The block fits an empty core pair (R27, R28). -/
def Packet.pairOk (p : Packet) : Bool := p.e == 0 || (p.fitsEmpty 0 p.e && p.fitsEmpty p.e p.warps)

/-- What the controller reads of a container (R92). -/
structure Container where
  head : List Byte
  dirBytes : List (List Byte)
  safe : List (List Byte)
  live : List (List Byte)
  /-- record counts and sizes of the two tables -/
  heads : List (Nat × Nat)
  images : List (List Nat)
  deriving DecidableEq, Repr

/-- Split bytes into pieces of `n`. -/
def pieces (n : Nat) : Nat → List Byte → List (List Byte)
  | 0, _ => []
  | k + 1, bs => bs.take n :: pieces n k (bs.drop n)

/-- Read a table of `n` records of `size` bytes. -/
def State.readTable (s : State) (d tenant base : Nat) (size : Nat) : Option (Nat × Nat × List (List Byte)) := do
  let h ← s.vaBytes d tenant 0 base 8
  let n := numAt h 0 4
  let sz := numAt h 4 4
  if sz = size then
    let bs ← s.vaBytes d tenant 0 (base + 8) (n * size)
    pure (n, sz, pieces size n bs)
  else pure (n, sz, [])

/-- Read the words of each image named by directory entries. -/
def State.readImages (s : State) (d tenant cont : Nat) : List (List Byte) → Option (List (List Nat))
  | [] => some []
  | e :: r => do
    let skip := 4 * numAt e 12 2
    let size := numAt e 8 4
    let ws ←
      if size % 4096 = 0 ∧ size ≤ 262144 then
        (s.vaBytes d tenant 0 (cont + numAt e 0 8 + skip) size).map (leWords 4 (size / 4))
      else some []
    let rest ← s.readImages d tenant cont r
    pure (ws :: rest)

/-- Read a container (R92): none where a read faults. -/
def State.readContainer (s : State) (d tenant cont : Nat) : Option Container := do
  let head ← s.vaBytes d tenant 0 cont 64
  let n := min (numAt head 8 2) 256
  let dir ← s.vaBytes d tenant 0 (cont + numAt head 16 8) (48 * n)
  let ds := pieces 48 n dir
  let (sn, ss, safe) ← s.readTable d tenant (cont + numAt head 24 8) 8
  let (ln, ls, live) ← s.readTable d tenant (cont + numAt head 32 8) 24
  let images ← s.readImages d tenant cont ds
  pure { head := head, dirBytes := ds, safe := safe, live := live, heads := [(sn, ss), (ln, ls)], images := images }

/-- A directory entry (R92). -/
def parseDir (b : List Byte) : DirEntry :=
  { image := numAt b 0 8, size := numAt b 8 4, count := numAt b 12 2, hash := numAt b 16 32 }

/-- The PC where the safe bit of a position stands: the target of a hint run (R93, R224). -/
def hintTarget (ws : List Nat) : Nat → Nat → Nat
  | 0, i => i
  | n + 1, i => if 0x70 ≤ ws.getD i 0 / 2 ^ 25 ∧ ws.getD i 0 / 2 ^ 25 ≤ 0x73 then hintTarget ws n (i + 1) else i

/-- Where a clause at a header position has its safe bit. -/
def clauseSafe (ws : List Nat) (i : Nat) : Nat := hintTarget ws 16 (i + 1)

/-- A word that R90 asks to be a safe point where it stands. -/
def mustBeSafe (w : Nat) : Bool :=
  match decode w with
  | some (.waitf ..) | some (.waitl ..) | some (.waitst ..) | some (.waitstGranary ..) | some (.waitstFar ..)
  | some (.hurdleWait ..) | some (.join _) | some (.callo ..) => true
  | _ => false

/-- The target of a backward branch at position `i`, when it is one. -/
def backTarget (w i : Nat) : Option Nat :=
  let t (bits off : Nat) : Option Nat :=
    let o := signed bits off
    if o < 0 ∧ 0 ≤ (i : Int) + 1 + o then some ((i : Int) + 1 + o).toNat else none
  match decode w with
  | some (.bra off _) | some (.bru off _) | some (.call off _) => t 21 off
  | some (.loopn _ off _) => t 13 off
  | some (.reform _ off _) => t 14 off
  | _ => none

/-- The positions of an image that R90 asks to be safe: walked word by word, `left` body words to come. For the target of a
backward branch, and for the entry of the miss handler, both clause headers, it is the first instruction of the clause
or the target of its hints; CALL and REFORM count among the backward branches. (DEDUCED, log 39) -/
def needSafe (all : List Nat) : List Nat → Nat → Nat → List Nat
  | [], _, _ => []
  | w :: r, i, left =>
    if left = 0 then
      if isHeader w then
        (if bit w 2 then [clauseSafe all i] else []) ++ needSafe all r (i + 1) (field w 4 4 + 1)
      else needSafe all r (i + 1) 0
    else
      (if mustBeSafe w then [i] else []) ++
      (match backTarget w i with | some t => [clauseSafe all t] | none => []) ++ needSafe all r (i + 1) (left - 1)

/-- The PCs that must be safe points (R90): those of every image, and the entry of the miss handler. -/
def Container.needed (c : Container) : List Nat :=
  ((List.range c.images.length).flatMap fun o =>
    let ws := c.images.getD o []
    ((needSafe ws ws 0 0) ++ (if o = 0 then [clauseSafe ws (numAt c.head 10 2)] else [])).map fun i =>
      o * 2 ^ 24 + 4 * i)

/-- The safe-point runs: PC and length. -/
def Container.runs (c : Container) : List (Nat × Nat) := c.safe.map fun b => (numAt b 0 4, numAt b 4 2)

/-- Runs stand in ascending order without overlap. -/
def runsSorted : List (Nat × Nat) → Bool
  | [] => true
  | x :: r =>
    (match r with
      | [] => true
      | y :: _ => decide (x.1 + 4 * x.2 ≤ y.1)) && runsSorted r

/-- Numbers stand in strictly ascending order. -/
def rising : List Nat → Bool
  | [] => true
  | x :: r =>
    (match r with
      | [] => true
      | y :: _ => decide (x < y)) && rising r

/-- The live-mask records. -/
def Container.masks (c : Container) : List LiveMask :=
  c.live.map fun b => { pc := numAt b 0 4, vmask := numAt b 4 16, umask := numAt b 20 2 }

/-- A container passes the checks of R92, R93 and R417, and its kernel entry is an offset that a PC can name (R75). R92's list
of checks leaves some of its format out: a container with no overlay or more than 256, with an overlay of size 0 (R74 gives
4 KiB as the least, and R336 a slot to every residency), with side tables of other record sizes
than 8 and 24, or with live-mask records out of order is rejected too, and entry counts are taken as they are. (DEDUCED,
log 39) -/
def Container.ok (c : Container) (word : Nat) : Bool :=
  let n := numAt c.head 8 2
  let runs := c.runs
  let pcs := runs.flatMap fun r => (List.range r.2).map fun i => r.1 + 4 * i
  let masks := c.masks.map (·.pc)
  numAt c.head 0 4 == 0x31584741 && decide (numAt c.head 12 4 < 2 ^ 16) && decide (1 ≤ n) && decide (n ≤ 256) &&
  (numAt c.head 4 4 &&& (0xFFFFFFFF ^^^ word)) == 0 && numAt c.head 56 8 == 0 &&
  (c.dirBytes.all fun b => numAt b 14 2 == 0 && numAt b 8 4 % 4096 == 0 && decide (1 ≤ numAt b 8 4) &&
    decide (numAt b 8 4 ≤ 262144)) &&
  c.heads.map (·.2) == [8, 24] &&
  (c.safe.all fun b => numAt b 6 2 == 0) && (c.live.all fun b => numAt b 22 2 == 0) &&
  (runs.all fun r => decide (1 ≤ r.2) && r.1 % 4 == 0 && decide (r.1 / 2 ^ 24 < n) &&
    decide (r.1 % 2 ^ 24 + 4 * r.2 ≤ numAt (c.dirBytes.getD (r.1 / 2 ^ 24) []) 8 4)) &&
  runsSorted runs && rising masks &&
  (pcs.all fun p => masks.contains p) && (c.needed.all fun p => pcs.contains p)

/-- The package's supported feature word (R417). -/
def supportedWord : Nat := 0x3F

/-- The grid that launched an inbound packet. -/
def State.parentOf (s : State) (i : Inbound) : Option Grid := i.parent.bind fun p => smGet s.grids p.1

/-- The negotiated word of a launch (R417). -/
def State.wordOf (s : State) (i : Inbound) : Nat :=
  match s.parentOf i with
  | some g => g.word
  | none =>
    match i.rpc with
    | none => supportedWord
    | some (t, _) => ((s.rpcs.find? fun r => r.token == t).map (·.word)).getD supportedWord

/-- The dies that run a grid (R374, R377). -/
def launchDies (i : Inbound) (p : Packet) : List Nat :=
  if i.parent.isSome then [i.die] else (List.range 4).filter fun d => bit p.diem d

/-- A tenant has a core, or a pair, on a die (R370, R375). -/
def State.hasCore (s : State) (d tenant : Nat) (pair : Bool) : Bool :=
  (List.range 48).any fun k =>
    (s.die d).tenOwns tenant (48 * d + k) && (!pair || (k % 2 == 0 && (s.die d).tenOwns tenant (48 * d + k + 1)))

/-- PLANE may be joined (R374, R375). -/
def State.planeOk (s : State) (i : Inbound) (p : Packet) : Bool :=
  !p.plane ||
  (match s.parentOf i with
    | some g => g.joined && s.session.isSome
    | none => (s.session.map (·.tenant)) == some i.tenant)

/-- What a controller reads to judge a packet: address and length. -/
def State.launchReads (s : State) (i : Inbound) : List (Nat × Nat) :=
  let rd (a n : Nat) : List Byte := (s.vaBytes i.die i.tenant 0 a n).getD []
  let p := parsePacket (rd i.addr 384)
  let h := rd p.cont 64
  let dir := pieces 48 (min (numAt h 8 2) 256) (rd (p.cont + numAt h 16 8) (48 * min (numAt h 8 2) 256))
  let table (off size : Nat) : Nat × Nat := (p.cont + off, 8 + size * numAt (rd (p.cont + off) 8) 0 4)
  [(i.addr, 384), (p.csa, p.cslen), (p.cont, 64), (p.cont + numAt h 16 8, 48 * min (numAt h 8 2) 256),
    table (numAt h 24 8) 8, table (numAt h 32 8) 24] ++
  dir.map fun e => (p.cont + numAt e 0 8 + 4 * numAt e 12 2, min (numAt e 8 4) 262144)

/-- The lines of it that go unanswered (R162, R392). -/
def State.launchDead (s : State) (i : Inbound) : List (Nat × Nat × Nat) :=
  if s.anyDead then s.deadIn i.die i.tenant (s.launchReads i) else []

/-- Some of it cannot be reached now. -/
def State.launchHeld (s : State) (i : Inbound) : Bool :=
  (s.launchReads i).any fun r => s.rangeHeld i.die i.tenant 0 r.1 r.2

/-- What a controller makes of a packet: the reason it rejects it, or the packet and its container (R375). -/
def State.judge (s : State) (i : Inbound) : Nat ⊕ (Packet × Container) :=
  match s.vaBytes i.die i.tenant 0 i.addr 384 with
  | none => .inl 1
  | some bs =>
    let p := parsePacket bs
    match s.readContainer i.die i.tenant p.cont, s.vaBytes i.die i.tenant 0 p.csa p.cslen with
    | some c, some _ =>
      if !packetReserved bs then .inl 2
      else if p.gx = 0 ∨ p.gy = 0 ∨ p.gz = 0 ∨ 2 ^ 32 ≤ p.gx * p.gy * p.gz then .inl 3
      else if !p.limits (s.wordOf i) then .inl 4
      else if !p.rolesOk then .inl 5
      else if !p.splitOk then .inl 6
      else if !p.pairOk then .inl 7
      else if !c.ok (s.wordOf i) then .inl 8
      else if !s.planeOk i p then .inl 9
      else if 1024 ≤ s.grids.length then .inl 10
      else if (i.parent.isNone && !bit p.diem i.die) ||
          !((launchDies i p).any fun d => s.hasCore d i.tenant (p.e != 0)) then .inl 11
      else .inr (p, c)
    | _, _ => .inl 1

/-- The next %gridid of a die: its sequence number skips those of live grids (R376). -/
def State.nextGid (s : State) (d : Nat) : Nat → Nat → Nat
  | 0, q => q
  | n + 1, q => if (smGet s.grids (d * 2 ^ 30 + q)).isSome then s.nextGid d n ((q + 1) % 2 ^ 30) else q

/-- Priority of a grid (R374). -/
def State.prioOf (s : State) (i : Inbound) (p : Packet) : Nat :=
  let d := s.die i.die
  let ceil := match d.tenSlot i.tenant with | some n => d.tenPceil n | none => 0
  let m := min p.prio ceil
  match s.parentOf i with
  | some g => min m g.prio
  | none => m

/-- A controller takes an accepted packet as a grid (R374, R376). The safe words and live masks of its container are read then,
and not again when a block is swapped out (R91). (DESIGN CHOICE, log 39) -/
def State.admitGrid (s : State) (i : Inbound) (p : Packet) (c : Container) : Nat × State :=
  let q := s.nextGid i.die 1025 (s.die i.die).gridSeq
  let gid := i.die * 2 ^ 30 + q
  let g : Grid :=
    { id := gid, home := i.die, parent := i.parent
      depth := ((s.parentOf i).map (·.depth + 1)).getD 0
      prio := s.prioOf i p, tenant := i.tenant
      packet := if i.parent.isSome then { p with diem := 2 ^ i.die } else p
      miss := numAt c.head 10 2, kernel := numAt c.head 12 4
      dir := c.dirBytes.map parseDir, safe := c.runs, live := c.masks
      joined := p.plane, session := (s.parentOf i).elim (i.rpc.map (·.1)) (·.session), word := s.wordOf i, depOk := p.waita == 0, dies := []
      counter := 0, blocksEnded := 0, children := 0, skipSince := [], barring := [], deadSince := [], ended := false
      order := s.serial, hostOut := [] }
  let s := { s with serial := s.serial + 1, grids := smSet s.grids gid g }
  let s := s.modDie i.die fun d => { d with gridSeq := (q + 1) % 2 ^ 30 }
  (gid, match i.parent with
    | none => s
    | some (pg, pb) =>
      ({ s with grids := smMod s.grids pg fun x => { x with children := x.children + 1 } } : State).modBlock pb fun b =>
        { b with launched := b.launched ++ [(gid, b.launchCount)], launchCount := b.launchCount + 1 })

/-- Grids of a die that have not started on any die yet (R376). -/
def State.pendingOn (s : State) (d : Nat) : Nat :=
  (s.grids.filter fun g => g.2.home == d && g.2.dies.isEmpty && !g.2.ended).length

end Sys2Proof.Machine
end

