-- ==== Sys2Proof/Machine/CubeOps.lean ====
section
/-! DEFINITION. The cube engine: descriptors, batons, the reservation table, passes (R113 to R129, R316 to
R330, R408). -/

namespace Sys2Proof.Machine

/-! ### Formats and descriptors (R113, R116, R119) -/

/-- k-slab of a format. -/
def cubeKs (f : Nat) : Nat := if f ≤ 2 then 8 else if f = 6 ∨ f = 9 ∨ f = 10 then 32 else 16
/-- Fragment span of a format. -/
def cubeS (f : Nat) : Nat := if f ≤ 2 then 64 else 128
/-- Elements per register word. -/
def cubeE (f : Nat) : Nat := 32 / fmtWidth f
/-- The format takes block scales. -/
def cubeScaled (f : Nat) : Bool := f == 3 || f == 4 || f == 5 || f == 6
/-- The format is one of R113. -/
def cubeFmt (f : Nat) : Bool := decide (1 ≤ f) && decide (f ≤ 10)

/-- Fields of a cube descriptor (R119). -/
abbrev cM (ws : List Nat) : Nat := 32 * (field (dw ws 0) 28 3 + 1)
/-- N. -/
abbrev cN (ws : List Nat) : Nat := 32 * (field (dw ws 0) 25 3 + 1)
/-- First tile of D. -/
abbrev cAcd (ws : List Nat) : Nat := field (dw ws 0) 17 8
/-- First station. -/
abbrev cStb (ws : List Nat) : Nat := field (dw ws 0) 14 3
/-- K. -/
abbrev cK (ws : List Nat) : Nat := field (dw ws 0) 0 14
/-- SC of the descriptor. -/
abbrev cSc (ws : List Nat) : Bool := bit (dw ws 2) 23
/-- Rows of the supplied A: M, or MA for gather. -/
def cRowsA (mode : Nat) (ws : List Nat) : Nat := if mode = 4 then 32 * (field (dw ws 2) 24 3 + 1) else cM ws
/-- Rows of D: M, or MD for gather. -/
def cRowsD (mode : Nat) (ws : List Nat) : Nat := if mode = 4 then 32 * (field (dw ws 3) 19 3 + 1) else cM ws
/-- Q (R121). -/
def cQ (fmt : Nat) (ws : List Nat) : Nat := (cK ws + cubeS fmt - 1) / cubeS fmt
/-- The tiles of D (R120). -/
def cTiles (mode : Nat) (ws : List Nat) : List Nat :=
  (List.range (cRowsD mode ws / 32 * (cN ws / 32))).map (cAcd ws + ·)
/-- Stations that a plane of K by N elements takes (R116). -/
def stationsFor (fmt k n : Nat) : Nat := (k * n * fmtWidth fmt + 262143) / 262144
/-- Lanes that the table of R121 requires. -/
def cLanes (mode fmt : Nat) (ws : List Nat) : Nat :=
  let q := cQ fmt ws
  max (cRowsA mode ws * q) (if mode = 2 then cN ws * q else if mode = 3 then (q - 1) * cM ws + 1 else 0)

/-- The reserved bits of a cube descriptor are zero. -/
def cReserved (ws : List Nat) : Bool :=
  !bit (dw ws 0) 31 && field (dw ws 1) 28 4 == 0 && field (dw ws 2) 27 5 == 0 && field (dw ws 3) 22 10 == 0

/-- Registers that hold the columns of one lane. -/
def fragCount (fmt : Nat) (ws : List Nat) : Nat := (min (cK ws) (cubeS fmt) + cubeE fmt - 1) / cubeE fmt

/-- The fragment and scale registers a descriptor names (R121, R323, R124). -/
def descRegs (mode fmt : Nat) (ws : List Nat) : List Nat :=
  let n := fragCount fmt ws
  let w1 := dw ws 1
  let t := mode == 1 || mode == 2 || mode == 3
  group (field w1 0 7) n ++ (if t then group (field w1 7 7) n else []) ++
  (if cSc ws then field w1 14 7 :: (if t then [field w1 21 7] else []) else [])

/-- The registers that the lane at a position supplies (R121). -/
def posRegs (mode fmt : Nat) (ws : List Nat) (pos : Nat) : List Nat :=
  let q := cQ fmt ws
  let w1 := dw ws 1
  let cols (p rows : Nat) : Nat := min (cK ws) (p / rows * cubeS fmt + cubeS fmt) - p / rows * cubeS fmt
  let regs (b rows : Nat) : List Nat := group b ((cols pos rows + cubeE fmt - 1) / cubeE fmt)
  let a := decide (pos < cRowsA mode ws * q)
  let t := (mode == 1 && a) || (mode == 2 && decide (pos < cN ws * q)) ||
    (mode == 3 && pos % cM ws == 0 && decide (pos / cM ws < q))
  let rowsT := if mode = 2 then cN ws else cM ws
  (if a then regs (field w1 0 7) (cRowsA mode ws) ++ (if cSc ws then [field w1 14 7] else []) else []) ++
  (if t then regs (field w1 7 7) rowsT ++ (if cSc ws then [field w1 21 7] else []) else [])

/-- The shape conditions of R122 but for the signer sequence; a K of 0 or above 8,192 is a shape that no descriptor has.
(DEDUCED, log 47) -/
def cShape (mode fmt z : Nat) (ws : List Nat) : Bool :=
  let k := cK ws
  decide (1 ≤ k) && decide (k ≤ 8192) && k % cubeKs fmt == 0 &&
  (decide (k ≤ cubeS fmt) || k % cubeS fmt == 0) && (mode != 3 || decide (k ≤ 4096)) &&
  (!cSc ws || cubeScaled fmt) && decide (cStb ws + stationsFor fmt k (cN ws) ≤ z)

/-- Group operands of a recorded descriptor (R119, R125, R323). -/
def CubeDesc.key (d : CubeDesc) : List Nat :=
  let w2 := dw d.words 2
  [d.mode, d.fmt, dw d.words 0, field w2 23 1, field w2 21 2] ++
  (if d.mode = 0 then [] else if d.mode = 4 then [field w2 24 3, field w2 0 19, field (dw d.words 3) 0 22]
    else [field w2 19 2])

/-! ### Batons (R123, R125, R319) -/

/-- The lanes of a warp that are not vacant, in ascending order. -/
def Block.nonVacant (b : Block) (all : SMap Warp) (wid : Nat) : List Nat :=
  match smGet all wid with
  | some w => (w.lanes.filter (·.st != .vacant)).map (·.id)
  | none =>
    match smGet b.ended wid with
    | some m => (List.range 64).filter fun i => bit m i
    | none => []

/-- The signer sequence of a set of warps (R121). -/
def Block.signerSeq (b : Block) (all : SMap Warp) (w0 c : Nat) : List (Nat × Nat) :=
  (List.range c).flatMap fun i => (b.nonVacant all (w0 + i)).map fun l => (w0 + i, l)

/-- What the agreement check finds (R125, R319). -/
inductive Verdict where
  | nothing | agree | differ
  deriving DecidableEq, Repr

/-- The agreement check. -/
def Baton.verdict (b : Baton) : Verdict :=
  match b.descs with
  | [] => .nothing
  | d :: r => if r.all fun e => e.2.key == d.2.key then .agree else .differ

/-- The reservation table of a core. -/
def State.table (s : State) (core : Nat) : List EngineEntry := (smGet s.engines core).getD []

/-- The table has room (R129). -/
def State.tableRoom (s : State) (core : Nat) : Bool := decide ((s.table core).length < 16)

/-- The far acquires of warps of a block whose replies have not arrived, and the copies that they have waited for at a LAND
(R173, R185, R315). -/
def State.acquiresOf (s : State) (blk : Nat) (wids : List Nat) : List Nat :=
  (s.farQ.filter fun x => x.kind == 1 && x.blk == blk && wids.contains x.wid && !x.acked).map (·.id) ++
  (wids.flatMap fun w => ((s.warp? blk w).map (·.landed)).getD []).filter fun c => s.copies.any (·.id == c)

/-- Enter an operation into the table of the focused block's engine (R129); it waits for its warps' far acquires (R185). -/
def State.enter (s : State) (core blk prio : Nat) (op : EngineOp) (flags : List (Nat × Nat × Nat))
    (bad : List Nat) (clk : SMap Nat) : State :=
  let now := (s.die (coreDie core)).clock
  let e : EngineEntry :=
    { id := s.serial, blk := blk, prio := prio, op := op, flags := flags, passes := 0, lastGrant := now
      eligSince := none, starved := false, status := 0, done := false, rows := [], cols := [], bad := bad
      buf := [], after := s.serial, acq := s.acquiresOf blk (flags.map (·.1)), clk := clk }
  { s with serial := s.serial + 1, engines := smSet s.engines core (s.table core ++ [e]) }

/-- Priority of a grid. -/
def State.gridPrio (s : State) (gid : Nat) : Nat := ((smGet s.grids gid).map (·.prio)).getD 0

/-- The operation of a concluded baton (R125, R129). -/
def Baton.op (bt : Baton) (seq : List (Nat × Nat)) : EngineOp :=
  match bt.descs with
  | [] => .accZero 0
  | d :: _ => .cube d.2.mode d.2.fmt d.2.words bt.frags seq bt.descs

/-- Flags of the warps that recorded on a baton. -/
def Baton.flags (bt : Baton) : List (Nat × Nat × Nat) := bt.descs.map fun d => (d.1, d.2.flag, d.2.op)

/-- A fragment with the registers as they stand at acceptance: the engine reads none before (R325). -/
def State.refresh (s : State) (f : Fragment) : Fragment :=
  match (smGet s.blkWarps f.wid).bind fun w => w.lanes[f.lane]? with
  | some l => { f with regs := (f.regs.map (·.1)).foldl (fun m n => smSet m n (l.vraw n)) [] }
  | none => f

/-- Accept the operation of a concluded baton of the focused block; the baton is idle again. -/
def State.acceptBaton (s : State) (b : Nat) (bt0 : Baton) : State :=
  let bt := { bt0 with frags := bt0.frags.map s.refresh }
  let seq := s.blk.signerSeq s.blkWarps bt.w0 bt.c
  let s := s.enter s.blk.onCore s.blk.key (s.gridPrio s.blk.grid) (bt.op seq) bt.flags [] bt.clk
  { s with blk := { s.blk with batons := smDel s.blk.batons b } }

/-- The flags of a list clear with a status, and windows of their operations go. -/
def State.clearFlags (s : State) (blk st : Nat) : List (Nat × Nat × Nat) → State
  | [] => s
  | (w, _, op) :: r =>
    State.clearFlags ((s.complete blk w op st).modWarp blk w fun x =>
      { x with windows := x.windows.filter (·.op != op) }) blk st r

/-- A concluded baton whose operands differ is idle again, and its flags clear with 0x0031 (R125). -/
def State.discardBaton (s : State) (b : Nat) (bt : Baton) : State :=
  State.clearFlags { s with blk := { s.blk with batons := smDel s.blk.batons b } } s.blk.key 0x31 bt.flags

/-- Conclude a baton whose count an EXIT has brought to the expected count (R319). -/
def State.concludeExit (s : State) (b : Nat) (bt : Baton) : State :=
  match bt.verdict with
  | .nothing => { s with blk := { s.blk with batons := smDel s.blk.batons b } }
  | .differ => s.discardBaton b bt
  | .agree => { s with blk := { s.blk with batons := smSet s.blk.batons b { bt with agreed := true } } }

/-- Lanes of the focused warp exit: on every armed baton of their set, those that have not signed count
(R123). -/
def State.exitOn (s : State) (lanes : List Nat) : List (Nat × Baton) → State
  | [] => s
  | (b, bt) :: r =>
    let s1 :=
      if bt.agreed || !(decide (bt.w0 ≤ s.w.wid) && decide (s.w.wid < bt.w0 + bt.c)) then s
      else
        let n := (lanes.filter fun l => !bt.signed.contains (s.w.wid, l)).length
        let bt' := { bt with count := bt.count + n }
        let s1 : State := { s with blk := { s.blk with batons := smSet s.blk.batons b bt' } }
        if n ≠ 0 ∧ bt'.count = bt.expected then s1.concludeExit b bt' else s1
    s1.exitOn lanes r

/-- The value that an operation is to write into a register has not arrived. -/
def State.toCome (s : State) (p : PendReg) : Bool :=
  (s.farQ.any fun x => x.op == p.op && !x.acked && x.lanes.any fun y => y.1 == p.lane) || s.chks.any fun c => c.op == p.op

/-- The fragment a lane supplies as it stands; a register whose write is not complete, or is under its interlock, is
undefined in it (R121, R124). A register that stands in an open window of another CUBE is read as it is: an engine's read is
no read of R124's second rule. (DESIGN CHOICE, log 48) -/
def State.fragment (s : State) (d : CubeDesc) (l : Lane) : Fragment :=
  let regs := descRegs d.mode d.fmt d.words
  { wid := s.w.wid, lane := l.id, regs := regs.foldl (fun m n => smSet m n (l.vraw n)) []
    undef := regs.filter fun n => s.lockedV l.id n || s.w.pend.any fun p => p.lane == l.id && p.reg == n && s.toCome p }

/-- Lanes of the focused warp enter the window of their operation (R124). -/
def State.openWindow (s : State) (d : CubeDesc) (lanes : List Nat) : State :=
  if s.w.windows.any (·.op == d.op) then
    { s with w := { s.w with windows := s.w.windows.map fun x =>
        if x.op = d.op then { x with lanes := x.lanes ++ lanes } else x } }
  else
    { s with w := { s.w with windows := s.w.windows ++
        [⟨d.op, d.flag, descRegs d.mode d.fmt d.words, lanes, cTiles d.mode d.words⟩] } }

/-- The windows of the flags named by a mask end: the warp has waited on them (R124). -/
def Warp.closeWindows (w : Warp) (m : Nat) : Warp :=
  { w with windows := w.windows.filter fun x => !bit m x.flag }

/-- Tiles of a run that stand in a window of some warp of the block (R124, R329). -/
def State.windowTiles (s : State) (tiles : List Nat) : List Nat :=
  tiles.filter fun t => s.blkWarps.any fun w => w.2.windows.any fun x => x.tiles.contains t

/-! ### Eligibility and passes (R118, R127 to R129, R329) -/

/-- The stations an entry loads or reads. -/
def EngineOp.stations : EngineOp → List Nat
  | .load _ ws => (List.range (stationsFor (field (dw ws 3) 21 4) (field (dw ws 3) 0 14) (32 * (field (dw ws 3) 14 3 + 1)))).map
      (field (dw ws 3) 17 3 + ·)
  | .cube _ fmt ws .. => (List.range (stationsFor fmt (cK ws) (cN ws))).map (cStb ws + ·)
  | _ => []

/-- The entry loads stations. -/
def EngineOp.loads : EngineOp → Bool
  | .load .. => true
  | _ => false

/-- The tiles an entry touches. -/
def EngineOp.tiles : EngineOp → List Nat
  | .load .. => []
  | .cube mode _ ws .. => cTiles mode ws
  | .accLoad acc nt _ => (List.range nt).map (acc + ·)
  | .accStore acc nt _ => (List.range nt).map (acc + ·)
  | .accZero acc => [acc]

/-- Two lists share a member. -/
def meets (a b : List Nat) : Bool := a.any fun x => b.contains x

/-- An entry waits for an earlier one of its block. -/
def EngineEntry.waitsFor (e x : EngineEntry) : Bool :=
  x.blk == e.blk &&
  (meets x.op.tiles e.op.tiles || ((x.op.loads || e.op.loads) && meets x.op.stations e.op.stations))

/-- The stores that an entry's warps queued before it have left, and their far acquires have been answered (R185). -/
def State.mayStart (s : State) (e : EngineEntry) : Bool := e.flags.all fun f => s.mayBegin e.blk f.1 e.after e.acq

/-- Every entry with those accepted before it. -/
def withEarlier : List EngineEntry → List EngineEntry → List (EngineEntry × List EngineEntry)
  | _, [] => []
  | acc, e :: r => (e, acc) :: withEarlier (acc ++ [e]) r

/-- The eligible entries of a core, in order of acceptance (R129). -/
def State.eligible (s : State) (core : Nat) : List EngineEntry :=
  ((withEarlier [] (s.table core)).filter fun x =>
    !x.1.done && !x.2.any x.1.waitsFor && s.mayStart x.1).map (·.1)

/-- Rank of an entry: a starved entry ranks above every priority. -/
def EngineEntry.rank (e : EngineEntry) : Nat := if e.starved then 8 else e.prio

/-- The entry the arbiter grants: the highest rank, the oldest on a tie. -/
def bestEntry : List EngineEntry → Option EngineEntry
  | [] => none
  | e :: r =>
    match bestEntry r with
    | none => some e
    | some x => if e.rank < x.rank then some x else some e

/-- The bytes of a block's shared memory as an engine reads them. -/
def Block.sharedNat (b : Block) (a n : Nat) : Nat := memNat b.shared (sharedTag b.key) a n

/-- Rows and columns of a stored plane (R116). -/
def storedShape (west : Bool) (ws : List Nat) : Nat × Nat :=
  let k := field (dw ws 3) 0 14
  let n := 32 * (field (dw ws 3) 14 3 + 1)
  if west then (n, k) else (k, n)

/-- Bytes of a stored row. -/
def storedRow (west : Bool) (ws : List Nat) : Nat := (storedShape west ws).2 * fmtWidth (field (dw ws 3) 21 4) / 8

/-- Shared offset of byte `p` of a stored plane, then of its scale array. -/
def loadByteAt (west : Bool) (ws : List Nat) (p : Nat) : Nat :=
  let (rows, _) := storedShape west ws
  let rb := storedRow west ws
  if p < rows * rb then field (dw ws 0) 0 19 + p / rb * field (dw ws 2) 0 19 + p % rb
  else field (dw ws 1) 0 19 + (p - rows * rb)

/-- Bytes of the stored plane, and with its scale array. -/
def loadBytes (west : Bool) (ws : List Nat) : Nat × Nat :=
  let (rows, cols) := storedShape west ws
  let plane := rows * storedRow west ws
  (plane, plane + (if bit (dw ws 3) 20 then rows * ((cols + 31) / 32) else 0))

/-- The passes an entry takes. -/
def EngineOp.total : EngineOp → Nat
  | .load west ws => ((loadBytes west ws).2 + 127) / 128
  | .cube mode fmt ws .. => (cTiles mode ws).length * (cK ws / cubeKs fmt)
  | .accLoad _ nt _ => 32 * nt
  | .accStore _ nt _ => 32 * nt
  | .accZero _ => 1

/-- Code of B[k][j] and its scale code, from the bytes a load has moved (R116). -/
def loadCode (west : Bool) (ws : List Nat) (buf : SMap Nat) (k j : Nat) : Nat × Nat :=
  let f := field (dw ws 3) 21 4
  let (rows, cols) := storedShape west ws
  let rb := storedRow west ws
  let (r, c) := if west then (j, k) else (k, j)
  let b := (smGet buf (r * rb + c * fmtWidth f / 8)).getD 0
  let b1 := (smGet buf (r * rb + c * fmtWidth f / 8 + 1)).getD 0
  let code := if fmtWidth f = 4 then elemOf 4 (c % 2) b else if fmtWidth f = 16 then b + 256 * b1 else b
  let sc := if bit (dw ws 3) 20 then (smGet buf (rows * rb + r * ((cols + 31) / 32) + c / 32)).getD 0 else 127
  (code % 2 ^ fmtBits f, sc)

/-- The stations a finished load leaves: the codes and scales stand in the first (R116). -/
def stationsOf (id : Nat) (west : Bool) (ws : List Nat) (buf : SMap Nat) : List (Nat × Station) :=
  let w3 := dw ws 3
  let f := field w3 21 4
  let k := field w3 0 14
  let n := 32 * (field w3 14 3 + 1)
  let idx := (List.range (k * n)).map fun x => (x, loadCode west ws buf (x / n) (x % n))
  (List.range (stationsFor f k n)).map fun i =>
    (field w3 17 3 + i,
      { load := id, place := i, fmt := f, k := k, n := n
        codes := if i = 0 then idx.map fun x => (x.1, x.2.1) else []
        scales := if i = 0 then idx.map fun x => (x.1, x.2.2) else [] })

/-- Set several keys. -/
def smSets {α : Type} (m : SMap α) (xs : List (Nat × α)) : SMap α := xs.foldl (fun m x => smSet m x.1 x.2) m

/-- The stations of a CUBE hold a plane of its format, K and N (R126). -/
def Block.stationsOk (b : Block) (fmt : Nat) (ws : List Nat) : Bool :=
  (EngineOp.stations (.cube 0 fmt ws [] [] [])).all fun i =>
    match smGet b.stations i with
    | some x => x.fmt == fmt && x.k == cK ws && x.n == cN ws
    | none => false

/-- The stations of a CUBE hold one load in order. Where they hold parts of different loads of one FMT, K and N, the manual gives
no values: D is undefined, and the status is 0. (DESIGN CHOICE, log 48) -/
def Block.oneLoad (b : Block) (fmt : Nat) (ws : List Nat) : Bool :=
  match smGet b.stations (cStb ws) with
  | none => false
  | some x0 => (List.range (stationsFor fmt (cK ws) (cN ws))).all fun i =>
      match smGet b.stations (cStb ws + i) with
      | some x => x.load == x0.load && x.place == i
      | none => false

/-- An element of a fragment: its code and its scale code; none where it is undefined (R121, R124). -/
def fragElem (fmt : Nat) (frags : List Fragment) (seq : List (Nat × Nat)) (descs : SMap CubeDesc)
    (pos k base scale bsel : Nat) (sc : Bool) : Option (Nat × Nat) := do
  let (wid, lane) ← seq[pos]?
  let f ← frags.find? fun x => x.wid == wid && x.lane == lane
  let d ← smGet descs wid
  let w1 := dw d.words 1
  let o := k % cubeS fmt
  let r := field w1 base 7 + o / cubeE fmt
  let rs := field w1 scale 7
  if f.undef.contains r || (sc && f.undef.contains rs) then none
  else
    let x := ((smGet f.regs r).getD 0).toNat
    let c := if sc then elemOf 8 ((bsel + k / 32) % 4) ((smGet f.regs rs).getD 0).toNat else 127
    pure (elemOf (fmtWidth fmt) (o % cubeE fmt) x % 2 ^ fmtBits fmt, c)

/-- The value of a scaled element. -/
def cubeVal (fmt : Nat) (x : Nat × Nat) : XR := XR.scale (decodeFmt fmt x.1) x.2

/-- An integer code as a number. -/
def intCode (f c : Nat) : Int := if fmtSigned f then signed (fmtBits f) c else ((c % 2 ^ fmtBits f : Nat) : Int)

/-- Add one slab of terms to an element of D (R127): each term is its factors. -/
def addSlab (fmt : Nat) (d : Word) (terms : List (List (Nat × Nat))) : Word :=
  if fmtInt fmt then
    let x := (terms.map fun t => (t.map fun f => intCode fmt f.1).foldl (· * ·) 1).sum
    w32i (saturate (signed 32 d.toNat + x) 14)
  else
    let p := r32 (XR.sum (terms.map fun t =>
      match t with
      | [] => .num false 0 0
      | f :: r => r.foldl (fun a x => XR.mul a (cubeVal fmt x)) (cubeVal fmt f)))
    r32 (XR.add false (f32 d) (f32 p))

/-- The factors of Term(i, j, k), A's row being `i` (R114, R127); none where one is undefined. -/
def cubeTerm (mode fmt : Nat) (ws : List Nat) (frags : List Fragment) (seq : List (Nat × Nat))
    (descs : SMap CubeDesc) (st : Station) (i j k : Nat) : Option (List (Nat × Nat)) := do
  let sc := cSc ws
  let q := k / cubeS fmt
  let ra := cRowsA mode ws
  let a ← fragElem fmt frags seq descs (q * ra + i) k 0 14 (field (dw ws 2) 21 2) sc
  let idx := k * st.n + j
  let b := ((smGet st.codes idx).getD 0, (smGet st.scales idx).getD 127)
  if mode = 1 then
    let t ← fragElem fmt frags seq descs (q * ra + i) k 7 21 (field (dw ws 2) 19 2) sc
    pure [a, b, t]
  else if mode = 2 then
    let t ← fragElem fmt frags seq descs (q * cN ws + j) k 7 21 (field (dw ws 2) 19 2) sc
    pure [a, b, t]
  else if mode = 3 then
    let t ← fragElem fmt frags seq descs (q * cM ws) k 7 21 (field (dw ws 2) 19 2) sc
    pure [a, b, t]
  else pure [a, b]

/-- Every member, or none. -/
def allSome {α : Type} : List (Option α) → Option (List α)
  | [] => some []
  | none :: _ => none
  | some x :: r => (allSome r).map (x :: ·)

/-- Key of D[i][j] in the tiles of the block (R120). -/
def dKey (ws : List Nat) (i j : Nat) : Nat := 1024 * (cAcd ws + i / 32 * (cN ws / 32) + j / 32) + i % 32 * 32 + j % 32

/-- Some of the first `n` terms of D's column `j` from A's row `i` is undefined (R124). -/
def termsGone (mode fmt : Nat) (ws : List Nat) (frags : List Fragment) (seq : List (Nat × Nat)) (descs : SMap CubeDesc)
    (st : Station) (i j n : Nat) : Bool :=
  (List.range n).any fun k => (cubeTerm mode fmt ws frags seq descs st i j k).isNone

/-- Add slab `sl` of A's row `i` to D[h][j]; `u` is its value where a term of it, or of what was added to it before, is
undefined: it stays undefined to the operation's end (R124). Of other rows of A, `rows` were added to it whole. -/
def Block.slabInto (b : Block) (mode fmt : Nat) (ws : List Nat) (frags : List Fragment) (seq : List (Nat × Nat))
    (descs : SMap CubeDesc) (st : Station) (u : Nat → Word) (rows : List Nat) (i h j sl : Nat) : Block :=
  let ks := cubeKs fmt
  let key := dKey ws h j
  let old := (smGet b.tiles key).getD 0
  let gone (i n : Nat) : Bool := termsGone mode fmt ws frags seq descs st i j n
  let new := match allSome ((List.range ks).map fun k => cubeTerm mode fmt ws frags seq descs st i j (sl * ks + k)) with
    | some terms => if gone i (sl * ks) || rows.any (gone · (cK ws)) then u key else addSlab fmt old terms
    | none => u key
  { b with tiles := smSet b.tiles key new }

/-- One pass of a CUBE over tile number `ti` and slab `sl` (R127 to R129): for gather, the rows that fall
into the tile are taken in ascending i, all slabs each, in the tile's last pass. -/
def Block.cubePass (b : Block) (mode fmt : Nat) (ws : List Nat) (frags : List Fragment) (seq : List (Nat × Nat))
    (descs : SMap CubeDesc) (st : Station) (u : Nat → Word) (rows cols : List Nat) (ti sl : Nat) : Block :=
  let nt := cN ws / 32
  let slabs := cK ws / cubeKs fmt
  let js := (List.range 32).map (ti % nt * 32 + ·)
  if mode ≠ 4 then
    (List.range 32).foldl (fun b i => js.foldl (fun b j =>
      b.slabInto mode fmt ws frags seq descs st u [] (ti / nt * 32 + i) (ti / nt * 32 + i) j sl) b) b
  else if sl + 1 ≠ slabs then b
  else
    let pairs := rows.zip cols
    pairs.zipIdx.foldl (fun b x =>
      let gh := x.1
      if gh.1 < cRowsA mode ws ∧ gh.2 < cRowsD mode ws ∧ gh.2 / 32 = ti / nt then
        let before := ((pairs.take x.2).filter fun y => y.2 == gh.2 && decide (y.1 < cRowsA mode ws)).map (·.1)
        (List.range slabs).foldl (fun b sl => js.foldl (fun b j =>
          b.slabInto mode fmt ws frags seq descs st u before gh.1 gh.2 j sl) b) b
      else b) b

/-- Words of an accumulator pass: tile word numbers by word of the run. -/
def accWords (pass : Nat) : List Nat := (List.range 32).map (32 * pass + ·)

/-- One pass of an entry on its block (R129): the entry and the block after it. `broken` says whether a shared byte has
an uncorrectable error (R321, R328). -/
def EngineEntry.pass (e : EngineEntry) (b : Block) (u : Nat → Word) (broken : Nat → Bool) : EngineEntry × Block :=
  let n := e.passes + 1
  let e' := { e with passes := n, done := decide (e.op.total ≤ n) }
  match e.op with
  | .load west ws =>
    let (_, total) := loadBytes west ws
    let ps := ((List.range 128).map (128 * e.passes + ·)).filter (· < total)
    let buf := smSets e.buf (ps.map fun p => (p, b.sharedNat (loadByteAt west ws p) 1))
    let st := if ps.any fun p => broken (loadByteAt west ws p) then 0x13 else e.status
    if total ≤ 128 * n then
      ({ e with passes := n, done := true, buf := [], status := st },
        { b with stations :=
            if st = 0 then smSets b.stations (stationsOf e.id west ws buf) else e.op.stations.foldl smDel b.stations })
    else ({ e with passes := n, buf := buf, status := st }, b)
  | .cube mode fmt ws frags seq descs =>
    let slabs := cK ws / cubeKs fmt
    if e.passes = 0 ∧ !b.stationsOk fmt ws then ({ e with passes := n, done := true, status := 0x33 }, b)
    else
      let e' :=
        if e.passes = 0 ∧ mode = 4 then
          let list (o : Nat) : List Nat := (List.range (cM ws)).map fun i => b.sharedNat (o + 2 * i) 2
          let g := list (field (dw ws 2) 0 19)
          let h := list (field (dw ws 3) 0 19)
          let out := (g.zip h).any fun x => decide (cRowsA mode ws ≤ x.1) || decide (cRowsD mode ws ≤ x.2)
          { e' with rows := g, cols := h, status := if out then 0x32 else 0 }
        else e'
      match smGet b.stations (cStb ws) with
      | none => (e', b)
      | some st =>
        let b1 := b.cubePass mode fmt ws frags seq descs st u e'.rows e'.cols (e.passes / slabs) (e.passes % slabs)
        (e', if e'.done && !b.oneLoad fmt ws then b1.undefTiles (cTiles mode ws) u else b1)
  | .accLoad acc _ off =>
    let st := if (List.range 128).any fun i => broken (off + 128 * e.passes + i) then 0x13 else e.status
    let b1 : Block := { b with tiles := smSets b.tiles ((accWords e.passes).map fun w =>
      let t := acc + w / 1024
      (1024 * t + w % 1024, if e.bad.contains t then u w else w32 (b.sharedNat (off + 4 * w) 4))) }
    ({ e' with status := st }, if e'.done && st != 0 then b1.undefTiles e.op.tiles u else b1)
  | .accStore acc _ off =>
    let tile (w : Nat) : Nat := acc + w / 1024
    let ws := accWords e.passes
    (e', { b with
      shared := memWrite b.shared (off + 128 * e.passes) (ws.flatMap fun w =>
        leBytes 4 (if e.bad.contains (tile w) then u (2 ^ 18 + w) else (smGet b.tiles (1024 * tile w + w % 1024)).getD 0).toNat)
      tiles := smSets b.tiles ((ws.filter fun w => e.bad.contains (tile w)).map fun w =>
        (1024 * tile w + w % 1024, u (1024 * tile w + w % 1024))) })
  | .accZero acc =>
    (e', if e.bad.contains acc then b.undefTiles [acc] u
      else { b with tiles := smSets b.tiles ((List.range 1024).map fun w => (1024 * acc + w, 0)) })

/-- Change an entry of a core's table. -/
def State.modEntry (s : State) (core id : Nat) (f : EngineEntry → EngineEntry) : State :=
  { s with engines := smSet s.engines core ((s.table core).map fun e => if e.id = id then f e else e) }

/-- The bytes of shared memory that the next pass of an entry reads, and those it writes. -/
def EngineEntry.touches (e : EngineEntry) : List Nat × List Nat :=
  let run (off : Nat) : List Nat := (List.range 128).map (off + 128 * e.passes + ·)
  match e.op with
  | .load west ws => ((run 0).filterMap fun p => if p < (loadBytes west ws).2 then some (loadByteAt west ws p) else none, [])
  | .cube mode _ ws .. =>
    let list (o : Nat) : List Nat := (List.range (2 * cM ws)).map (o + ·)
    (if e.passes = 0 ∧ mode = 4 then list (field (dw ws 2) 0 19) ++ list (field (dw ws 3) 0 19) else [], [])
  | .accLoad _ _ off => (run off, [])
  | .accStore _ _ off => ([], run off)
  | .accZero _ => ([], [])

/-- Change a block, in focus or not, with what the change answers. -/
def State.passOn (s : State) (core : Nat) (e : EngineEntry) : State :=
  match s.block? e.blk with
  | none => s.modEntry core e.id fun x => { x with done := true }
  | some b =>
    let clk := (s.die (coreDie core)).clock
    let (e', b') := e.pass b (fun k => s.undef k) fun a => s.badChip.contains (sharedTag b.key, a)
    let keys (as : List Nat) : List Nat := as.map (byteKey (sharedTag b.key))
    let c := joinClk e.clk (s.order.handed (keys e.touches.1))
    (({ s with order := s.order.give (keys e.touches.2) c }.modBlock e.blk fun _ => b').modEntry core e.id fun _ =>
      { e' with lastGrant := clk, eligSince := some clk, starved := false, clk := c }).bump

/-- A finished entry leaves the table and its flags clear (R126, R321, R328); what waits for it, and a wait on its flags, comes
after its accesses (R185); a spoiled CUBE leaves its D undefined (R124). -/
def State.completeEntry (s : State) (core : Nat) (e : EngineEntry) : State :=
  let rest := (s.table core).filter (·.id != e.id)
  let s := { s with
    engines := smSet s.engines core (rest.map fun (x : EngineEntry) => if x.waitsFor e then { x with clk := joinClk x.clk e.clk } else x)
    order := e.flags.foldl (fun (o : Orders) (f : Nat × Nat × Nat) => o.owe (warpParty e.blk f.1) f.2.1 e.clk) s.order }
  let s := e.flags.foldl (fun s f => s.complete e.blk f.1 f.2.2 e.status) s
  let s := s.modBlock e.blk fun b =>
    if e.flags.any fun f => b.spoiled.contains f.2.2 then
      { (b.undefTiles e.op.tiles fun k => s.undef k) with
        spoiled := b.spoiled.filter fun o => !e.flags.any fun f => f.2.2 == o }
    else b
  s.bump

/-! ### Engine reset (R408) -/

/-- A busy flag that a cube-family instruction has marked clears with 0x0034, whatever else has marked it, and a wait on a
flag so marked will raise trap 0x34. -/
def Flag.resetCube (f : Flag) : Flag :=
  let g := if f.cube then { f with lost := true } else f
  if f.ops.any (·.cube) then { g with ops := [], status := 0x34 } else g

/-- The flags of a warp after a reset of its engine; no window of R124 is left. -/
def Warp.resetCube (w : Warp) : Warp := { w with windows := [], flags := w.flags.map fun e => (e.1, e.2.resetCube) }

/-- What an engine reset does to a block (R408). -/
def Block.resetCube (b : Block) (acc z : Nat) (u : Nat → Word) (cut : List (Nat × Nat)) : Block :=
  let b1 := b.undefTiles (List.range acc) u
  { b1 with
    stations := smCut b1.stations 0 z
    batons := []
    spoiled := []
    warps := b1.warps.map fun w => (w.1, w.2.resetCube)
    accLost := true
    shared := cut.foldl (fun m c => memWrite m c.1 (leBytes c.2 (u c.1).toNat)) b1.shared }

/-- The shared words an unfinished ACCST was writing. -/
def EngineEntry.cut (e : EngineEntry) : List (Nat × Nat) :=
  match e.op with
  | .accStore _ nt off => if e.done then [] else (List.range (1024 * nt)).map fun w => (off + 4 * w, 4)
  | _ => []

/-- A block runs on a core: its own, or the second of its pair (R27). -/
def State.runsOn (s : State) (b : Block) (core : Nat) : Bool :=
  match b.core with
  | none => false
  | some c => c == core || ((s.pktOf b).e != 0 && c + 1 == core)

/-- Reset the engine of a core (R408). A block that spans the pair is hit by the reset of either core, and loses its
operations, which stand in the first core's table. (DEDUCED, log 10) -/
def State.resetEngine (s : State) (core : Nat) : State :=
  let s := s.unfocus
  let hit (b : Block) : Bool := s.runsOn b core && ((s.pktOf b).acc != 0 || (s.pktOf b).z != 0)
  let lost := (s.blocks.filter fun b => hit b.2).map (·.1)
  let entries := s.engines.flatMap (·.2)
  let blocks := s.blocks.map fun b =>
    if hit b.2 then
      let p := s.pktOf b.2
      (b.1, b.2.resetCube p.acc p.z (fun k => s.undef k) ((entries.filter (·.blk == b.1)).flatMap (·.cut)))
    else b
  let engines := (smDel s.engines core).map fun t => (t.1, t.2.filter fun e => !lost.contains e.blk)
  (({ s with blocks := blocks, engines := engines } : State).record
    (engineRecord (coreDie core) 5 0 core 0 Held.zero)).bump

/-- Take trap 0x34: the accumulator-lost bit clears. -/
def State.takeAccTrap (s : State) : State :=
  (({ s with blk := { s.blk with accLost := false } } : State).sysTrap { cause := 0x34 })

end Sys2Proof.Machine
end

