-- ==== Sys2Proof/Machine/Control.lean ====
section
/-! DEFINITION. Clause headers, branches, calls, waits, regrouping, launching and joining (R215 to R217,
R242 to R255). -/

namespace Sys2Proof.Machine

/-- The key of a partition half in `State.issue`. -/
abbrev issueKey (core part half : Nat) : Nat := core * 16 + part * 2 + half

/-- The issue state of a partition half, before anything has issued there (R55). -/
def IssueState.none : IssueState :=
  { last := Option.none, slot := 0, standing := false, turn := Option.none
    given := Option.none, trapped := false, busyTill := 0, hit := Option.none }

/-- Issue state of the focused warp's partition half. -/
def State.issueOf (s : State) (core part half : Nat) : IssueState :=
  (smGet s.issue (issueKey core part half)).getD IssueState.none

/-- Set a slot's issue state. -/
def State.setIssue (s : State) (core part half : Nat) (x : IssueState) : State :=
  { s with issue := smSet s.issue (issueKey core part half) x }

/-- The focused warp gives the slot to another and loses its greedy standing (R56). -/
def State.giveWay (s : State) : State :=
  let x := s.issueOf s.core s.w.part s.w.half
  s.setIssue s.core s.w.part s.w.half { x with given := s.cur, standing := x.standing && x.last != s.cur }

/-- YLD gives way (R56, R357): under GTO, for a path of slot A that has not yielded at this header, where another warp is
ready, and none has yielded in this clock. A path some lanes of which have yielded there, others having joined it since,
has its yield consumed. (DEDUCED, log 7) -/
def State.yields (s : State) : Bool :=
  (s.issuing.all fun l => !l.yielded) && (s.w.second == 0 || s.im != s.w.second) && !s.coreRR s.core &&
  (s.issueOf s.core s.w.part s.w.half).given.isNone && s.otherReady

/-- The lanes enter the clause of their header (R215). -/
def Lane.enter (c : Clause) (l : Lane) : Lane := { l with pc := l.pc + 4, clause := some c, hint := {}, yielded := false }

/-- The order of accesses after lanes of a mask have waited on flags (R183). -/
def State.flagsHeard (s : State) (lanes : List Lane) (flags : Nat) : Orders :=
  s.order.waited s.party (lanes.map fun l => s.threadOf l.id) flags

/-- A clause header (R47, R56, R215, R216, R408): it applies its RCV bit, its WAIT mask and its YLD bit, and
its lanes enter the clause, whose first word waits for the same flags. -/
def execClauseHeader (wait seta setb len yld rcv : Nat) (s : State) : Res :=
  if s.cur.isNone then .fault .noIssuingWarp
  else
    let go (t : State) : Res := .next { t with stalled := false }
    match s.lead with
    | none => .next s
    | some l =>
      if l.clause.isSome || !(Instr.clauseHeader wait seta setb len yld rcv).wf then go (s.sysTrap { cause := 0x10 })
      else if rcv = 1 ∧ s.w.anyBehind l.depth l.pc = true then go (s.mapIm fun x => { x with st := .waiting })
      else if s.accTrap wait then go s.takeAccTrap
      else if !s.w.seen.flagsClear wait || !s.free (l.pc + 4) then .next { s with stalled := true }
      else if yld = 1 ∧ s.yields = true then
        .next { s.giveWay.mapIm (fun x => { x with yielded := true }) with stalled := true }
      else
        let t := s.mapIm (Lane.enter ⟨seta, setb, len + 1, wait⟩)
        go { t with w := t.w.closeWindows wait, order := s.flagsHeard s.issuing wait }

/-- Check a branch target: a target that is no header is an illegal field value, and comes first (R241). -/
def State.toTarget (s : State) (off : Int) (pre : Act → Act) (k : Word → Act) : Act :=
  match s.branchTo off with
  | .inr t => pre (k t)
  | .inl c => if c = 0x10 then .cause c else pre (.cause c)

/-- BRA (R245). -/
def execBra (off g : Nat) (s : State) : Res :=
  issue (.bra off g) s
    (s.toTarget (signed 21 off) id fun t => .go (s.mapIm fun l => if l.pget g then l.goto t else l.next))

/-- BRU (R245). -/
def execBru (off g : Nat) (s : State) : Res :=
  issue (.bru off g) s
    (s.toTarget (signed 21 off) id fun t =>
      .go (s.mapIm fun l => if s.issuing.all (·.pget g) then l.goto t else l.next))

/-- A lane calls a target: it pushes the word after (R217, R245). -/
def Lane.callTo (t : Word) (l : Lane) : Lane := (l.push { pc := l.pc + 4, clause := none }).goto t

/-- CALL (R245). -/
def execCall (off g : Nat) (s : State) : Res :=
  issue (.call off g) s
    (s.toTarget (signed 21 off) (Act.require (!(s.guarded g).any fun l => l.depth == 255) 0x13) fun t =>
      .go (s.mapIm fun l => if l.pget g then l.callTo t else l.next))

/-- LOOPN (R249). -/
def execLoopn (sa off g : Nat) (s : State) : Res :=
  issue (.loopn sa off g) s
    (s.toTarget (signed 13 off) id fun t =>
      if !s.acts g then .go s.advance
      else
        let n := s.sfld 1 sa - 1
        let s1 := s.sput (s.sname 1 sa) n
        .go (s1.mapIm fun l => if n ≠ 0 ∧ s.issuing.all (·.pget g) = true then l.goto t else l.next))

/-- CALLO (R81, R246, R340). An entry at or beyond the end of its overlay is a target outside it, and one that is no clause
header an illegal target: either traps at the call with no lane moved, as R76, R223 and R245 have it for CALL. (DEDUCED,
log 39) -/
def execCallo (sa ent : Nat) (s : State) : Res :=
  let tok := (s.sfld 1 sa).toNat % 2 ^ 16
  let ovx := ent / 256
  let hit := (s.tokEntry s.core s.blk.tenant tok).filter fun e =>
    e.2.st == .resident && e.2.ovx == ovx && (s.grid?.bind (·.dirHash ovx)) == some e.2.hash
  issue (.callo sa ent) s
    (Act.require (!s.issuing.any fun l => l.depth == 255) 0x13
      (match hit with
        | some (n, e) =>
          match e.entries[ent % 256]? with
          | none => .cause 0x10
          | some off =>
            match e.words[off]? with
            | none => .cause 0x14
            | some w =>
              if isHeader w then
                let s1 := s.modLoft s.core n fun x => { x with lastCall := s.serial }
                .go (({ s1 with serial := s1.serial + 1 } : State).mapIm (Lane.callTo (mkPc ovx off)))
              else .cause 0x10
        | none => s.kernelTrap s.im Lane.rewind id ⟨1, w32 ovx, w32 ent, s.sname 1 sa, tok⟩))

/-- WAITF (R250), which raises trap 0x34 after an engine reset (R408). -/
def execWaitf (msk g : Nat) (s : State) : Res :=
  issue (.waitf msk g) s
    (if !s.acts g then .go s.advance
    else if s.accTrap msk then .go s.takeAccTrap
    else if s.w.seen.flagsClear msk then
      let t := s.advance
      .go { t with w := t.w.closeWindows msk, order := s.flagsHeard s.issuing msk }
    else .stall)

/-- WAITL (R48, R252): lanes with an outstanding far load become late; guard-false lanes take part. -/
def execWaitl (msk g : Nat) (s : State) : Res :=
  issue (.waitl msk g) s
    (.go { s.mapIm fun l => if l.arrivedAll msk then l.next else { l with st := .late, lateMask := msk } with
      order := s.flagsHeard (s.issuing.filter (·.arrivedAll msk)) msk })

/-- RET (R247). -/
def execRet (g : Nat) (s : State) : Res :=
  issue (.ret g) s
    (Act.require (!(s.guarded g).any fun l => l.depth == 0) 0x13
      (.go ((s.mapIm fun l => if l.pget g then l.pop else l.next).reapLoft s.core)))

/-- A lane exits (R36, R248). -/
def Lane.exit (l : Lane) : Lane := { l with st := .exited, clause := none, hint := {}, join := none }

/-- EXIT (R248): lanes in an armed set count as signed (R123). -/
def execExit (g : Nat) (s : State) : Res :=
  issue (.exit g) s
    (.go (((s.mapIm fun l => if l.pget g then l.exit else l.next).exitOn ((s.guarded g).map (·.id))
      s.blk.batons).reapLoft s.core))

/-- JOIN (R33, R255): it waits for the children whose packets were taken before it first issued. Lanes that reach it
later and join the path have their own count, and the path waits for the greatest. (DEDUCED, log 7) -/
def execJoin (g : Nat) (s : State) : Res :=
  issue (.join g) s
    (if !s.acts g then .go s.advance
    else
      let own (l : Lane) : Nat := l.join.getD s.blk.launchCount
      let n := (s.issuing.map own).foldl max 0
      if s.blk.launched.any fun c => decide (c.2 < n) then .wait (s.mapIm fun l => { l with join := some (own l) })
      else .go (s.mapIm fun l => { l.next with join := none }))

/-- The packet of a LAUNCH on its way into the controller of the issuing core's die (R374). -/
def State.launchOf (s : State) (addr : Nat) : Inbound :=
  { die := s.dieNo, addr := addr, tenant := s.blk.tenant, parent := some (s.blk.grid, s.blk.key), rpc := none,
    deadSince := none }

/-- LAUNCH (R31, R254): the controller reads the packet once the warp's stores have left its queue and its far acquires are
answered (R185), and what it reads can be reached (R409, R423); a read that goes unanswered for the system timeout is one
that faults, and the packet is turned away (R375, R392; log 43). One that finds no room holds its path alone, as the waits of
R250, R255 and R308 do, and the warp's other paths issue. (DEDUCED, log 7) -/
def execLaunch (sa g : Nat) (s : State) : Res :=
  let b := s.sname 1 sa
  let addr := pair64 (s.sget b) (s.sget (b + 1))
  issue (.launch sa g) s
    (if !s.acts g then .go s.advance
    else
      Act.require (!(s.guarded g).any fun l => l.tid != 0) 0x17
        (Act.require ((s.grid?.map (·.depth)) != some 10) 0x18
          (Act.require (addr % 64 == 0) 0x20
            (match s.wordSent with
              | some x => if s.timeUp s.dieNo x.since then .trap { cause := 0x19, reason := 1, addr := addr } else .stall
              | none =>
                if !s.w.queue.isEmpty || !s.acquires.isEmpty || decide (64 ≤ s.pendingOn s.dieNo) then .stall
                else
                  match s.launchDead (s.launchOf addr) with
                  | f :: r => .wait (s.sendWord (f :: r))
                  | [] =>
                    if s.launchHeld (s.launchOf addr) then .stall
                    else
                      match s.judge (s.launchOf addr) with
                      | .inl r => .trap { cause := 0x19, reason := r, addr := addr }
                      | .inr (p, c) => .go ((s.admitGrid (s.launchOf addr) p c).2.advance)))))

/-! ### REFORM (R50 to R53, R253) -/

/-- The thread of a lane as a sheaf holds it (R51). -/
def Lane.filed (pc : Word) (l : Lane) : Lane := { l.goto pc with st := .runnable, join := none, lateMask := 0 }

/-- A lane whose thread has been filed (R51). -/
def Lane.vacate (l : Lane) : Lane :=
  { l with st := .vacant, v := [], p := 0, h := false, depth := 0, chain := [], spill := [], clause := none, hint := {} }

/-- File a thread: into an open sheaf of its continuation and key that is not full, or a new one while
fewer than eight are open; none where it would be the ninth (R50, R51, R52). -/
def fileInto (w role budget clk : Nat) (pc : Word) (key : Nat) (l : Lane) (n : Nat) :
    List Sheaf → Option (List Sheaf)
  | [] =>
    if n < 8 then
      some [{ pc := pc, key := key, role := role, budget := budget, threads := [l.filed pc], since := clk, due := w == 1 }]
    else none
  | x :: r =>
    if x.pc = pc ∧ x.key = key ∧ x.role = role ∧ x.threads.length < w then
      some ({ x with
        threads := x.threads ++ [l.filed pc], due := x.due || x.threads.length + 1 == w } :: r)
    else (fileInto w role budget clk pc key l n r).map (x :: ·)

/-- File lanes in ascending order: the sheaves after it and the lanes that were filed. -/
def fileAll (w role budget clk : Nat) (pc : Word) :
    List (Lane × Nat) → List Sheaf → List Nat × List Sheaf
  | [], sh => ([], sh)
  | (l, k) :: r, sh =>
    match fileInto w role budget clk pc k l sh.length sh with
    | some sh' =>
      let (ids, sh'') := fileAll w role budget clk pc r sh'
      (l.id :: ids, sh'')
    | none => fileAll w role budget clk pc r sh

/-- The warp is quiet enough for REFORM (R51): its loads have read their values too. -/
def State.reformQuiet (s : State) : Bool :=
  s.w.flagsClear 0xFFF && s.w.queue.isEmpty && s.w.gloads.isEmpty && s.w.lanes.all fun l => l.arrivedAll 0xFFF

/-- The warp runs on the second core of a spanning block. -/
def State.onSecond (s : State) : Bool := s.core != s.blk.onCore

/-- The warp is in the set of an armed baton (R318). -/
def State.armedWarp (s : State) : Bool :=
  s.blk.batons.any fun b => decide (b.2.w0 ≤ s.w.wid) && decide (s.w.wid < b.2.w0 + b.2.c)

/-- REFORM (R253). -/
def execReform (va off g : Nat) (s : State) : Res :=
  issue (.reform va off g) s
    (s.toTarget (signed 14 off) id fun t =>
      if !s.acts g then .go s.advance
      else
        Act.require (s.w.role != 1 && s.w.role != 2 && !s.onSecond) 0x15
          (Act.require (!s.armedWarp) 0x32
            (if !s.reformQuiet then .stall
            else
              let (ids, sh) := fileAll s.W s.w.role s.w.budget s.clock t
                ((s.guarded g).map fun l => (l, (s.vget l va).toNat % 256)) s.blk.sheaves
              if ids.isEmpty && s.issuing.all (·.pget g) then .stall
              else
                let s1 := s.mapIm fun l =>
                  if ids.contains l.id then l.vacate else if l.pget g then l.rewind else l.next
                .go (({ s1 with blk := { s1.blk with sheaves := sh } } : State).reapLoft s.core))))

end Sys2Proof.Machine
end

