-- ==== Sys2Proof/Machine/CopyOps.lean ====
section
/-! DEFINITION. CPY, CPYT and CPYQ: the walk descriptor and its checks (R23, R130 to R134, R140, R142, R314). -/

namespace Sys2Proof.Machine

/-- The walk of a descriptor of 32 words (R130). -/
def parseWalk (ws : List Nat) : Walk :=
  let six := List.range 6
  let w8 := dw ws 8
  { sbase := dw ws 0 + 2 ^ 32 * dw ws 1, dbase := dw ws 2 + 2 ^ 32 * dw ws 3
    stampa := dw ws 4 + 2 ^ 32 * dw ws 5, seq := dw ws 6 + 2 ^ 32 * field (dw ws 7) 0 16
    qfmt := field w8 24 4, stsp := field w8 22 2, dsp := field w8 20 2, ssp := field w8 18 2, esz := field w8 0 3
    ext := six.map fun i => field (dw ws (9 + 3 * i)) 0 16 + 1
    start := six.map fun i => field (dw ws (9 + 3 * i)) 16 16
    ss := six.map fun i => signed 32 (dw ws (10 + 3 * i))
    ds := six.map fun i => signed 32 (dw ws (11 + 3 * i)) }

/-- The first row of R132. -/
def walkForm (ws : List Nat) (w : Walk) : Bool :=
  let chip (sp hi : Nat) : Bool := sp == 2 || dw ws hi == 0
  field (dw ws 7) 16 16 == 0 && field (dw ws 8) 28 4 == 0 && field (dw ws 8) 3 15 == 0 &&
  ((List.range 5).all fun i => dw ws (27 + i) == 0) &&
  w.stsp != 3 && w.dsp != 3 && w.ssp != 3 &&
  chip w.ssp 1 && chip w.dsp 3 && chip w.stsp 5 &&
  (w.start.zip w.ext).all fun x => decide (x.1 < x.2)

/-- Each stride is the one before it times the extent before it (R140). -/
def denseFrom : Int → List Nat → List Int → Bool
  | x, e :: es, y :: ys => y == x && denseFrom (x * (e : Int)) es ys
  | _, _, _ => true

/-- The limits of CPYT (R142) and CPYQ (R140). -/
def walkKind (kind : Nat) (w : Walk) : Bool :=
  match kind with
  | 1 =>
    w.ssp == 2 && w.dsp != 2 && w.esz == 1 && w.ext.take 2 == [64, 64] && w.start.take 2 == [0, 0]
  | 2 => denseFrom (w.size : Int) w.ext w.ss && w.start.all (· == 0)
  | _ => true

/-- The strides of the counters that move are multiples of the element size. -/
def stridesAligned (size : Nat) (ext : List Nat) (st : List Int) : Bool :=
  (ext.zip st).all fun x => x.1 == 1 || x.2 % size == 0

/-- The second row of R132; CPYT ignores SS0 and SS1 (R142). The stride of a counter of extent 1 enters no address.
(DEDUCED, log 30) -/
def walkAligned (kind : Nat) (w : Walk) : Bool :=
  let k := if kind = 1 then 2 else 0
  w.sbase % w.size == 0 && w.dbase % w.size == 0 && stridesAligned w.size (w.ext.drop k) (w.ss.drop k) &&
  stridesAligned w.size w.ext w.ds && w.stampa % 32 == 0

/-- The range rule of an on-chip range: none where it holds, else the trap (R69, R70, R132). -/
def State.rangeTrap (s : State) (sp : Nat) (r : Int × Int) : Option Nat :=
  let n := (r.2 - r.1 + 1).toNat
  match sp with
  | 0 => if 0 ≤ r.1 ∧ s.sharedOk r.1.toNat n = true then none else some 0x22
  | 1 => if 0 ≤ r.1 ∧ s.granaryOk s.blk.grid s.dieNo r.1.toNat n = true then none else some 0x23
  | _ => none

/-- The third row of R132: the shared-range rule for source, destination and stamp slot, then the Granary-range rule, the
order of kinds of R294. CPYT has no on-chip source. -/
def State.walkRange (s : State) (w : Walk) : Option (Nat × Nat) :=
  let sides : List (Nat × Int × Int) :=
    [(w.ssp, w.srcRange), (w.dsp, w.dstRange), (w.stsp, (w.stampa, (w.stampa : Int) + 31))]
  let bad (sp : Nat) : Option (Nat × Nat) :=
    (sides.filter (·.1 == sp)).findSome? fun x => (s.rangeTrap sp x.2).map fun c => (c, x.2.1.toNat)
  (bad 0).orElse fun _ => bad 1

/-- The warp is in the producer warp group (R23). -/
def State.producer (s : State) : Bool := if s.w.role = 0 then s.w.wid == 0 else s.w.role == 1

/-- Copies of a core that have issued and not yet written their stamp (R133). -/
def State.unfinished (s : State) (core : Nat) : Nat := (s.copies.filter fun c => c.core == core).length

/-- A copy instruction (R132, R133, R314). The checks of CPYT and CPYQ stand with the first row of R132's table. The copy keeps the
descriptor as it stands here: a register that is written before acceptance does not change it. (DESIGN CHOICE, log 48) -/
def State.copyAct (s : State) (kind sa cls scope fs : Nat) : Act :=
  let ws := s.ugroup 1 sa 32
  let w := parseWalk ws
  Act.require s.producer 0x16
    (Act.require (walkForm ws w && walkKind kind w) 0x27
      (Act.require (walkAligned kind w) 0x20
        (match s.walkRange w with
          | some (c, a) => .trap { cause := c, addr := a }
          | none =>
            if 64 ≤ s.unfinished s.core then .stall
            else
              let op := s.serial
              let c : Copy :=
                { id := op, op := op, grid := s.blk.grid, blk := s.blk.key, wid := s.w.wid
                  flag := (s.fsFlag fs).getD 0, core := s.core, tenant := s.blk.tenant, kind := kind, cls := cls
                  scope := scope, walk := w, accepted := false, next := w.first, pixels := [], landOn := false
                  srcOn := false, status := 0, stopAt := none, failed := (0, 0), slot := w.stampa, resv := none
                  idx := s.blk.idx, hostAcks := [], after := s.acquires, out := [], spoilt := [], deadSince := none
                  clk := s.order.engine (s.issuing.map fun l => s.threadOf l.id) (s.uKeys (group (s.sname 1 sa) 32)) }
              let s1 : State := { s with
                serial := s.serial + 1, copies := s.copies ++ [c]
                order := s.order.told (s.issuing.map fun l => s.threadOf l.id) }
              .go ((s1.mark ((s.fsFlag fs).getD 0) op false).advance))))

/-- CPY (R314). -/
def execCpy (sa cls scope fs : Nat) (s : State) : Res :=
  issue (.cpy sa cls scope fs) s (s.copyAct 0 sa cls scope fs)

/-- CPYT (R142, R314). -/
def execCpyt (sa cls scope fs : Nat) (s : State) : Res :=
  issue (.cpyt sa cls scope fs) s (s.copyAct 1 sa cls scope fs)

/-- CPYQ (R140, R314). -/
def execCpyq (sa cls scope fs : Nat) (s : State) : Res :=
  issue (.cpyq sa cls scope fs) s (s.copyAct 2 sa cls scope fs)

end Sys2Proof.Machine
end

