-- ==== Sys2Proof/Machine/Trailer.lean ====
section
/-! DEFINITION. Quantised tiles with trailers: CVT.trl and CVT.chk (R109 to R111, R289 to R292). -/

namespace Sys2Proof.Machine

/-- Fields of a tile descriptor (R289). -/
abbrev tAddr (ws : List Nat) : Nat := dw ws 0 + 2 ^ 32 * dw ws 1
/-- Space. -/
abbrev tSp (ws : List Nat) : Nat := field (dw ws 2) 21 2
/-- Rounding mode, RNE by default (R99). -/
def tRm (ws : List Nat) : Nat := if field (dw ws 3) 8 3 = 0 then 1 else field (dw ws 3) 8 3

/-- Elements of a lane (R290). -/
def tElems (ws : List Nat) (k : Nat) : Nat := tNw ws * (32 / fmtWidth k)

/-- Payload bytes of `e` elements (R290). -/
def tCodes (ws : List Nat) (sub e : Nat) : Nat × Nat :=
  let codes := (e * fmtWidth sub + 7) / 8
  (codes, codes + (if tSc ws then e / 32 else 0))

/-- The conditions of the tile-descriptor trap do not hold (R289). -/
def tileOk (ws : List Nat) (sub k : Nat) : Bool :=
  field (dw ws 2) 23 9 == 0 && field (dw ws 3) 11 21 == 0 && field (dw ws 3) 0 3 == 0 &&
  tSp ws != 3 && (tSp ws == 2 || dw ws 1 == 0) &&
  field (dw ws 3) 8 3 != 5 && field (dw ws 3) 8 3 != 7 && field (dw ws 3) 6 2 != 3 && decide (field (dw ws 3) 3 3 ≤ 5) &&
  (!tSc ws || (decide (3 ≤ sub) && decide (sub ≤ 6) && tElems ws k % 32 == 0 && decide (tElems ws k ≤ 128)))

/-- A byte of a far range whose translation fails, with its detail and locator (R290). -/
def State.farFail (s : State) (need : Nat) (a n : Nat) : Option (Nat × Nat × Nat) :=
  ((List.range n).map (a + ·)).findSome? fun x =>
    match s.tr need x with
    | .ok _ => none
    | .bad d l => some (x, d, l)

/-- The checks of CVT.trl and CVT.chk on a tile of `n` bytes, trailer included (R289, R290). -/
def State.checkTile (s : State) (ws : List Nat) (sub k need n : Nat) (go : Act) : Act :=
  let a := tAddr ws
  Act.require ((tRegs ws).all fun r => decide (r < s.w.budget)) 0x11
    (Act.require (tileOk ws sub k) 0x28
      (if a % 16 ≠ 0 then .trap { cause := 0x20, addr := a }
      else if tSp ws = 2 then
        if !vaOk a || !vaOk (a + n - 1) then .trap { cause := 0x24, addr := a }
        else if (List.range n).any fun i => s.heldVa s.dieNo s.blk.tenant (a + i) then .stall
        else
          match s.farFail need a n with
          | some (x, d, l) => .trap { cause := 0x25, detail := d, addr := x, loc := l }
          | none => go
      else
        match s.rangeTrap (tSp ws) (a, (a : Int) + n - 1) with
        | some c => .trap { cause := c, addr := a }
        | none => go))

/-- Where the trailer stands behind a payload (R109). -/
def trailerAt (p : Nat) : Nat := 16 * ((p + 15) / 16)

/-- A quantised element: its code, its event, its scaled magnitude (R291). -/
def quantise (k sub rm c x : Nat) : Nat × Event × XR :=
  let (q, ev) := roundTo ((decodeFmt k x).shift (127 - (c : Int))) sub rm 0 false
  (q, ev, (XR.scale (decodeFmt sub q) c).abs)

/-- The elements of a lane: code in the register format, and scale code (R290, R291). -/
def State.laneElems (s : State) (ws : List Nat) (k : Nat) (l : Lane) : List (Nat × Nat) :=
  let per := 32 / fmtWidth k
  (List.range (tElems ws k)).map fun j =>
    (elemOf (fmtWidth k) (j % per) (s.vget l (tVs ws + j / per)).toNat % 2 ^ fmtBits k,
      if tSc ws then elemOf 8 (j / 32) (s.vget l (tVsc ws)).toNat else 127)

/-- Codes packed at their memory width, from the lowest bits up (R97, R290). -/
def packCodes (sub : Nat) (cs : List Nat) : List Byte :=
  leBytes ((cs.length * fmtWidth sub + 7) / 8) (joinElems (fmtWidth sub) cs)

/-- The 16 trailer bytes of a payload (R109). -/
def trailerOf (sub scl tmax satn flsn : Nat) (payload : List Byte) : List Byte :=
  let t := leBytes 4 tmax ++ leBytes 4 (min satn (2 ^ 32 - 1)) ++ leBytes 1 scl ++ leBytes 1 (sub % 16) ++
    leBytes 2 (min flsn 65535)
  t ++ leBytes 4 (crc32c (payload ++ t))

/-- What CVT.trl writes: payload, trailer, and the NaN events (R291). -/
def State.tileOf (s : State) (ws : List Nat) (sub k : Nat) : List Byte × List Byte × Nat :=
  let es := s.issuing.flatMap (s.laneElems ws k)
  let qs := es.map fun e => quantise k sub (tRm ws) e.2 e.1
  let scales := if tSc ws then (List.range (es.length / 32)).map fun i => BitVec.ofNat 8 (es.getD (32 * i) (0, 0)).2 else []
  let payload := packCodes sub (qs.map (·.1)) ++ scales
  let tmax := (qs.map (·.2.2)).foldl (fun a x => XR.pick true a x) (.num false 0 0)
  let n (ev : Event) : Nat := (qs.filter fun q => q.2.1 == ev).length
  (payload, trailerOf sub (if tSc ws then 1 else 0) (rtf tmax 0 1 0) (n .sat) (n .flush) payload, n .nan)

/-- Count events into the fall-back counters of a tensor identifier (R111), which may set OVF (R148):
`which` is 0 sat, 1 flush, 2 nan. -/
def State.count (s : State) (tid which n : Nat) : State :=
  if n = 0 ∨ 4095 < tid then s
  else
    let key := 3 * tid + which
    let s1 : State := { s with grids := smMod s.grids s.blk.grid fun g =>
      { g with dies := g.dies.map fun d =>
          if d.die = s.dieNo then
            { d with counters := smSet d.counters key (min ((smGet d.counters key).getD 0 + n) (2 ^ 32 - 1)) }
          else d } }
    match s.joined with
    | none => s1
    | some x =>
      if which ≠ 1 ∧ x.step ≠ .closed ∧ (x.tensor? tid).isSome = true then
        { s1 with session := some { x with ovf := true } }
      else s1

/-- The bytes of a tile with their offsets: payload, then trailer (R291). -/
def tileBytes (payload trailer : List Byte) : List (Nat × Byte) :=
  ((List.range payload.length).zip payload) ++
  ((List.range 16).map (trailerAt payload.length + ·)).zip trailer

/-- The thread whose store the tile of a warp counts as: that of the lowest issuing lane. -/
def State.tileThread (s : State) : Nat := s.threadOf ((s.lead.map (·.id)).getD 0)

/-- The threads of the issuing lanes. -/
def State.threadsNow (s : State) : List Nat := s.issuing.map fun l => s.threadOf l.id

/-- What the store of a tile comes after: for each lane what a store of its registers would, and what stands behind the
descriptor `sa`. -/
def State.tileOrder (s : State) (sp : Option Space) (sa : Nat) (regs : List Nat) : SMap Nat :=
  s.issuing.foldl (fun c l => joinClk c (match sp with
    | some x => s.orderOf x l.id regs
    | none => s.laterOf l.id regs)) (s.order.ofRegs (s.uKeys (group (s.sname 1 sa) 4)))

/-- Enter the bytes of an on-chip tile in the store queue, for operation `op`, each as a store of its own: no order lies among
them (R291). -/
def State.queueTile (s : State) (sp : Space) (a op : Nat) (clk : SMap Nat) : List (Nat × Byte) → State
  | [] => s
  | (o, x) :: r =>
    State.queueTile { s with
      serial := s.serial + 1
      w := { s.w with queue := s.w.queue ++ [⟨s.serial, sp, a + o, [x], s.acquires, some op, s.tileThread, clk⟩] } } sp a op clk r

/-- The line access of bytes of a tile, numbered by their offsets: it stands for all threads of the path. -/
def State.tileReq (s : State) (clk : SMap Nat) (f : Nat × Nat → Nat × Nat × Nat × Nat × Nat) (g : List (Nat × Nat)) : LineReq :=
  { lineReq f g with
    clk := (g.map fun x => (x.1, s.tileThread, clk)) ++ (s.threadsNow.filter (· != s.tileThread)).map fun w => (2 ^ 20, w, clk) }

/-- CVT.trl (R291): the sources are read at issue; on-chip bytes go through the store queue, far bytes
through the far-access unit. -/
def execCvtTrl (sa sb sub fs k : Nat) (s : State) : Res :=
  let ws := s.ugroup 1 sa 4
  let e := s.issuing.length * tElems ws k
  let p := (tCodes ws sub e).2
  let a := tAddr ws
  issue (.cvtTrl sa sb sub fs k) s
    (s.checkTile ws sub k 1 (trailerAt p + 16)
      (let (payload, trailer, nans) := s.tileOf ws sub k
      let op := s.serial
      let s0 := ({ s with serial := s.serial + 1 } : State).count (s.sfld 2 sb).toNat 2 nans
      if tSp ws = 2 then
        let xs := (tileBytes payload trailer).map fun x => (x.1, a + x.1)
        let r : FarReq := ⟨2, field (dw ws 3) 6 2, field (dw ws 3) 3 3, 0, s.fsFlag fs, 1, 0, 0⟩
        let byte (o : Nat) : Nat := ((smGet (tileBytes payload trailer) o).getD 0).toNat
        let reqs := (byLine (s.locsOf 1 xs)).map
          (s.tileReq (s.tileOrder none sa (tRegs ws)) fun x => (x.1, x.2, 0, byte x.1, 0))
        .go ((((s0.keepAll 1 xs).mark ((s.fsFlag fs).getD 0) op false).sendAll op r reqs).advance)
      else
        let sp := s.spaceOf (tSp ws) 0
        let clk := s.tileOrder (some sp) sa (tRegs ws)
        let s1 : State := { s0 with order := (s0.order.wrote s.threadsNow sp.far clk).told s.threadsNow }
        .go (((s1.mark ((s.fsFlag fs).getD 0) op false).queueTile sp a op clk (tileBytes payload trailer)).advance)))

/-- The finding of R110. -/
def finding (fmt : Nat) (payload trailer : List Byte) : Nat :=
  if crc32c (payload ++ trailer.take 12) ≠ numAt trailer 12 4 then 0x21
  else if numAt trailer 9 1 ≠ fmt then 0x22
  else 0

/-- What CVT.chk gives a lane, the `i`-th of its path, of the bytes of a tile: registers and values (R292). -/
def chkLane (ws : List Nat) (sub k lanes i : Nat) (bytes : List Byte) : List (Nat × Word) :=
  let n := tElems ws k
  let (codes, _) := tCodes ws sub (lanes * n)
  let per := 32 / fmtWidth k
  let all := leNat (bytes.take codes)
  let scale (t : Nat) : Nat := if tSc ws then numAt bytes (codes + t / 32) 1 else 127
  let elem (t : Nat) : Nat :=
    rtf (XR.scale (decodeFmt sub (elemOf (fmtWidth sub) t all % 2 ^ fmtBits sub)) (scale t)) k (tRm ws) 0
  ((List.range (tNw ws)).map fun r =>
    (tVs ws + r, w32 (joinElems (fmtWidth k) ((List.range per).map fun j => elem (i * n + r * per + j))))) ++
  (if tSc ws then [(tVsc ws, w32 (joinElems 8 ((List.range (n / 32)).map fun b => scale (i * n + 32 * b))))] else [])

/-- The registers a finished CVT.chk writes, by lane, and its status (R292). -/
def chkResult (ws : List Nat) (sub k : Nat) (lanes : List Nat) (bytes : List Byte) : List (Nat × List (Nat × Word)) × Nat :=
  let p := (tCodes ws sub (lanes.length * tElems ws k)).2
  ((List.range lanes.length).map fun i => (lanes.getD i 0, chkLane ws sub k lanes.length i bytes),
    finding sub (bytes.take p) ((bytes.drop (trailerAt p)).take 16))

/-- Write registers of lanes. -/
def Lane.take (vals : List (Nat × List (Nat × Word))) (l : Lane) : Lane :=
  ((smGet vals l.id).getD []).foldl (fun l x => l.vput x.1 x.2) l

/-- Registers of lanes whose contents are undefined until the flag of operation `op` clears (R45, R292). -/
def State.pendRegs (s : State) (op : Nat) (lanes regs : List Nat) : State :=
  { s with w := { s.w with pend := s.w.pend ++ lanes.flatMap fun l => regs.map fun r => ⟨op, l, r⟩ } }

/-- The issuing lanes have read the bytes of a tile in shared memory, into all their registers (R26, R181). -/
def State.heardTile (s : State) (sa a n : Nat) (regs : List Nat) (flag : Nat) : State :=
  let seen := (List.range n).filter fun i => !s.w.queue.any fun q => q.covers .shared (a + i)
  let got := joinClk (s.order.handed (seen.map fun i => byteKey (s.memTag .shared) (a + i)))
    (s.order.ofRegs (s.uKeys (group (s.sname 1 sa) 4)))
  let all := s.threadsNow.foldl (fun c w => joinClk c (s.order.loadClk w)) got
  let o := (s.order.reads (s.issuing.flatMap fun l => s.vKeys l.id regs) all).learn s.threadsNow got false
  { s with order := o.owe s.party flag all }

/-- CVT.chk (R292): a tile in shared memory is read at issue, as the warp's loads read; one in the Granary byte by byte later,
as loads from the Granary read (R181); a far one through the far-access unit. (DEDUCED, log 45) -/
def execCvtChk (sa sub fs k : Nat) (s : State) : Res :=
  let ws := s.ugroup 1 sa 4
  let lanes := s.issuing.map (·.id)
  let p := (tCodes ws sub (lanes.length * tElems ws k)).2
  let n := trailerAt p + 16
  let a := tAddr ws
  issue (.cvtChk sa sub fs k) s
    (s.checkTile ws sub k 0 n
      (let op := s.serial
      let clk := s.tileOrder none sa []
      let s1 := ({ s with serial := s.serial + 1 } : State).mark ((s.fsFlag fs).getD 0) op false
      if tSp ws = 2 then
        let xs := (List.range n).map fun i => (i, a + i)
        let r : FarReq := ⟨0, field (dw ws 3) 6 2, field (dw ws 3) 3 3, 0, s.fsFlag fs, 1, 0, 0⟩
        let reqs := (byLine (s.locsOf 0 xs)).map (s.tileReq clk fun x => (x.1, x.2, 0, 0, 0))
        let s2 : State := { s1 with
          chks := s1.chks ++ [⟨op, s.blk.key, s.w.wid, lanes, ws, sub, k, [], 0, clk⟩] }
        .go ((((s2.pendRegs op lanes (tRegs ws)).keepAll 0 xs).sendAll op r reqs).advance)
      else if !s.acquires.isEmpty then .stall
      else if tSp ws = 1 then
        let s2 : State := { s1 with
          serial := s1.serial + n
          chks := s1.chks ++ [⟨op, s.blk.key, s.w.wid, lanes, ws, sub, k, [], 0, clk⟩]
          w := { s1.w with gloads := s1.w.gloads ++ (List.range n).map fun i =>
            ⟨s1.serial + i, i, a + i, 1, op, .tile, s.threadsNow, clk⟩ } }
        .go ((s2.pendRegs op lanes (tRegs ws)).advance)
      else
        let sp := s.spaceOf (tSp ws) 0
        let bytes := (List.range n).map fun i => s.loadByte sp (a + i)
        let (vals, st) := chkResult ws sub k lanes bytes
        let broken := s.brokenAt a n
        let none' : List (Nat × List (Nat × Word)) := lanes.map fun l =>
          (l, (tRegs ws).map fun r => (r, s.undef (2 ^ 19 + l * 128 + r)))
        let s2 := ((s1.heardTile sa a n (tRegs ws) ((s.fsFlag fs).getD 0)).mapLanes
          (Lane.take (if broken then none' else vals))).spoil lanes (tRegs ws)
        .go (((s2.pendRegs op lanes (tRegs ws)).complete s.blk.key s.w.wid op (if broken then 0x13 else st)).advance)))

end Sys2Proof.Machine
end

