-- ==== Sys2Proof/Machine/CubeInstr.lean ====
section
/-! DEFINITION. BATON.ARM, SIGN, CUBE, station loads, OPRDY and the accumulator instructions (R316 to R330). -/

namespace Sys2Proof.Machine

/-- The warp may issue a word for cube warps, on the core of the engine (R316). -/
def State.cubeRole (s : State) : Bool := (s.w.role == 0 || s.w.role == 2) && !s.onSecond

/-- The warp may issue an accumulator word (R316). -/
def State.accRole (s : State) : Bool := s.w.role == 0 || s.w.role == 2 || s.w.role == 3

/-- Role of a warp of the block. -/
def State.roleOf (s : State) (wid : Nat) : Nat :=
  match smGet s.blkWarps wid with
  | some w => w.role
  | none => s.pkt.role wid

/-- A warp of the block runs on the second core of its pair. -/
def State.onUpper (s : State) (wid : Nat) : Bool := ((smGet s.blkWarps wid).map (·.upper)).getD false

/-- The set of a BATON.ARM keeps R318. -/
def State.setOk (s : State) (w0 c : Nat) : Bool :=
  decide (w0 + c ≤ s.pkt.warps) &&
  ((List.range c).all fun i => s.roleOf (w0 + i) == 0 || s.roleOf (w0 + i) == 2) &&
  ((List.range c).all fun i => !s.onUpper (w0 + i))

/-- Lanes of a set that have exited. -/
def State.exitedIn (s : State) (w0 c : Nat) : Nat :=
  ((s.blk.signerSeq s.blkWarps w0 c).filter fun x =>
    match smGet s.blkWarps x.1 with
    | some w => w.lanes.any fun l => l.id == x.2 && l.st == .exited
    | none => true).length

/-- BATON.ARM (R318). -/
def execBatonArm (b w0 c g : Nat) (s : State) : Res :=
  issue (.batonArm b w0 c g) s
    (if !s.acts g then .go s.advance
    else
      Act.require s.cubeRole 0x15
        (Act.require (smGet s.blk.batons b).isNone 0x31
          (Act.require (s.setOk w0 c) 0x32
            (let n := (s.blk.signerSeq s.blkWarps w0 c).length
            let out := s.exitedIn w0 c
            let bt : Baton := { w0 := w0, c := c, expected := n, count := out, descs := [], signed := [], frags := [], agreed := false, clk := [] }
            if out = n then .go s.advance
            else .go ({ s with blk := { s.blk with batons := smSet s.blk.batons b bt } } : State).advance))))

/-- The baton after lanes of the focused warp have signed. -/
def State.signed (s : State) (bt : Baton) (d : CubeDesc) (ls : List Lane) : Baton :=
  { bt with
    count := bt.count + ls.length
    signed := bt.signed ++ ls.map fun l => (s.w.wid, l.id)
    frags := bt.frags ++ ls.map (s.fragment d)
    clk := joinClk bt.clk (s.order.engine (ls.map fun l => s.threadOf l.id)
      (ls.flatMap fun l => s.vKeys l.id (descRegs d.mode d.fmt d.words))) }

/-- SIGN (R125, R319). -/
def execSign (b g : Nat) (s : State) : Res :=
  let ls := s.guarded g
  issue (.sign b g) s
    (if !s.acts g then .go s.advance
    else
      Act.require s.cubeRole 0x15
        (match smGet s.blk.batons b with
          | none => .cause 0x31
          | some bt =>
            match smGet bt.descs s.w.wid with
            | none => .cause 0x31
            | some d =>
              Act.require (!ls.any fun l => bt.signed.contains (s.w.wid, l.id)) 0x31
                (let bt' := s.signed bt d ls
                let s1 := s.openWindow d (ls.map (·.id))
                if bt'.count ≠ bt.expected then
                  .go ({ s1 with blk := { s1.blk with batons := smSet s1.blk.batons b bt' } } : State).advance
                else if bt'.verdict = .differ then .go ((s.discardBaton b bt').sysTrap { cause := 0x33 })
                else if s.tableRoom s.blk.onCore then .go ((s1.acceptBaton b bt').advance)
                else .stall)))

/-- Position of a lane in the signer sequence, when its warp is in the baton's set. On an idle baton, or outside the set, the
CUBE traps by R123 unless a row before it does; for the check of R122 before it, its warp then counts as the first.
(DESIGN CHOICE, log 47) -/
def State.posOf (s : State) (bt : Option Baton) (lane : Nat) : Nat :=
  let own := s.blk.nonVacant s.blkWarps s.w.wid
  let k := (own.filter (· < lane)).length
  match bt with
  | none => k
  | some x => (s.blk.signerSeq s.blkWarps x.w0 (s.w.wid - x.w0)).length + k

/-- The fragment registers of the warp's lanes lie below its budget (R122). -/
def State.fragOk (s : State) (mode fmt : Nat) (ws : List Nat) (bt : Option Baton) : Bool :=
  (s.blk.nonVacant s.blkWarps s.w.wid).all fun l =>
    (posRegs mode fmt ws (s.posOf bt l)).all fun r => decide (r < s.w.budget)

/-- The signer sequence of an armed baton is long enough (R122). -/
def State.seqOk (s : State) (mode fmt : Nat) (ws : List Nat) (bt : Option Baton) : Bool :=
  match bt with
  | none => true
  | some x => decide (cLanes mode fmt ws ≤ (s.blk.signerSeq s.blkWarps x.w0 x.c).length)

/-- The lists of a gather are even and lie inside the declared shared memory (R128). -/
def State.listsOk (s : State) (mode : Nat) (ws : List Nat) : Bool :=
  mode != 4 ||
  (let a := field (dw ws 2) 0 19
  let b := field (dw ws 3) 0 19
  a % 2 == 0 && b % 2 == 0 && s.sharedOk a (2 * cM ws) && s.sharedOk b (2 * cM ws))

/-- CUBE (R119, R122, R324): it records its descriptor and marks its flag. Its role trap comes before its shape trap.
(DESIGN CHOICE, log 48) -/
def execCube (sa mode fmt fs b : Nat) (s : State) : Res :=
  let ws := s.ugroup 1 sa 4
  let bt := smGet s.blk.batons b
  issue (.cube sa mode fmt fs b) s
    (Act.require (cReserved ws) 0x10
      (Act.require (s.fragOk mode fmt ws bt) 0x11
        (Act.require ((cTiles mode ws).all fun t => decide (t < s.pkt.acc)) 0x12
          (Act.require s.cubeRole 0x15
            (Act.require (cShape mode fmt s.pkt.z ws && s.seqOk mode fmt ws bt) 0x30
              (Act.require (s.listsOk mode ws) 0x22
                (match bt with
                  | none => .cause 0x31
                  | some x =>
                    Act.require (decide (x.w0 ≤ s.w.wid) && decide (s.w.wid < x.w0 + x.c) &&
                        (smGet x.descs s.w.wid).isNone) 0x32
                      (let op := s.serial
                      let k := (s.fsFlag fs).getD 0
                      let d : CubeDesc := { words := ws, mode := mode, fmt := fmt, flag := k, op := op }
                      let x' := { x with
                        descs := smSet x.descs s.w.wid d
                        clk := joinClk x.clk (s.order.ofRegs (s.uKeys (group (s.sname 1 sa) 4))) }
                      let s1 := ({ s with serial := s.serial + 1 } : State).mark k op true
                      .go ({ s1 with blk := { s1.blk with batons := smSet s1.blk.batons b x' } } : State).advance))))))))

/-- The reserved bits of a stationary descriptor are zero (R116). -/
def stnReserved (ws : List Nat) : Bool :=
  field (dw ws 0) 19 13 == 0 && field (dw ws 1) 19 13 == 0 && field (dw ws 2) 19 13 == 0 && field (dw ws 3) 25 7 == 0

/-- The shape conditions of R117; a K of 0 or above 8,192 is a shape that R116 does not have. (DEDUCED, log 47) -/
def stnShape (z : Nat) (ws : List Nat) : Bool :=
  let w3 := dw ws 3
  let f := field w3 21 4
  let k := field w3 0 14
  cubeFmt f && decide (1 ≤ k) && decide (k ≤ 8192) && k % cubeKs f == 0 && (!bit w3 20 || cubeScaled f) &&
  decide (field w3 17 3 + stationsFor f k (32 * (field w3 14 3 + 1)) ≤ z)

/-- Every byte that a station load reads lies in the block's shared memory (R117). -/
def State.stnRange (s : State) (west : Bool) (ws : List Nat) : Bool :=
  let (rows, cols) := storedShape west ws
  s.sharedOk (field (dw ws 0) 0 19) ((rows - 1) * field (dw ws 2) 0 19 + storedRow west ws) &&
  (!bit (dw ws 3) 20 || s.sharedOk (field (dw ws 1) 0 19) (rows * ((cols + 31) / 32)))

/-- Accept an operation of the issuing warp at issue, which reads the registers of `keys`, and mark its flag (R129). -/
def State.engineGo (s : State) (op : EngineOp) (fs : Nat) (keys : List Nat) : Act :=
  if s.tableRoom s.blk.onCore then
    let id := s.serial
    let k := (s.fsFlag fs).getD 0
    let s1 := ({ s with serial := s.serial + 1 } : State).mark k id true
    .go ((s1.enter s.blk.onCore s.blk.key (s.gridPrio s.blk.grid) op [(s.w.wid, k, id)]
      (s.windowTiles op.tiles) (s.order.engine (s.issuing.map fun l => s.threadOf l.id) keys)).advance)
  else .stall

/-- BOFF and PITCH are multiples of 4 (R116). -/
def stnAligned (ws : List Nat) : Bool := field (dw ws 0) 0 19 % 4 == 0 && field (dw ws 2) 0 19 % 4 == 0

/-- A station load (R117, R321). The table of R117 has no alignment row; the rule of R65 for every shared access takes
BOFF and PITCH as R116 wants them, in the place R294 gives alignment. (DEDUCED, log 41) -/
def State.stnAct (s : State) (west : Bool) (sa fs : Nat) : Act :=
  let ws := s.ugroup 1 sa 4
  Act.require (stnReserved ws) 0x10
    (Act.require s.cubeRole 0x15
      (Act.require (stnShape s.pkt.z ws) 0x30
        (if !stnAligned ws then .trap { cause := 0x20, addr := field (dw ws 0) 0 19 }
        else Act.require (s.stnRange west ws) 0x22 (s.engineGo (.load west ws) fs (s.uKeys (group (s.sname 1 sa) 4))))))

/-- CUBESTN (R321): the role trap before the shape trap. (DESIGN CHOICE, log 48) -/
def execCubestn (sa fs : Nat) (s : State) : Res := issue (.cubestn sa fs) s (s.stnAct false sa fs)

/-- CUBESTW (R321): as CUBESTN. (DESIGN CHOICE, log 48) -/
def execCubestw (sa fs : Nat) (s : State) : Res := issue (.cubestw sa fs) s (s.stnAct true sa fs)

/-- Every vector-register write of the warp's earlier instructions has been written: none is under the interlock of R44,
and none is still to come, from a long-latency instruction, a load from the Granary or a service call (R124, R350). -/
def State.written (s : State) : Bool :=
  s.w.parked.isNone && !s.w.pend.any s.toCome && (s.w.gloads.all fun x => x.dest == .uniform) &&
  s.w.locks.all fun k => k.cls != 0 || decide (k.ready ≤ s.clock)

/-- OPRDY (R124, R316, R320). -/
def execOprdy (s : State) : Res :=
  issue .oprdy s (Act.require (!s.onSecond) 0x15 (if s.written then .go s.advance else .stall))

/-- The tile-offset word of the lowest issuing lane (R327). -/
def State.tileWord (s : State) (va : Nat) : Nat :=
  match s.lead with
  | some l => (s.vget l va).toNat
  | none => 0

/-- ACCLD or ACCST (R328). -/
def State.accAct (s : State) (acc va fs : Nat) (op : Nat → Nat → EngineOp) : Act :=
  let w := s.tileWord va
  let nt := field w 24 8 + 1
  let off := field w 0 19
  Act.require (decide (acc + nt ≤ s.pkt.acc)) 0x12
    (Act.require s.accRole 0x15
      (Act.require (field w 19 5 == 0) 0x30
        (if off % 16 ≠ 0 then .trap { cause := 0x20, addr := off }
        else if !s.sharedOk off (4096 * nt) then .trap { cause := 0x22, addr := off }
        else s.engineGo (op nt off) fs ((s.lead.map fun l => s.vKeys l.id [va]).getD []))))

/-- ACCLD (R328). -/
def execAccld (acc va fs : Nat) (s : State) : Res :=
  issue (.accld acc va fs) s (s.accAct acc va fs fun nt off => .accLoad acc nt off)

/-- ACCST (R328). -/
def execAccst (acc va fs : Nat) (s : State) : Res :=
  issue (.accst acc va fs) s (s.accAct acc va fs fun nt off => .accStore acc nt off)

/-- ACCZ (R328). -/
def execAccz (acc fs : Nat) (s : State) : Res :=
  issue (.accz acc fs) s
    (Act.require (decide (acc < s.pkt.acc)) 0x12 (Act.require s.accRole 0x15 (s.engineGo (.accZero acc) fs [])))

end Sys2Proof.Machine
end

