-- ==== Sys2Proof/Machine/PlaneInstr.lean ====
section
/-! DEFINITION. STEP.OPEN, STEP.CLOSE, UPD and MERGE (R143 to R150, R156, R331 to R334). -/

namespace Sys2Proof.Machine

/-- Every active lane is the block leader (R31, R147). -/
def State.leaders (s : State) (g : Nat) : Bool := (s.guarded g).all (·.tid == 0)

/-- The joined session with its step in a state, or the plane-state trap (R331, R332). -/
def State.inStep (s : State) (st : StepState) (k : Session → Act) : Act :=
  match s.joined with
  | none => .cause 0x38
  | some x => if x.step = st then k x else .cause 0x38

/-- What STEP.OPEN does to a group (R147). -/
def Group.advance (g : Group) : Group :=
  let p1 := r32 (XR.mul (f32 g.p1) (f32 g.b1))
  let p2 := r32 (XR.mul (f32 g.p2) (f32 g.b2))
  { g with
    p1 := p1, p2 := p2
    bc1 := r32 (XR.sub false (f32 0x3F800000) (f32 p1))
    bc2 := r32 (XR.sub false (f32 0x3F800000) (f32 p2)) }

/-- STEP.OPEN (R147, R333): it stalls until every earlier MERGE has completed. (DEDUCED, log 32) -/
def execStepOpen (g : Nat) (s : State) : Res :=
  issue (.stepOpen g) s
    (if !s.acts g then .go s.advance
    else
      Act.require (s.leaders g) 0x17
        (s.inStep .closed fun x =>
          if !x.ops.isEmpty then .stall
          else .go ({ s with session := some { x with step := .open, ovf := false, groups := x.groups.map Group.advance } } : State).advance))

/-- Start a STEP.CLOSE or MERGE of the session. -/
def State.planeGo (s : State) (x : Session) (fs : Nat) (close merge : Bool) : State :=
  let op := s.serial
  let k := (s.fsFlag fs).getD 0
  let o : PlaneOp :=
    { op := op, blk := s.blk.key, wid := s.w.wid, flag := k, close := close, merge := merge
      stage := if close then 0 else 1, status := 0, after := op, acq := s.acquires
      clk := s.order.engine (s.issuing.map fun l => s.threadOf l.id) [] }
  (({ s with
    serial := s.serial + 1
    session := some { x with ops := x.ops ++ [o], step := if close then .closing else x.step } } : State).mark k op false).advance

/-- STEP.CLOSE (R149, R332, R333). -/
def execStepClose (m fs g : Nat) (s : State) : Res :=
  issue (.stepClose m fs g) s
    (if !s.acts g then .go s.advance
    else
      Act.require (s.leaders g) 0x17
        (s.inStep .open fun x => .go (s.planeGo x fs true (m == 1))))

/-- MERGE (R156, R331). -/
def execMerge (fs g : Nat) (s : State) : Res :=
  issue (.merge fs g) s
    (if !s.acts g then .go s.advance
    else Act.require (s.leaders g) 0x17 (s.inStep .closed fun x => .go (s.planeGo x fs false true)))

/-- Bytes of a gradient element (R150). -/
def gradBytes (f : Nat) : Nat := if f = 0 then 4 else 2

/-- The conditions of the plane-descriptor trap do not hold (R150). -/
def State.updOk (s : State) (x : Session) (ws : List Nat) : Bool :=
  let w4 := dw ws 4
  let sp := field w4 14 2
  let gf := field w4 12 2
  let addr := dw ws 0 + 2 ^ 32 * dw ws 1
  let n := gradBytes gf
  field w4 16 16 == 0 && dw ws 5 == 0 && dw ws 6 == 0 && dw ws 7 == 0 &&
  (sp == 2 || dw ws 1 == 0) && sp != 3 && decide (gf ≤ 1) &&
  decide (1 ≤ dw ws 3) && decide (dw ws 3 ≤ 2 ^ 24) &&
  (match x.tensor? (field w4 0 12) with
    | some t => decide (dw ws 2 + dw ws 3 ≤ t.nel)
    | none => false) &&
  addr % n == 0 && (sp == 2 || (s.rangeTrap sp (addr, (addr : Int) + dw ws 3 * n - 1)).isNone)

/-- UPD (R150, R331, R334). -/
def execUpd (sa fs g : Nat) (s : State) : Res :=
  let ws := s.ugroup 1 sa 8
  issue (.upd sa fs g) s
    (if !s.acts g then .go s.advance
    else
      s.inStep .open fun x =>
        Act.require (s.updOk x ws) 0x39
          (let tid := field (dw ws 4) 0 12
          let die := ((x.tensor? tid).map (·.hdie)).getD 0
          let held := x.upds.filter fun u => ((x.tensor? u.tid).map (·.hdie)).getD 0 == die
          if 32 ≤ held.length then .stall
          else
            let op := s.serial
            let k := (s.fsFlag fs).getD 0
            let u : UpdOp :=
              { op := op, blk := s.blk.key, wid := s.w.wid, flag := k, tenant := s.blk.tenant, core := s.core
                gaddr := dw ws 0 + 2 ^ 32 * dw ws 1, first := dw ws 2, cnt := dw ws 3
                gsp := field (dw ws 4) 14 2, gfmt := field (dw ws 4) 12 2, tid := tid, after := op
                acq := s.acquires
                clk := s.order.engine (s.issuing.map fun l => s.threadOf l.id) (s.uKeys (group (s.sname 1 sa) 8)) }
            .go (({ s with serial := s.serial + 1, session := some { x with upds := x.upds ++ [u] } } : State).mark
              k op false).advance))

end Sys2Proof.Machine
end

