-- ==== Sys2Proof/Machine/Overlay.lean ====
section
/-! DEFINITION. OVLD, OVPIN, OVUNPIN, OVEV and OVQ (R78 to R85, R335 to R338). -/

namespace Sys2Proof.Machine

/-- A waiter for the issuing warp. -/
def State.waiter (s : State) (k op : Nat) (pin : Bool) : LoftWaiter :=
  { blk := s.blk.key, wid := s.w.wid, flag := k, op := op, pin := pin, reload := false }

/-- The lookup of OVLD (R78, R80, R336): token, status where the flag clears at once, and the state. -/
def State.ovload (s : State) (idx : Nat) (d : DirEntry) (wt : LoftWaiter) : Nat × Option Nat × State :=
  match s.findKey s.core s.blk.tenant d.hash with
  | some (n, e) =>
    if e.st = .loading then
      (tokenOf n e, none, s.modLoft s.core n fun x => { x with evictMark := false, waiters := x.waiters ++ [wt] })
    else (tokenOf n e, some 0, s.modLoft s.core n fun x => { x with st := .resident })
  | none =>
    match s.makeRoom s.core s.blk.tenant d.slots [] with
    | none => (0, some 1, s)
    | some s1 =>
      let (tok, s2) := s1.startLoad s.core s.blk.tenant s.blk.grid idx d [] [wt]
        (some (s.blk.key, s.w.wid, s.serial, s.acquires)) (s.order.engine (s.issuing.map fun l => s.threadOf l.id) [])
      (tok, none, s2)

/-- The issuing warp's operation completes at once, where it has a status. -/
def State.atOnce (s : State) (op : Nat) (st : Option Nat) : State :=
  match st with
  | some x => s.complete s.blk.key s.w.wid op x
  | none => s

/-- OVLD of an index (R336). -/
def State.ovldAct (s : State) (sa idx fs : Nat) : Act :=
  match s.grid?.bind fun g => g.dir[idx]? with
  | none => .cause 0x14
  | some d =>
    let op := s.serial
    let k := (s.fsFlag fs).getD 0
    let s1 := ({ s with serial := s.serial + 1 } : State).mark k op false
    let (tok, st, s2) := s1.ovload idx d (s.waiter k op false)
    .go (((s2.atOnce op st).sput (s.sname 1 sa) (w32 tok)).advance)

/-- OVLD sa, idx (R335, R336). -/
def execOvldImm (sa idx fs : Nat) (s : State) : Res := issue (.ovldImm sa idx fs) s (s.ovldAct sa idx fs)

/-- OVLD sa, sb (R335, R336). -/
def execOvldReg (sa sb fs : Nat) (s : State) : Res :=
  let x := (s.sfld 2 sb).toNat
  issue (.ovldReg sa sb fs) s (if 256 ≤ x then .cause 0x14 else s.ovldAct sa x fs)

/-- The entry that the token in the first uniform field names (R335, R337). -/
def State.named (s : State) (sa : Nat) : Option (Nat × LoftEntry) :=
  s.tokEntry s.core s.blk.tenant ((s.sfld 1 sa).toNat % 2 ^ 16)

/-- Explicit pins of the focused block on an entry. -/
def State.ownPins (s : State) (n : Nat) : Nat := (smGet s.blk.pins (loftKey s.core n)).getD 0

/-- Set the explicit pins of the focused block on an entry. -/
def State.setPins (s : State) (n v : Nat) : State :=
  let key := loftKey s.core n
  { s with blk := { s.blk with pins := (if v = 0 then smDel s.blk.pins key else smSet s.blk.pins key v) } }

/-- OVPIN (R83, R337). -/
def execOvpin (sa fs : Nat) (s : State) : Res :=
  let op := s.serial
  let k := (s.fsFlag fs).getD 0
  let s1 := ({ s with serial := s.serial + 1 } : State).mark k op false
  issue (.ovpin sa fs) s
    (let t : State := match s.named sa with
      | none => s1.atOnce op (some 6)
      | some (n, e) =>
        if e.st = .loading then s1.modLoft s.core n fun x => { x with waiters := x.waiters ++ [s.waiter k op true] }
        else (s1.setPins n (s.ownPins n + 1)).atOnce op (some 0)
    .go t.advance)

/-- OVUNPIN (R83, R84, R337). -/
def execOvunpin (sa fs : Nat) (s : State) : Res :=
  let op := s.serial
  let k := (s.fsFlag fs).getD 0
  let s1 := ({ s with serial := s.serial + 1 } : State).mark k op false
  issue (.ovunpin sa fs) s
    (let t : State := match s.named sa with
      | none => s1.atOnce op (some 6)
      | some (n, _) =>
        if s.ownPins n = 0 then s1.atOnce op (some 5)
        else ((s1.setPins n (s.ownPins n - 1)).atOnce op (some 0)).reapLoft s.core
    .go t.advance)

/-- OVEV (R84, R338). -/
def execOvev (sa : Nat) (s : State) : Res :=
  issue (.ovev sa) s
    (let t : State := match s.named sa with
      | none => s
      | some (n, e) =>
        if e.st = .loading then s.modLoft s.core n fun x => { x with evictMark := true }
        else if s.pinCount s.core n e = 0 then s.freeEntry s.core n
        else s.modLoft s.core n fun x => { x with st := .evictPending }
    .go t.advance)

/-- The word of R85. -/
def State.ovqWord (s : State) (tok : Nat) : Nat :=
  match s.tokEntry s.core s.blk.tenant tok with
  | none => 0
  | some (n, e) =>
    (match e.st with
      | .absent => 0
      | .loading => 1
      | .resident => 2
      | .evictPending => 3) * 2 ^ 24 + e.ovx * 2 ^ 16 + min (s.pinCount s.core n e) 65535

/-- OVQ (R85, R338). -/
def execOvq (sd st : Nat) (s : State) : Res :=
  issue (.ovq sd st) s (.go (s.sdone sd (w32 (s.ovqWord ((s.sfld 2 st).toNat % 2 ^ 16)))))

end Sys2Proof.Machine
end

