-- ==== Sys2Proof/Machine/System.lean ====
section
/-! DEFINITION. SVC, NOP, TRAP, BKPT, ERET and the hint words (R224 to R228, R343 to R353). -/

namespace Sys2Proof.Machine

/-- The eight argument words of a calling lane. -/
def State.svcArgs (s : State) (va : Nat) (l : Lane) : List Word := (group va 8).map (s.vget l)

/-- A lane entry of the request ring (R349). -/
def laneEntry (args : List Word) (tid lane num id : Nat) : List Byte :=
  (args.flatMap fun w => leBytes 4 w.toNat) ++ leBytes 4 tid ++ leBytes 1 lane ++ leBytes 1 1 ++ leBytes 2 num ++
  leBytes 8 id ++ leBytes 16 0

/-- A call record of the request ring (R349). -/
def callRecord (id mask addr gid blk wid tenant n num core : Nat) : List Byte :=
  leBytes 8 id ++ leBytes 8 mask ++ leBytes 8 addr ++ leBytes 4 gid ++ leBytes 4 blk ++ leBytes 2 wid ++
  leBytes 2 tenant ++ leBytes 1 2 ++ leBytes 1 n ++ leBytes 2 num ++ leBytes 2 core ++ leBytes 22 0

/-- Write slots at SRTAIL, one after another (R348, R410). -/
def State.ringSlots (s : State) (d : Nat) : List (List Byte) → State
  | [] => s
  | bs :: r =>
    let x := s.die d
    let tail := x.ctlNat 0xB0
    let s1 := s.farPut (x.ctl64 0xA0 + 64 * (tail % x.svcSlots)) bs
    State.ringSlots (s1.modDie d fun y => y.ctlSet 0xB0 (w32 ((tail + 1) % 2 ^ 17))) d r

/-- SVC (R348 to R351): it waits for the warp's stores and far accesses and for room in the ring, writes a
lane entry for each calling lane and the call record, and parks the warp. -/
def execSvc (va num g : Nat) (s : State) : Res :=
  let ls := s.guarded g
  let d := s.dieNo
  let x := s.die d
  issue (.svc va num g) s
    (if !s.acts g then .go s.advance
    else if s.svcStalls ls.length then .stall
    else
      let id := x.svcId
      let mask := maskOf ls
      let addr := Config.parkingAddr (4 * id + d) % 2 ^ 57
      let slots := ls.map (fun l => laneEntry (s.svcArgs va l) l.tid l.id num id) ++
        [callRecord id mask addr s.blk.grid s.blk.idx s.w.wid s.blk.tenant ls.length num s.core]
      let s1 := (s.ringSlots d slots).modDie d fun y => { y with svcId := y.svcId + 1 }
      let c : SvcCall :=
        { id := id, die := d, blk := s.blk.key, wid := s.w.wid, tenant := s.blk.tenant, num := num, mask := mask
          slots := ls.length + 1, args := ls.map fun l => (l.id, s.svcArgs va l), replies := [], consumed := false }
      let s2 := s1.mapIm fun l => if l.pget g then l else l.next
      .go { s2 with calls := s2.calls ++ [c], w := { s2.w with parked := some ⟨id, va, mask⟩ } })

/-- NOP (R347). -/
def execNop (g : Nat) (s : State) : Res := issue (.nop g) s (.go s.advance)

/-- TRAP (R344). -/
def execTrap (code g : Nat) (s : State) : Res :=
  issue (.trap code g) s
    (if !s.acts g then .go s.advance
    else s.kernelTrap (maskOf (s.guarded g)) Lane.next Lane.next ⟨2, w32 code, 0, 0, s.pc.toNat % 2 ^ 16⟩)

/-- BKPT (R347). -/
def execBkpt (g : Nat) (s : State) : Res :=
  issue (.bkpt g) s
    (if !s.acts g then .go s.advance
    else .go (s.advance.sysTrap { cause := 0x3D, mask := some (maskOf (s.guarded g)) }))

/-- ERET (R343). -/
def execEret (g : Nat) (s : State) : Res :=
  issue (.eret g) s
    (Act.require ((s.guarded g).all (·.h)) 0x10
      (Act.require (!(s.guarded g).any fun l => l.depth == 0) 0x13
        (.go ((s.mapIm fun l => if l.pget g then l.returnFrom else l.next).reapLoft s.core))))

/-! ### Hint words (R224) -/

/-- The lane has issued a hint word. -/
def Lane.hinted (f : HintRun → HintRun) (l : Lane) : Lane :=
  { l with
    pc := l.pc + 4
    clause := l.clause.map fun c => { c with left := c.left - 1, wait := 0 }
    hint := f { l.hint with start := some (l.hint.start.getD l.pc) } }

/-- Issue a hint word: a reserved field, or a run that ends the body, is illegal at the hint (R224). -/
def hintWord (i : Instr) (s : State) (boost : Bool) (f : HintRun → HintRun) : Res :=
  if s.cur.isNone then .fault .noIssuingWarp
  else
    match s.clause with
    | none => .next { s.sysTrap { cause := 0x10 } with stalled := false }
    | some c =>
      if !i.wf || decide (c.left ≤ 1) then .next { s.sysTrap { cause := 0x10 } with stalled := false }
      else
        let t := (s.mapIm (Lane.hinted f)).bump
        .next { t with stalled := false, w := { t.w with boost := if boost then t.w.boost ||| s.im else t.w.boost } }

/-- HINT.IMM (R225). -/
def execHintImm (imm : Nat) (s : State) : Res :=
  hintWord (.hintImm imm) s false fun h => { h with imm := some imm, dup := h.dup || h.imm.isSome }

/-- HINT.XV (R226). -/
def execHintXv (mp mn rm vc zi sat : Nat) (s : State) : Res :=
  hintWord (.hintXv mp mn rm vc zi sat) s false fun h =>
    { h with xv := some ⟨mp, mn, rm, vc, zi, sat⟩, dup := h.dup || h.xv.isSome }

/-- HINT.UWIN (R227). -/
def execHintUwin (k1 k2 k3 : Nat) (s : State) : Res :=
  hintWord (.hintUwin k1 k2 k3) s false fun h => { h with uwin := some (k1, k2, k3), dup := h.dup || h.uwin.isSome }

/-- HINT.SCHED (R228): a boost stands until the first choice at which the target is ready. -/
def execHintSched (act : Nat) (s : State) : Res :=
  hintWord (.hintSched act) s (act == 1) fun h =>
    { h with sched := some act, dup := h.dup || h.sched.isSome }

end Sys2Proof.Machine
end

