-- ==== Sys2Proof/Machine/SaveArea.lean ====
section
/-! DEFINITION. The save area of a swapped-out block (R91, R296, R404). -/

namespace Sys2Proof.Machine

/-- The bits set in a mask below `n`. -/
def bitsBelow (n m : Nat) : List Nat := (List.range n).filter fun i => bit m i

/-- Bytes of a warp's register section (R404). -/
def sectionSize (w vm um : Nat) : Nat := 32 + (bitsBelow 128 vm).length * (4 * w) + (bitsBelow 16 um).length * 256 + 120

/-- Predicate `p` of the lanes of a warp as a mask. -/
def Warp.predMask (w : Warp) (p : Nat) : Nat := bitsOf ((w.lanes.filter (·.pget p)).map (·.id))

/-- The bytes of a warp's register section (R404). -/
def Warp.section (w : Warp) (vm um : Nat) : List Byte :=
  leBytes 16 vm ++ leBytes 2 um ++ leBytes 2 w.wid ++ leBytes 12 0 ++
  ((bitsBelow 128 vm).flatMap fun n => w.lanes.flatMap fun l => leBytes 4 (l.vraw n).toNat) ++
  ((bitsBelow 16 um).flatMap fun k => (List.range 64).flatMap fun i => leBytes 4 ((smGet w.s (64 * k + i)).getD 0).toNat) ++
  ((List.range 15).flatMap fun p => leBytes 8 (w.predMask (p + 1)))

/-- The registers of a warp as a section leaves them; registers outside its masks are undefined (R91). -/
def Warp.restore (w : Warp) (vm um : Nat) (bs : List Byte) (ub : Nat) (u : Nat → Word) : Warp :=
  let width := w.lanes.length
  let vs := bitsBelow 128 vm
  let us := bitsBelow 16 um
  let word (i : Nat) : Word := w32 (numAt bs i 4)
  let uBase := 32 + vs.length * (4 * width)
  let pBase := uBase + us.length * 256
  let lane (l : Lane) : Lane :=
    let l1 := (List.range w.budget).foldl (fun (l : Lane) n =>
      match vs.findIdx? (· == n) with
      | some k => l.vput n (word (32 + k * (4 * width) + 4 * l.id))
      | none => if bit vm n then l else l.vput n (u (w.wid * 2 ^ 14 + l.id * 128 + n))) l
    (List.range 15).foldl (fun (l : Lane) p => l.pput (p + 1) (bit (numAt bs (pBase + 8 * p) 8) l.id)) l1
  { w with
    lanes := w.lanes.map lane
    s := (List.range ub).foldl (fun m n =>
      match us.findIdx? (· == n / 64) with
      | some k => smSet m n (word (uBase + k * 256 + 4 * (n % 64)))
      | none => smSet m n (u (2 ^ 21 + w.wid * 1024 + n))) w.s }

/-- Offset of the section of a warp in a save area. -/
def sectionAt (width : Nat) (saved : List (Nat × Nat × Nat)) (wid : Nat) : Nat :=
  64 + ((saved.filter fun x => decide (x.1 < wid)).map fun x => sectionSize width x.2.1 x.2.2).sum

/-- Where vector register `n` of a lane stands in a save area. -/
def savedReg (width : Nat) (saved : List (Nat × Nat × Nat)) (wid lane n : Nat) : Option Nat :=
  match smGet saved wid with
  | none => none
  | some (vm, _) =>
    if bit vm n && decide (n < 128) then
      some (sectionAt width saved wid + 32 + (bitsBelow n vm).length * (4 * width) + 4 * lane)
    else none

/-- Offset of the tiles in the save area of a block. -/
def State.tilesAt (s : State) (b : Block) : Nat :=
  let p := s.pktOf b
  64 + (b.saved.map fun x => sectionSize p.width x.2.1 x.2.2).sum + p.shk * 1024

/-- Accumulator tiles of a block become undefined, wherever its context lies. -/
def State.loseTiles (s : State) (b : Nat) (tiles : List Nat) : State :=
  let s1 := s.modBlock b fun k => k.undefTiles tiles fun i => s.undef (2 ^ 17 + i)
  match (s.block? b).bind fun k => k.save.map (· + s.tilesAt k) with
  | some a => { s1 with far := tiles.foldl (fun m t => smCut m (a + 4096 * t) 4096) s1.far }
  | none => s1

/-- A write of a register that windows of R124 cover: the D elements of their operations are undefined, at their end or, where
an operation has completed, at once. -/
def State.spoilBy (s : State) (b : Nat) (w : Warp) (hit : List Window) : State :=
  let (live, past) := hit.partition fun x => w.under x.op
  (s.modBlock b fun k => { k with spoiled := k.spoiled ++ live.map (·.op) }).loseTiles b (past.flatMap (·.tiles))

/-- Write vector registers of a lane of a warp wherever its context lies (R296); a window of R124 makes the
value undefined. -/
def State.putRegs (s : State) (b wid lane : Nat) : List (Nat × Word) → State
  | [] => s
  | (n, x) :: r =>
    let hit := ((s.warp? b wid).map fun w => w.windows.filter fun (y : Window) => y.covers lane n).getD []
    let x' := if hit.isEmpty then x else s.undef (2 ^ 18 + lane * 128 + n)
    let s1 := s.modWarp b wid fun w => { w with lanes := listMod w.lanes lane fun l => l.vput n x' }
    let s1 := match s.warp? b wid with
      | some w => if hit.isEmpty then s1 else s1.spoilBy b w hit
      | none => s1
    let s2 := match (s1.block? b).bind fun k => k.save.bind fun a => (savedReg (s1.pktOf k).width k.saved wid lane n).map (a + ·) with
      | some a => if hit.isEmpty then s1.farPut a (leBytes 4 x.toNat) else { s1 with far := smCut s1.far a 4 }
      | none => s1
    s2.putRegs b wid lane r

/-- Bytes of a block's save area (R404). -/
def State.saveSize (s : State) (b : Block) (saved : List (Nat × Nat × Nat)) : Nat :=
  let p := s.pktOf b
  64 + (saved.map fun x => sectionSize p.width x.2.1 x.2.2).sum + p.shk * 1024 + p.acc * 4096 + p.z * 32768

/-- Registers of a block cannot be written now: its save area cannot be reached, or stands at a frozen line (R188, R296, R423,
R426). -/
def State.regsHeld (s : State) (b : Nat) : Bool :=
  match (s.block? b).bind fun k => k.save.map fun a => (k, a) with
  | some (k, a) => s.areaHeld k.homeDie a (s.saveSize k k.saved)
  | none => false

/-- The save areas in use on a die: base and size. -/
def State.savesOn (s : State) (d : Nat) : List (Nat × Nat) :=
  (s.unfocus.blocks.filter fun b => b.2.homeDie == d).filterMap fun b =>
    b.2.save.map fun a => (a, s.saveSize b.2 b.2.saved)

/-- A range of a pool overlaps none of those in use. -/
def rangeFree (used : List (Nat × Nat)) (a n : Nat) : Bool :=
  used.all fun x => decide (a + n ≤ x.1) || decide (x.1 + x.2 ≤ a)

/-- Room of `n` bytes in a pool, at a multiple of `al`: a place the device chooses where it is free, else the
lowest free one. (DESIGN CHOICE, log 28) -/
def findRoom (used : List (Nat × Nat)) (lo hi al n pick : Nat) : Option Nat :=
  let p := lo + al * pick
  if p + n ≤ hi ∧ rangeFree used p n = true then some p
  else
    let cands := lo :: used.map fun x => lo + (x.1 + x.2 - lo + al - 1) / al * al
    cands.foldl (fun best a =>
      if a + n ≤ hi ∧ rangeFree used a n = true then
        match best with
        | some b => some (min a b)
        | none => some a
      else best) none

/-- The live mask of a PC (R91, R92); a place that has no record, such as an SVC a path stalls at, keeps nothing. (DESIGN
CHOICE, log 39) -/
def Grid.liveAt (g : Grid) (pc : Nat) : Nat × Nat :=
  match g.live.find? fun m => m.pc == pc with
  | some m => (m.vmask, m.umask)
  | none => (0, 0)

/-- The masks a warp in focus is saved with: the union over its live lanes' safe points, all ones for a
warp held for a trap (R91, R345). -/
def State.liveMasks (s : State) : Nat × Nat :=
  if s.blk.held.any (·.wid == s.w.wid) then (2 ^ 128 - 1, 2 ^ 16 - 1)
  else
    match s.grid? with
    | none => (0, 0)
    | some g =>
      (s.w.lanes.filter (·.live)).foldl (fun m l =>
        let x := g.liveAt (s.safeWord l).toNat
        (m.1 ||| x.1, m.2 ||| x.2)) (0, 0)

/-- The bytes of the save area of a block not in focus (R404). -/
def State.saveBytes (s : State) (b : Block) (saved : List (Nat × Nat × Nat)) (reason : Nat) : List (Nat × List Byte) :=
  let p := s.pktOf b
  let n := (saved.map fun x => sectionSize p.width x.2.1 x.2.2).sum
  let sh := 64 + n
  let ti := sh + p.shk * 1024
  let trap := match b.held with | h :: _ => if h.wid = 0xFFFF then 0xFF else h.wid | [] => 0xFF
  let head := leBytes 4 0x43584741 ++ leBytes 4 (s.saveSize b saved) ++ leBytes 4 b.grid ++ leBytes 4 b.idx ++
    leBytes 2 b.tenant ++ leBytes 2 b.warps.length ++ leBytes 1 p.width ++ leBytes 1 reason ++ leBytes 1 trap ++
    leBytes 1 0 ++ leBytes 8 64 ++ leBytes 8 sh ++ leBytes 8 ti ++ leBytes 16 0
  (0, head) :: ((saved.filterMap fun x =>
    (smGet b.warps x.1).map fun w => (sectionAt p.width saved x.1, w.section x.2.1 x.2.2)) ++
  [(sh, (List.range (p.shk * 1024)).map fun a => memByte b.shared (sharedTag b.key) a),
   (ti, (List.range (p.acc * 1024)).flatMap fun k => leBytes 4 ((smGet b.tiles k).getD 0).toNat)])

/-- The images of the stations of a block, after its tiles: offset in its save area and length. How a station's image
spells the plane that it holds, the manual leaves open: its bytes are free values. (DESIGN CHOICE, log 44) -/
def State.stationImages (s : State) (b : Block) (saved : List (Nat × Nat × Nat)) : Nat × Nat :=
  let n := (s.pktOf b).z * 32768
  (s.saveSize b saved - n, n)

end Sys2Proof.Machine
end

