-- ==== Sys2Proof/Machine/WarpEvents.lean ====
section
/-! DEFINITION. Events of warps and blocks: store queues, reconvergence, late lanes, the barrier, sheaves,
freeing (R32, R47, R48, R52, R53, R248, R298, R312). A step that is not enabled changes nothing. -/

namespace Sys2Proof.Machine

/-- The block's memory is at hand: it runs, and has not been stopped by a machine check or GKILL. -/
def Block.runs (b : Block) : Bool := b.core.isSome && !b.stopped

/-- Two queued stores touch a common byte. -/
def QStore.meets (a b : QStore) : Bool :=
  a.space == b.space && decide (a.addr < b.addr + b.bytes.length) && decide (b.addr < a.addr + a.bytes.length)

/-- The store is to the Granary. -/
def QStore.granary (q : QStore) : Bool :=
  match q.space with
  | .granary _ => true
  | _ => false

/-- The `n`-th queued store may leave: in order for shared memory and the spill stack, freely for the Granary and among the
bytes of one tile (R291), but for earlier stores and loads of common bytes, after the far acquires before it (R181, R298,
R305). -/
def State.mayLeave (s : State) (n : Nat) : Option QStore :=
  match s.w.queue[n]? with
  | none => none
  | some q =>
    if ((s.w.queue.take n).all fun p => (p.granary || q.granary || (q.op.isSome && p.op == q.op)) && !p.meets q) &&
        !(q.granary && s.w.gloads.any fun x => decide (x.serial < q.serial) && decide (x.addr < q.addr + q.bytes.length) &&
          decide (q.addr < x.addr + x.size)) &&
        s.answeredAll q.after then some q
    else none

/-- The byte of the Granary that a load reads: from the youngest queued store issued before it that covers it (R181). -/
def State.gloadByte (s : State) (x : GLoad) (a : Nat) : Byte :=
  match s.w.queue.reverse.find? fun q => decide (q.serial < x.serial) && q.covers (.granary s.dieNo) a with
  | some q => q.bytes.getD (a - q.addr) 0
  | none => s.rawByte (.granary s.dieNo) a

/-- Write the registers of a CVT.chk, lane by lane. -/
def State.putAll (s : State) (b w : Nat) : List (Nat × List (Nat × Word)) → State
  | [] => s
  | (lane, vals) :: r => (s.putRegs b w lane vals).putAll b w r

/-- The registers of a CVT.chk carry on what stands behind its bytes, and so does a wait on its flag (R176, R183). -/
def Orders.chkHeard (o : Orders) (tids : List (Nat × Nat)) (c : ChkOp) (flag : Option Nat) : Orders :=
  let regs := c.lanes.flatMap fun l => (tRegs c.words).map (regKey (c.blk * 4096 + (smGet tids l).getD 0))
  let o1 := o.intoRegs regs c.clk
  match flag with
  | some k => o1.owe (warpParty c.blk c.wid) k c.clk
  | none => o1

/-- A CVT.chk has every byte, or failed with a status (R292): registers and finding. -/
def State.chkEnd (s : State) (c : ChkOp) (st : Nat) : State × Nat :=
  let n := trailerAt (tCodes c.words c.sub (c.lanes.length * tElems c.words c.k)).2 + 16
  let bytes := (List.range n).map fun i => BitVec.ofNat 8 ((smGet c.bytes i).getD 0)
  let (vals, f) := chkResult c.words c.sub c.k c.lanes bytes
  let o := match s.warp? c.blk c.wid with
    | some w => s.order.chkHeard (w.lanes.map fun l => (l.id, l.tid)) c (w.flagOf c.op)
    | none => s.order
  let t : State := { s with chks := s.chks.filter fun y => y.op != c.op, order := o }
  if st = 0 then (t.putAll c.blk c.wid vals, f)
  else
    let bad := c.lanes.map fun l => (l, (tRegs c.words).map fun r => (r, s.undef (2 ^ 19 + l * 128 + r)))
    ((t.putAll c.blk c.wid bad).bump, st)

/-- A byte of a CVT.chk's tile has been read from the Granary; the operation ends with the last one (R292). -/
def State.tileByte (s : State) (x : GLoad) (v : Nat) : State :=
  let put (c : ChkOp) : ChkOp :=
    if c.op = x.reg then
      { c with bytes := smSet c.bytes x.lane v, st := if s.chipBad (.granary s.dieNo) x.addr then 0x13 else c.st }
    else c
  let t : State := { s with chks := s.chks.map put }
  if t.w.gloads.any fun y => y.dest == .tile && y.reg == x.reg then t
  else
    match t.chks.find? fun c => c.op == x.reg with
    | none => t
    | some c =>
      let (u, st) := t.chkEnd c c.st
      u.complete c.blk c.wid c.op st

/-- A load from the Granary has read bytes, those of the warp's queued stores left aside: its register carries on what they hand
on, and a release of its threads comes after it, which may be on its way (R176, R183). -/
def State.gloadHeard (s : State) (x : GLoad) : State :=
  let seen := (List.range x.size).filter fun i =>
    !s.w.queue.any fun q => decide (q.serial < x.serial) && q.covers (.granary s.dieNo) (x.addr + i)
  let got := joinClk x.clk (s.order.handed (seen.map fun i => byteKey (s.memTag (.granary s.dieNo)) (x.addr + i)))
  let keys := match x.dest with
    | .lane => s.vKeys x.lane (dataRegs x.size x.reg)
    | .uniform => s.uKeys [x.reg]
    | .tile => []
  let o := s.order.intoRegs keys got
  let release (y : FarAcc) : FarAcc :=
    if y.kind == 3 && y.blk == s.blk.key && y.wid == s.w.wid && decide (x.serial < y.queueTo) then
      { y with clk := y.clk.map fun c => if x.whos.contains c.2.1 then (c.1, c.2.1, joinClk c.2.2 got) else c }
    else y
  { s with
    order := { o with seen := addClks o.seen x.whos got }
    farQ := s.farQ.map release
    chks := s.chks.map fun (c : ChkOp) => if x.dest == .tile && c.op == x.reg then { c with clk := joinClk c.clk got } else c }

/-- The `n`-th load from the Granary that has yet to read its value reads it, unless an earlier one of common bytes is still
to come (R179, R181). A write inside a window of R124 leaves its register undefined. -/
def State.gloadRead (s : State) (n : Nat) : State :=
  match s.w.gloads[n]? with
  | none => s
  | some x =>
    if (s.w.gloads.take n).any fun y => decide (y.addr < x.addr + x.size) && decide (x.addr < y.addr + y.size) then s
    else
      let v := leNat ((List.range x.size).map fun i => s.gloadByte x (x.addr + i))
      let h := s.gloadHeard x
      let r : State := { h with w := { h.w with gloads := h.w.gloads.eraseIdx n } }
      match x.dest with
      | .lane =>
        let regs := dataRegs x.size x.reg
        (r.mapLanes fun l => if l.id = x.lane then l.vputs regs (dataWords x.size v) else l).spoil [x.lane] regs
      | .uniform => r.sput x.reg (w32 v)
      | .tile => r.tileByte x v

/-- STORE_QUEUE_DRAIN (R298): a store leaves the queue and takes effect. Numbers past the queue stand for the loads from the
Granary, which the rules of R181 order no more strictly (log 36). -/
def execStoreQueueDrain (blk wid n : Nat) (s : State) : Res :=
  let t := s.focus blk wid
  if t.cur.isNone || !t.blk.core.isSome then .next s
  else
    match t.mayLeave n with
    | none => .next (if n < t.w.queue.length then s else (t.gloadRead (n - t.w.queue.length)).bump.unfocus)
    | some q =>
      let t1 := t.storeTo q.who q.clk q.space q.addr q.bytes
      let t2 : State := { t1 with w := { t1.w with queue := t1.w.queue.eraseIdx n } }
      let t3 := match q.op with
        | none => t2
        | some o =>
          let u : State := { t2 with order := match t2.w.flagOf o with
            | some k => t2.order.owe t2.party k q.clk
            | none => t2.order }
          if u.w.queue.any fun x => x.op == some o then u else u.complete blk wid o 0
      .next t3.bump.unfocus

/-- A lane that waits where no lane of its warp is behind becomes runnable (R47). -/
def Warp.release (w : Warp) (l : Lane) : Lane :=
  if l.st == .waiting && !w.anyBehind l.depth l.pc then { l with st := .runnable } else l

/-- A late lane whose named arrival bits are all set becomes runnable (R48). -/
def Lane.wakeLate (l : Lane) : Lane :=
  if l.st == .late && l.arrivedAll l.lateMask then { l with st := .runnable, lateMask := 0 } else l

/-- RECONVERGENCE_RELEASE (R47): lanes waiting where no lane of the warp is behind become runnable. -/
def execReconvergenceRelease (blk wid : Nat) (s : State) : Res :=
  .next (s.unfocus.modWarp blk wid fun w => { w with lanes := w.lanes.map w.release })

/-- The late lanes of a warp that wake have waited on the flags they named (R183). -/
def State.lateHeard (s : State) (blk : Nat) (w : Warp) : Orders :=
  (w.lanes.filter fun l => l.st == .late && l.arrivedAll l.lateMask).foldl
    (fun o l => o.waited (warpParty blk w.wid) [blk * 4096 + l.tid] l.lateMask) s.order

/-- LATE_LANE_ARRIVAL (R48): late lanes whose named arrival bits are set become runnable. -/
def execLateLaneArrival (blk wid : Nat) (s : State) : Res :=
  let s := s.unfocus
  .next { s.modWarp blk wid fun w => { w with lanes := w.lanes.map Lane.wakeLate } with
    order := match s.warp? blk wid with
      | some w => s.lateHeard blk w
      | none => s.order }

/-- The barrier of a block may open (R312). -/
def Block.barrierReady (b : Block) : Bool :=
  (b.warps.any fun w => w.2.lanes.any fun l => l.live) &&
  (b.sheaves.all fun x => x.threads.isEmpty) &&
  b.warps.all fun w => w.2.lanes.all fun l => !l.live || (match l.arrived with
    | some a => l.st == .runnable && (w.2.queue.all fun q => decide (a ≤ q.serial)) &&
        w.2.gloads.all fun x => decide (a ≤ x.serial)
    | none => false)

/-- BARRIER_OPEN (R312). -/
def execBarrierOpen (blk : Nat) (s : State) : Res :=
  let s1 := s.unfocus
  match smGet s1.blocks blk with
  | none => .next s
  | some b =>
    if b.barrierReady && b.runs then
      .next { s1 with
        order := s1.order.barrier (sharedTag blk) (b.warps.flatMap fun w => w.2.lanes.map fun l => blk * 4096 + l.tid)
        blocks := smSet s1.blocks blk { b with
          warps := b.warps.map fun w => (w.1, { w.2 with lanes := w.2.lanes.map fun l =>
            if l.arrived.isSome then { l.next with arrived := none } else l }) } }
    else .next s

/-! ### Placement (R19, R20, R356) -/

/-- Warps resident on a core, with the block they belong to. -/
def State.residents (s : State) (core : Nat) : List (Nat × Block × Warp) :=
  s.unfocus.blocks.flatMap fun b =>
    if b.2.core.isSome then
      (b.2.warps.filter fun w => b.2.coreOf w.2 == core).map fun w => (b.1, b.2, w.2)
    else []

/-- Threads of a warp: a vacant lane holds none (R20). -/
def Warp.threads (w : Warp) : Nat := (w.lanes.filter (·.st != .vacant)).length

/-- Threads filed in the open sheaves of a block. -/
def Block.filed (b : Block) : Nat := (b.sheaves.map (·.threads.length)).sum

/-- Warp slots and threads that a core holds (R20): those of the warps that stand there, freed ones gone (R248), and the
threads in the open sheaves it keeps. A thread counts until its warp is freed. (DEDUCED, log 40) -/
def State.slotsTaken (s : State) (core : Nat) : Nat × Nat :=
  let rs := s.residents core
  (rs.length, (rs.map fun x => x.2.2.threads).sum +
    ((s.unfocus.blocks.filter fun b => b.2.core == some core).map fun b => b.2.filed).sum)

/-- The unit a warp stands in: partition, or half at W = 16. -/
def unitOf (wc : Nat) (w : Warp) : Nat := if wc = 0 then 2 * w.part + w.half else w.part

/-- Free register words of the units of a core for a packet's width (R19, R20). -/
def State.freeWords (s : State) (core : Nat) (p : Packet) : List Nat :=
  (s.residents core).foldl (fun f x => listMod f (unitOf p.wc x.2.2) (· - x.2.2.lanes.length * x.2.2.budget)) p.unitsOf

/-- The lowest free warp slot of a unit (R356). -/
def State.freeSlot (s : State) (core part half : Nat) : Nat :=
  let used := ((s.residents core).filter fun x => x.2.2.part == part && x.2.2.half == half).map (·.2.2.slot)
  ((List.range 129).find? fun n => !used.contains n).getD 0

/-- Partition and half of a unit. -/
def unitPlace (wc u : Nat) : Nat × Nat := if wc = 0 then (u / 2, u % 2) else (u, 0)

/-- A vacant lane. -/
def Lane.vacantAt (id : Nat) : Lane :=
  { id := id, tid := 0, st := .vacant, pc := 0, depth := 0, chain := [], v := [], p := 0, h := false, arr := 0xFFF
    lateMask := 0, arrived := none, join := none, spill := [], clause := none, hint := {}
    yielded := false }

/-- The template as uniform registers s0 to s63 (R16, R29). -/
def templateRegs (t : List Word) : SMap Word := (List.range t.length).zip t

/-- A warp as it starts (R16). -/
def freshWarp (wid role budget : Nat) (upper : Bool) (part half slot age : Nat) (lanes : List Lane) (s : SMap Word) : Warp :=
  { Warp.empty with
    upper := upper, wid := wid, role := role, budget := budget, lanes := lanes, s := s, part := part, half := half, slot := slot, age := age }

/-! ### Sheaves (R52, R53) -/

/-- The lowest %warpid value of a block that no warp holds: a warp that has ended has freed its own (R51), but for the values of
a set that is armed, which name its warps until the baton is idle (R318). (DEDUCED, log 40) -/
def State.freeWid (s : State) (b : Block) : Option Nat :=
  let armed (w : Nat) : Bool := b.batons.any fun x => decide (x.2.w0 ≤ w) && decide (w < x.2.w0 + x.2.c)
  (List.range (s.pktOf b).warps).find? fun w => !armed w && ((smGet b.warps w).map (·.over)).getD true

/-- A warp whose operations an ended warp's are from now on. -/
def renamed (blk wid k : Nat) (b w : Nat) : Nat := if b = blk ∧ w = wid then k else w

/-- The flags an engine operation clears, under another number of their warp. -/
def EngineEntry.renamed (blk wid k : Nat) (e : EngineEntry) : EngineEntry :=
  { e with flags := e.flags.map fun x => (Machine.renamed blk wid k e.blk x.1, x.2) }

/-- A loading overlay and what waits for it, under another number of a warp. -/
def LoftEntry.renamed (blk wid k : Nat) (e : LoftEntry) : LoftEntry :=
  { e with
    waiters := e.waiters.map fun x => { x with wid := Machine.renamed blk wid k x.blk x.wid }
    due := e.due.map fun x => (x.1, Machine.renamed blk wid k x.1 x.2.1, x.2.2) }

/-- What a plane engine has in hand, under another number of a warp. -/
def Session.renamed (blk wid k : Nat) (x : Session) : Session :=
  { x with
    upds := x.upds.map fun u => { u with wid := Machine.renamed blk wid k u.blk u.wid }
    ops := x.ops.map fun o => { o with wid := Machine.renamed blk wid k o.blk o.wid } }

/-- A %warpid passes to a new warp (R51, R53). An ended warp that still has it keeps its slot and its registers, with what
is in flight for it, until they are freed (R248), under a number of the MODEL's own that is equal to its %warpid modulo
2^16. -/
def State.retire (s : State) (blk wid : Nat) : State :=
  match (smGet s.blocks blk).bind fun b => smGet b.warps wid with
  | none => s
  | some old =>
    let k := wid + 2 ^ 16 * s.serial
    let heir (b w : Nat) : Nat := renamed blk wid k b w
    let gone (x : IssueState) : IssueState := if x.last = some (blk, wid) then { x with standing := false } else x
    { s with
      serial := s.serial + 1
      issue := s.issue.map fun x => (x.1, gone x.2)
      blocks := smMod s.blocks blk fun b => { b with warps := smSet (smDel b.warps wid) k { old with wid := k } }
      farQ := s.farQ.map fun x => { x with wid := heir x.blk x.wid }
      chks := s.chks.map fun x => { x with wid := heir x.blk x.wid }
      copies := s.copies.map fun x => { x with wid := heir x.blk x.wid }
      engines := s.engines.map fun t => (t.1, t.2.map (EngineEntry.renamed blk wid k))
      loft := s.loft.map fun e => (e.1, e.2.renamed blk wid k)
      session := s.session.map (Session.renamed blk wid k) }

/-- Every thread of the block that has not exited is filed in a sheaf (R52). -/
def Block.allFiled (b : Block) : Bool := b.warps.all fun w => w.2.over

/-- The sheaf that issues next: due, or with every thread filed, the first filed first (R52). -/
def Block.dueSheaf (b : Block) : Option Sheaf := b.sheaves.find? fun x => x.due || b.allFiled

/-- With every thread filed, every open sheaf of the block is due from then on (R52). -/
def Block.nowDue (b : Block) : Block :=
  if b.allFiled then { b with sheaves := b.sheaves.map fun (x : Sheaf) => { x with due := true } } else b

/-- SHEAF_ISSUE (R51 to R53, R55, R356): the warp runs on the core that keeps the sheaf, whatever its %warpid. It also waits
for a warp slot and for the register words of its unit, which a freed warp has given up (R248). (DESIGN CHOICE, log 40) -/
def execSheafIssue (blk : Nat) (s : State) : Res :=
  let s1 := s.unfocus
  match smGet s1.blocks blk with
  | none => .next s
  | some b0 =>
    let b := b0.nowDue
    let wait : State := { s1 with blocks := smSet s1.blocks blk b }
    match b.dueSheaf, s1.freeWid b with
    | some sh, some wid =>
      let p := s1.pktOf b
      let core := b.onCore
      let free := s1.freeWords core p
      let u := mostFree free
      if !b.runs || decide (128 ≤ (s1.slotsTaken core).1) || decide (free.getD u 0 < p.width * sh.budget) then .next wait
      else
        let (part, half) := unitPlace p.wc u
        let lanes := (List.range p.width).map fun i =>
          match sh.threads[i]? with
          | some l => { l with id := i, arr := 0xFFF, hint := {} }
          | none => Lane.vacantAt i
        let regs := (List.range (p.ub - 64)).foldl (fun m i => smSet m (64 + i) (s1.undef i)) (templateRegs b.template)
        let age := (s1.die (coreDie core)).clock * 2 ^ 32 + (2 ^ 32 - 1)
        let w := freshWarp wid sh.role sh.budget false part half (s1.freeSlot core part half) age lanes regs
        let t := wait.retire blk wid
        .next ({ t with
          serial := t.serial + 1
          order := t.order.newWarp (warpParty blk wid)
          blocks := smMod t.blocks blk fun c => { c with
            sheaves := b.sheaves.erase sh, warps := smSet c.warps wid w, ended := smDel b.ended wid } } : State).bump
    | _, _ => .next wait

/-- SHEAF_AGE_LIMIT (R52, R369). -/
def execSheafAgeLimit (blk n : Nat) (s : State) : Res :=
  let s1 := s.unfocus
  match smGet s1.blocks blk with
  | none => .next s
  | some b =>
    let d := s1.die (coreDie b.onCore)
    if b.core.isNone then .next s
    else
      let aged (x : Sheaf) : Sheaf :=
        if x.since + d.sheafAge (b.onCore % 48) ≤ d.clock then { x with due := true } else x
      .next { s1 with blocks := smSet s1.blocks blk { b with sheaves := listMod b.sheaves n aged } }

/-! ### Freeing (R32, R248) -/

/-- An ended warp may be freed. -/
def Warp.freeable (w : Warp) : Bool := w.over && w.flagsClear 0xFFF && w.queue.isEmpty && w.gloads.isEmpty

/-- The cores on which a block's explicit pins stand. -/
def Block.pinCores (b : Block) : List Nat := (b.pins.map fun x => x.1 / 256).eraseDups

/-- A block has gone, and with it its pins, wherever they stood (R84), and the claim of one that made room for it (R386). -/
def State.blockGone (s : State) (blk core : Nat) : State :=
  let pins := ((smGet s.blocks blk).map Block.pinCores).getD []
  let free (b : Block) : Block := if b.roomFor = some blk then { b with roomFor := none } else b
  let s1 : State := { s with
    blocks := (smDel s.blocks blk).map fun b => (b.1, free b.2)
    calls := s.calls.filter fun c => c.blk != blk || !c.consumed }
  (core :: (core + 1) :: pins).foldl (fun s c => s.reapLoft c) s1

/-- A block whose threads have all exited ends (R32). -/
def State.endBlock (s : State) (blk : Nat) : State :=
  match smGet s.blocks blk with
  | none => s
  | some b =>
    if b.warps.isEmpty && b.sheaves.isEmpty then
      ({ s with grids := smMod s.grids b.grid fun g => { g with blocksEnded := g.blocksEnded + 1 } } : State).blockGone
        blk b.onCore
    else s

/-- WARP_FREE (R36, R248): the slot and the registers of an ended warp are free; the last one ends the
block. -/
def execWarpFree (blk wid : Nat) (s : State) : Res :=
  let s1 := s.unfocus
  match smGet s1.blocks blk with
  | none => .next s
  | some b =>
    match smGet b.warps wid with
    | none => .next s
    | some w =>
      if w.freeable then
        let mask := maskOf (w.lanes.filter (·.st != .vacant))
        let gone (x : IssueState) : IssueState := if x.last = some (blk, wid) then { x with standing := false } else x
        .next (({ s1 with
          issue := s1.issue.map fun x => (x.1, gone x.2)
          blocks := smSet s1.blocks blk { b with
            warps := smDel b.warps wid, ended := smSet b.ended wid mask } } : State).endBlock blk)
      else .next s

end Sys2Proof.Machine
end

