-- ==== Sys2Proof/Machine/FarEvents.lean ====
section
/-! DEFINITION. Line accesses on their way: performing, replies, acknowledgements, timeouts (R159 to R174,
R188, R292, R296, R304 to R307, R392). A step that is not enabled changes nothing. -/

namespace Sys2Proof.Machine

/-- An earlier access `y` keeps `x` from leaving: the hold of R166, or an acquire whose reply it waits for (R173,
R305). -/
def FarAcc.heldBy (x y : FarAcc) : Bool :=
  decide (y.id < x.id) && !y.acked &&
  ((y.blk == x.blk && y.wid == x.wid && lineOf y.loc == lineOf x.loc && !(x.cls == 0 && y.cls == 0)) ||
   x.after.contains y.id)

/-- Two class O accesses go one behind the other (R164): the same core sends them, or the same warp, which may have moved
to another core in between (R167), to one target in one plane. -/
def FarAcc.inLine (x y : FarAcc) : Bool :=
  decide (y.id < x.id) && x.cls == 0 && y.cls == 0 && (y.core == x.core || (y.blk == x.blk && y.wid == x.wid)) &&
  locTarget y.loc == locTarget x.loc && planeOf y.loc == planeOf x.loc

/-- An earlier access `y` keeps `x` from being performed: it holds `x`, comes first in the FIFO of R164, or stands at a
frozen line (R188). -/
def State.keepsBack (s : State) (x y : FarAcc) : Bool :=
  x.heldBy y || (x.inLine y && y.stage == 0) || decide (y.id < x.id) &&
  ((x.cls == 0 && y.stage == 0 && decide (2 ≤ y.kind) && y.core == x.core && planeOf y.loc == planeOf x.loc &&
     s.frozen y.loc))

/-- The warp has no load numbered below `n` from the Granary that is still to read its value (R183). -/
def State.loadsBelow (s : State) (b w n : Nat) : Bool :=
  match s.warp? b w with
  | some x => x.gloads.all fun q => decide (n ≤ q.serial)
  | none => true

/-- A release may be sent: what it covers is completed (R172), and the warp's earlier stores and loads are over (R183). -/
def State.mayRelease (s : State) (x : FarAcc) : Bool :=
  x.kind != 3 || (s.farDone x.blk x.wid x.set x.scope x.op && s.queueBelow x.blk x.wid x.queueTo &&
    s.loadsBelow x.blk x.wid x.queueTo)

/-- A line access can reach its home now; one on its way is not stopped by a drain (R409). -/
def State.canPerform (s : State) (x : FarAcc) : Bool :=
  x.stage == 0 && !(if x.born.isSome then s.cut (coreDie x.core) x.loc else s.shut (coreDie x.core) x.loc) &&
  !(decide (2 ≤ x.kind) && s.frozen x.loc) && (s.farQ.all fun y => !s.keepsBack x y) && s.mayRelease x

/-- Change a line access. -/
def State.modAcc (s : State) (id : Nat) (f : FarAcc → FarAcc) : State :=
  { s with farQ := s.farQ.map fun x => if x.id = id then f x else x }

/-- Write far bytes of one line; those whose home is host memory stand in the endpoint under the number `id` until performed
there (R169, R174, R188). -/
def State.farWrite (s : State) (id loc : Nat) (bs : List Byte) : State :=
  let t := s.farPut loc bs
  if locHost (s.home loc) then { t with hostQ := t.hostQ ++ [(id, s.home loc, bs)] } else t

/-- Offset and size of the plane element that holds byte `o` of a tensor's plane block; none between the planes
(R144). -/
def Tensor.elemAt (t : Tensor) (o : Nat) : Option (Nat × Nat) :=
  let n := 32768 * ((t.nel + 32767) / 32768)
  let (p, sz) := if o < 4 * n then (o / (2 * n) * (2 * n), 2) else (o / (4 * n) * (4 * n), 4)
  if o < 28 * n ∧ (o - p) / sz < t.nel then some (o / sz * sz, sz) else none

/-- The pages of a tensor's plane block: offset, and locator where it is mapped. -/
def State.planePages (s : State) (tenant : Nat) (t : Tensor) : List (Nat × Nat) :=
  (List.range ((28 * (32768 * ((t.nel + 32767) / 32768)) + 65535) / 65536)).filterMap fun i =>
    match s.translate t.hdie tenant 0 (t.base + 65536 * i) with
    | .ok l => some (65536 * i, l)
    | .bad _ _ => none

/-- Bytes become undefined, for the island and for host processors: at their homes, and where an endpoint holds them (R145). -/
def State.blank (s : State) (cells : List Nat) : State :=
  let held (q : Nat × Nat × List Byte) : List Byte :=
    q.2.2.zipIdx.map fun b => if cells.contains (q.2.1 + b.2) then Config.freeByte farTag (q.2.1 + b.2) else b.1
  { s with
    far := cells.foldl smDel s.far
    hostView := cells.foldl smDel s.hostView
    hostQ := s.hostQ.map fun q => (q.1, q.2.1, held q) }

/-- The locators whose data is where a locator is at home: itself, and those that moves have led from (R406). -/
def State.leadTo (s : State) : Nat → Nat → List Nat
  | 0, h => [h]
  | n + 1, h => h :: s.moves.flatMap fun m => if m.dst ≤ h ∧ h < m.dst + m.size then s.leadTo n (m.src + (h - m.dst)) else []

/-- The locators of a byte: by which a translation made before a move or after it may name it (R407). -/
def State.aliases (s : State) (loc : Nat) : List Nat := ((s.leadTo 4 (s.home loc)).filter fun a => s.home a == s.home loc).eraseDups

/-- The bytes of the plane elements of the live session that bytes touch, whatever translation a write was made with (R144,
R145, R407). -/
def State.planeCells (s : State) (loc n : Nat) : List Nat :=
  match s.session with
  | none => []
  | some x =>
    x.valid.flatMap fun t => (s.planePages x.tenant t.2).flatMap fun p =>
      ((List.range n).flatMap fun i => s.aliases (loc + i)).flatMap fun a =>
        if p.2 ≤ a ∧ a < p.2 + 65536 then
          match t.2.elemAt (p.1 + (a - p.2)) with
          | some (o, sz) => (List.range sz).map fun i => s.home (p.2 + (o - p.1) + i)
          | none => []
        else []

/-- Bytes become undefined, if there are any. -/
def State.blankAny (s : State) (cells : List Nat) : State := if cells.isEmpty then s else s.blank cells

/-- A write by software to far memory: elements of a live session's planes that it touches become undefined (R145). -/
def State.softWrite (s : State) (id loc : Nat) (bs : List Byte) : State :=
  (s.farWrite id loc bs).blankAny (s.planeCells loc bs.length)

/-- The lanes of a write are performed one after another (R73). -/
def State.writeLanes (s : State) (id size : Nat) : List (Nat × Nat × Nat × Nat × Nat) → State
  | [] => s
  | (_, loc, _, x, _) :: r => (s.softWrite id loc (leBytes size x)).writeLanes id size r

/-- The bytes of a lane's part of a line access, as keys. -/
def State.farKeys (s : State) (x : FarAcc) (lane : Nat) : List Nat :=
  (x.lanes.filter (·.1 == lane)).flatMap fun l => s.locKeys l.2.1 x.size

/-- The keys under which a thread's line accesses come one after another: those to a line, and in class O those to a target in a
plane (R182). -/
def fifoKeys (x : FarAcc) (who : Nat) : List Nat :=
  2 * (who * 2 ^ 60 + lineOf x.loc) :: if x.cls = 0 then [2 * (who * 2 ^ 60 + locTarget x.loc * 8 + planeOf x.loc) + 1] else []

/-- What a lane's part of a line access comes after once it is performed, and what it has read there (R176, R182). -/
def State.farLearns (s : State) (x : FarAcc) (c : Nat × Nat × SMap Nat) : SMap Nat :=
  joinClk (joinClk c.2.2 (clkOver s.order.fifo (fifoKeys x c.2.1)))
    (if x.kind = 2 ∨ x.kind = 3 then [] else s.order.handed (s.farKeys x c.1))

/-- A release `y` of the same warp comes after a line access by its class set and scope (R183). -/
def State.releases (s : State) (x y : FarAcc) : Bool :=
  y.kind == 3 && y.blk == x.blk && y.wid == x.wid && decide (x.id < y.id) && setHas y.set x.cls &&
    (decide (x.kind ≤ 1) || decide (4 ≤ y.scope) || locHere (s.home x.loc))

/-- What a performed line access means for the order of R26: a write hands on what it comes after, and with a read what it has
read; its registers carry that on; a wait on its flag, a fence or release that covers it, and all that follows an acquire,
come after it (R173, R176, R182, R183, R185). -/
def State.noteOrder (s : State) (x : FarAcc) : State :=
  let part (o : Orders) (c : Nat × Nat × SMap Nat) : Orders :=
    let who := c.2.1
    let got := s.farLearns x c
    let beyond := decide (2 ≤ x.kind) && !locHere (s.home x.loc)
    let regs := if s.chks.any (·.op == x.op) then [] else (x.lanes.filter (·.1 == c.1)).flatMap fun l => (dataRegs x.size l.2.2.1).map (regKey who)
    let o1 := if x.kind = 2 ∨ x.kind = 3 then o else o.intoRegs regs got
    let o2 := if x.kind ≤ 1 then o1 else o1.give (s.farKeys x c.1) got
    let o3 := match x.flag with
      | some k => o2.owe who k got
      | none => o2
    let o4 := { o3 with
      farSeen := addClk o3.farSeen (classKey who x.cls beyond) got
      fifo := addClks o3.fifo (fifoKeys x who) got }
    if x.kind = 1 then o4.learn [who] got true else o4
  let got (who : Nat) : SMap Nat := (x.clk.filter (·.2.1 == who)).foldl (fun c y => joinClk c (s.farLearns x y)) []
  let all : SMap Nat := x.clk.foldl (fun c y => joinClk c (s.farLearns x y)) []
  let later (acq : List Nat) (c : SMap Nat) : SMap Nat := if acq.contains x.id then joinClk c all else c
  let access (y : FarAcc) : FarAcc :=
    if y.after.contains x.id || s.releases x y then
      { y with clk := y.clk.map fun c => (c.1, c.2.1, joinClk c.2.2 (got c.2.1)) }
    else y
  let t : State := { s with
    order := x.clk.foldl part s.order
    chks := s.chks.map fun (y : ChkOp) => if y.op = x.op then { y with clk := joinClk y.clk all } else y
    farQ := s.farQ.map access }
  let store (q : QStore) : QStore := if q.after.contains x.id then { q with clk := joinClk q.clk (got q.who) } else q
  if x.kind = 1 then
    let t := t.modWarp x.blk x.wid fun w => { w with queue := w.queue.map store }
    { t with
      copies := t.copies.map fun c => { c with clk := later c.after c.clk }
      engines := t.engines.map fun e => (e.1, e.2.map fun y => { y with clk := later y.acq y.clk })
      session := t.session.map fun p => { p with
        upds := p.upds.map fun u => { u with clk := later u.acq u.clk }
        ops := p.ops.map fun o => { o with clk := later o.acq o.clk } }
      loft := t.loft.map fun e => (e.1, { e.2 with clk := later ((e.2.due.map (·.2.2.2)).getD []) e.2.clk }) }
  else t

/-- A home performs a line access (R159, R160, R307). -/
def State.perform (s0 : State) (x : FarAcc) : State :=
  let s1 := s0.noteOrder x
  let s := if x.kind = 2 ∨ x.kind = 3 then s1 else s1.sawHost (x.lanes.map fun l => (l.2.1, x.size))
  if x.kind = 2 ∨ x.kind = 3 then
    (s.writeLanes x.id x.size x.lanes).modAcc x.id fun y => { y with stage := if locHost (s.home x.loc) then 1 else 2 }
  else if s.bad x.loc 1 then s.modAcc x.id fun y => { y with stage := 2, st := if y.st = 0 then 0x13 else y.st }
  else
    let got := x.lanes.map fun l => (l.1, s.farNat l.2.1 x.size)
    let t := s.modAcc x.id fun y => { y with stage := 2, got := got }
    if x.kind = 4 then
      match x.lanes with
      | (_, loc, _, a, b) :: _ => t.softWrite x.id loc (leBytes x.size (atomOp x.aop x.aty (s.farNat loc x.size) a b))
      | [] => t
    else t

/-- Accesses that nothing more waits for go: answered, and for a write to host memory performed there. -/
def State.sweep (s : State) : State :=
  let gone (x : FarAcc) : Bool := x.acked && decide (2 ≤ x.stage) && s.hostQ.all fun q => q.1 != x.id
  { s with farQ := s.farQ.filter fun x => !gone x }

/-- The endpoint performs the writes it holds under a number in host memory: for one line in the order in which it accepted
them, the line's one coherence order (R160, R179), and for class O in the order of R164, atomics among them (R169, R187);
after those accepted before them that the island has read (R178, R190); those at a frozen line wait (R188). -/
def State.hostPerform (s : State) (id : Nat) : State :=
  let mine := s.hostQ.filter fun q => q.1 == id
  let later := s.hostQ.filter fun q => q.1 != id
  let before := s.hostQ.takeWhile fun q => q.1 != id
  let held := before.any fun q => s.hostSeen.contains q.1 || mine.any fun m => lineOf m.2.1 == lineOf q.2.1
  let fifo := s.farQ.any fun x => x.id == id && s.farQ.any fun y => x.inLine y && later.any fun q => q.1 == y.id
  let ice := mine.any fun m => s.frozen m.2.1
  let told (o : Orders) (a : Nat) : Orders :=
    if later.any fun q => decide (q.2.1 ≤ a) && decide (a < q.2.1 + q.2.2.length) then o
    else o.give [byteKey hostTag a] (o.handed [byteKey farTag a])
  if mine.isEmpty || held || fifo || ice then s
  else
    let t : State := { s with
      order := (mine.flatMap fun q => (List.range q.2.2.length).map (q.2.1 + ·)).foldl told s.order
      hostQ := later
      hostSeen := s.hostSeen.filter (· != id)
      hostView := mine.foldl (fun m q => memWrite m q.2.1 q.2.2) s.hostView }
    (t.modAcc id fun x => { x with stage := 2 }).sweep

/-- LINE_ACCESS_PERFORM (R159, R160): a home performs a line access, or an endpoint a write it accepted. -/
def execLineAccessPerform (id : Nat) (s : State) : Res :=
  let s := s.unfocus
  match s.farQ.find? fun x => x.id == id && x.stage == 0 with
  | some x => if s.canPerform x then .next (s.perform x) else .next s
  | none => .next (s.hostPerform id)

/-! ### Replies -/

/-- The registers a reply writes in a lane (R304, R307). -/
def FarAcc.regs (x : FarAcc) (vd v : Nat) : List (Nat × Word) :=
  if x.size = 8 then [(vd, lo32 v), (vd + 1, hi32 v)] else [(vd, w32 v)]

/-- Write the destinations of a reply, lane by lane; undefined where it failed (R304). -/
def State.replyLanes (s : State) (x : FarAcc) : List (Nat × Nat × Nat × Nat × Nat) → State
  | [] => s
  | (lane, _, vd, _, _) :: r =>
    let vals := match smGet x.got lane with
      | some v => x.regs vd v
      | none => (x.regs vd 0).map fun p => (p.1, s.undef (2 ^ 19 + lane * 128 + p.1))
    (s.putRegs x.blk x.wid lane vals).replyLanes x r

/-- A far load's lanes get their arrival bits when nothing of their flag is outstanding (R251). -/
def State.arrive (s : State) (x : FarAcc) : State :=
  match x.flag with
  | none => s
  | some k =>
    s.modWarp x.blk x.wid fun w =>
      let owed (lane : Nat) : Bool := s.farQ.any fun y =>
        y.id != x.id && y.blk == x.blk && y.wid == x.wid && decide (y.kind ≤ 1) && y.flag == some k && !y.acked &&
        (s.chks.all fun c => c.op != y.op) && y.lanes.any fun l => l.1 == lane
      let here (l : Lane) : Lane :=
        if (x.lanes.any fun y => y.1 == l.id) && !owed l.id then l.setArrival k true else l
      { w with
        lanes := w.lanes.map here
        pend := w.pend.filter fun p => !(p.op == x.op && x.lanes.any fun y => y.1 == p.lane) }

/-- The bytes of a CVT.chk's tile that a reply brings (R292). -/
def ChkOp.take (c : ChkOp) (x : FarAcc) : ChkOp := { c with bytes := smSets c.bytes x.got }

/-- An access is answered with what it has: its operation completes with the last one, with the first
nonzero status (R159, R304). -/
def State.answered (s : State) (x : FarAcc) : State :=
  let t := s.modAcc x.id fun y => { y with acked := true }
  let t : State := { t with farQ := t.farQ.map fun (y : FarAcc) =>
    if y.op = x.op ∧ y.st = 0 then { y with st := x.st } else y }
  if t.farQ.any fun y => y.op == x.op && !y.acked then t.sweep
  else
    match t.chks.find? fun c => c.op == x.op with
    | some c =>
      let (t1, st) := t.chkEnd c x.st
      (t1.complete x.blk x.wid x.op st).sweep
    | none => (t.complete x.blk x.wid x.op x.st).sweep

/-- The reply of a read or an atomic arrives (R304). -/
def State.reply (s : State) (x : FarAcc) : State :=
  if s.chks.any fun c => c.op == x.op then
    ({ s with chks := s.chks.map fun (c : ChkOp) => if c.op = x.op then c.take x else c } : State).answered x
  else
    let t := (s.replyLanes x x.lanes).bump
    (if x.kind ≤ 1 then t.arrive x else t).answered x

/-- FAR_REPLY (R159, R304). -/
def execFarReply (id : Nat) (s : State) : Res :=
  let s := s.unfocus
  match s.farQ.find? fun x => x.id == id && x.stage == 2 && !x.acked && x.kind != 2 && x.kind != 3 with
  | some x => .next (if s.regsHeld x.blk then s else s.reply x)
  | none => .next s

/-- FAR_ACKNOWLEDGEMENT (R159, R306): a release answers when it is completed at its own scope. -/
def execFarAcknowledgement (id : Nat) (s : State) : Res :=
  let s := s.unfocus
  match s.farQ.find? fun x => x.id == id && decide (1 ≤ x.stage) && !x.acked && (x.kind == 2 || x.kind == 3) with
  | some x => if x.kind = 3 ∧ !s.completeAt x x.scope then .next s else .next (s.answered x)
  | none => .next s

/-- A line access is given up (R392): status 0x0017, destinations undefined, a write performed or not, where nothing that it
comes after is still to be performed (R164, R167, R172, R188). -/
def State.giveUp (s : State) (x : FarAcc) : State :=
  let may := (s.farQ.all fun y => !s.keepsBack x y) && s.mayRelease x && !(decide (2 ≤ x.kind) && s.frozen x.loc)
  let s1 := if x.stage = 0 ∧ may = true ∧ s.choice x.id % 2 = 1 then s.perform x else s
  let y := { x with got := [], st := if x.st = 0 then 0x17 else x.st }
  let s2 := (s1.modAcc x.id fun z => { z with stage := 2, got := [] }).bump
  if x.kind = 2 ∨ x.kind = 3 then s2.answered y else s2.reply y

end Sys2Proof.Machine
end

