-- ==== Sys2Proof/Machine/CopyEvents.lean ====
section
/-! DEFINITION. The copy units: acceptance, elements, the Thresher, drops, stamps (R131 to R142).
A step that is not enabled changes nothing. -/

namespace Sys2Proof.Machine

/-- Change a copy. -/
def State.modCopy (s : State) (id : Nat) (f : Copy → Copy) : State :=
  { s with copies := s.copies.map fun c => if c.id = id then f c else c }

/-- The copy of a number. -/
def State.copy? (s : State) (id : Nat) : Option Copy := s.copies.find? fun c => c.id == id

/-- The stamp or flag status of a failed walk (R135). Which code a malformed entry or an error in a table
gives, the manual leaves open. (DESIGN CHOICE, log 13) -/
def transStatus (detail : Nat) : Nat :=
  if detail % 16 = 1 then 0x11
  else if detail % 16 = 2 then 0x12
  else 0x11 + Config.freeNat (2 ^ 71 + detail) % 3

/-- Write bytes of a block's shared memory, into its save area while it is swapped out (R403, R404).
(DEDUCED, log 14) -/
def State.putShared (s : State) (b a : Nat) (bs : List Byte) : State :=
  match s.block? b with
  | none => s
  | some k =>
    match k.core, k.save with
    | none, some v =>
      let w := (s.pktOf k).width
      (s.farPut (v + 64 + (k.saved.map fun x => sectionSize w x.2.1 x.2.2).sum + a) bs).modBlock b fun k =>
        { k with shared := memWrite k.shared a bs }
    | _, _ => s.modBlock b fun k => { k with shared := memWrite k.shared a bs }

/-- A byte of a block's shared memory, from its save area while it is swapped out. -/
def State.sharedByte (s : State) (b a : Nat) : Byte :=
  match s.block? b with
  | none => Config.freeByte (sharedTag b) a
  | some k =>
    match k.core, k.save with
    | none, some v =>
      let w := (s.pktOf k).width
      s.farByte (v + 64 + (k.saved.map fun x => sectionSize w x.2.1 x.2.2).sum + a)
    | _, _ => memByte k.shared (sharedTag b) a

/-! ### Acceptance (R133, R134) -/

/-- An earlier copy of the block keeps a copy from being accepted: permits of theirs would overlap, and not
both are source permits (R134). -/
def permitClash (c e : Copy) : Bool :=
  let mine := [(c.walk.dsp, c.walk.dstRange, true), (c.walk.ssp, c.walk.srcRange, false)]
  let theirs :=
    (if e.landOn || !e.accepted then [(e.walk.dsp, e.walk.dstRange, true)] else []) ++
    (if e.srcOn || !e.accepted then [(e.walk.ssp, e.walk.srcRange, false)] else [])
  decide (e.id < c.id) && e.blk == c.blk &&
    mine.any fun m => m.1 != 2 && theirs.any fun t => t.1 == m.1 && overlaps m.2.1 t.2.1 && (m.2.2 || t.2.2)

/-- A copy can be accepted: the stores and the acquires before it are over, no permit is in the way, and a
block with a side in its shared memory is resident. -/
def State.canAccept (s : State) (c : Copy) : Bool :=
  let here := match s.block? c.blk with
    | some b => b.core.isSome
    | none => true
  !c.accepted && ((c.walk.dsp != 0 && c.walk.ssp != 0) || here) && s.mayBegin c.blk c.wid c.op c.after &&
    s.copies.all fun e => !permitClash c e

/-- Where the stamp slot lies, or the status it fails with (R133). -/
def State.slotOf (s : State) (c : Copy) : Nat ⊕ Nat :=
  if c.walk.stsp ≠ 2 then .inl c.walk.stampa
  else if !vaOk c.walk.stampa then .inr 0x14
  else
    match s.translate c.die c.tenant 1 c.walk.stampa with
    | .ok l => .inl l
    | .bad d _ => .inr (transStatus d)

/-- COPY_ACCEPT (R133, R134). -/
def execCopyAccept (id : Nat) (s : State) : Res :=
  let s := s.unfocus
  match s.copy? id with
  | none => .next s
  | some c =>
    if !s.canAccept c then .next s
    else
      match s.slotOf c with
      | .inl l =>
        let t := if c.walk.stsp = 2 then s.keep c.die c.tenant 1 c.walk.stampa else s
        let t := t.modCopy id fun c =>
          { c with accepted := true, slot := l, landOn := c.walk.dsp != 2, srcOn := c.walk.ssp != 2 }
        .next (t.complete c.blk c.wid c.op 0)
      | .inr st =>
        .next (({ s with copies := s.copies.filter fun x => x.id != id } : State).complete c.blk c.wid c.op st)

/-! ### Elements -/

/-- What reading or reaching one side gives: bytes, a wait, or a failure with status, detail, last entry. -/
inductive Reach where
  | ok (loc : Nat) (bytes : List Byte)
  | hold
  | bad (st detail loc : Nat)
  deriving DecidableEq, Repr

/-- The youngest byte of a copy on its way to a place. -/
def Copy.pending (c : Copy) (a : Nat) : Option Byte :=
  (c.out.reverse.find? fun p => decide (p.loc ≤ a) && decide (a < p.loc + p.bytes.length)).bind fun p => p.bytes[a - p.loc]?

/-- Bytes of the source as a copy reads them: where both sides are one memory, its own bytes on their way come first
(R131). -/
def Copy.overlay (c : Copy) (a : Nat) (bs : List Byte) : List Byte :=
  if c.walk.ssp = c.walk.dsp ∧ c.out.isEmpty = false then
    bs.zipIdx.map fun b => (c.pending (a + b.2)).getD b.1
  else bs

/-- The lines that `n` bytes at a locator touch, each by its first of them. -/
def linesAt (loc n : Nat) : List Nat :=
  (List.range ((loc % 64 + n + 63) / 64)).map fun i => if i = 0 then loc else (loc / 64 + i) * 64

/-- Reach `n` far bytes of one page for a copy (R71, R131, R135): to read them (need 0), where every line can be had; or to
write them (need 1), where the beat of every line can leave, answered or not. -/
def State.copyFar (s : State) (c : Copy) (need a n : Nat) : Reach :=
  if !vaOk a then .bad 0x14 0 0
  else if s.heldVa c.die c.tenant a then .hold
  else
    match s.translate c.die c.tenant need a with
    | .bad d l => .bad (transStatus d) d l
    | .ok l =>
      if (linesAt l n).any fun x => if need = 0 then s.shut c.die x else s.barred c.die x then .hold
      else if need = 1 then .ok l []
      else if s.bad l n then .bad 0x13 0 0
      else .ok l (c.overlay l (s.farBytes l n))

/-- An on-chip source byte has an uncorrectable error (R135). -/
def State.srcBroken (s : State) (c : Copy) (a n : Nat) : Bool :=
  (List.range n).any fun i => s.badChip.contains (if c.walk.ssp = 0 then sharedTag c.blk else c.die, a + i)

/-- Read on-chip source bytes. -/
def State.copyChip (s : State) (c : Copy) (a n : Nat) : Reach :=
  if s.srcBroken c a n then .bad 0x13 0 0
  else if c.walk.ssp = 0 then .ok 0 (c.overlay a ((List.range n).map fun i => s.sharedByte c.blk (a + i)))
  else .ok 0 (c.overlay a (memBytes (s.die c.die).granary c.die a n))

/-- Read a source element. -/
def State.copyRead (s : State) (c : Copy) (a : Int) : Reach :=
  if c.walk.ssp = 2 then s.copyFar c 0 a.toNat c.walk.size else s.copyChip c a.toNat c.walk.size

/-- Reach a destination. -/
def State.copyReach (s : State) (c : Copy) (a : Int) : Reach :=
  if c.walk.dsp = 2 then s.copyFar c 1 a.toNat c.walk.size else .ok a.toNat []

/-- Write bytes of an on-chip destination: those that a store has disturbed under the permit stay as undefined as they are
(R134). -/
def State.chipLand (s : State) (c : Copy) (a : Nat) : List Byte → State
  | [] => s
  | b :: r =>
    (if c.spoilt.contains a then s
     else if c.walk.dsp = 0 then s.putShared c.blk a [b]
     else s.modDie c.die fun d => { d with granary := memWrite d.granary a [b] }).chipLand c (a + 1) r

/-- A copy of a grid has made a write to host memory: its grid retires after it (R378). -/
def State.hostWrote (s : State) (c : Copy) (n : Nat) : State :=
  { s with grids := smMod s.grids c.grid fun g => { g with hostOut := n :: g.hostOut } }

/-- `n` bytes of a side of a copy, as keys: at an on-chip offset, or at a locator. -/
def State.copyKeys (s : State) (c : Copy) (sp a n : Nat) : List Nat :=
  if sp = 2 then s.locKeys a n
  else (List.range n).map fun i => byteKey (if sp = 0 then sharedTag c.blk else c.die) (a + i)

/-- A copy has read `n` bytes of its source at an address (R26, R190). -/
def State.copyHeard (s : State) (c : Copy) (a n : Nat) : State :=
  let locs : List Nat := (List.range n).filterMap fun i =>
    if c.walk.ssp = 2 then
      (match s.translate c.die c.tenant 0 ((a + i) % 2 ^ 64) with | .ok l => some l | .bad _ _ => none)
    else some (a + i)
  let got := s.order.handed (locs.flatMap fun l => s.copyKeys c c.walk.ssp l 1)
  let t := if c.walk.ssp = 2 then s.sawHost (locs.map fun l => (l, 1)) else s
  t.modCopy c.id fun x => { x with clk := joinClk x.clk got }

/-- Land bytes at a destination that has been reached; a host line notes its acknowledgement, and when it was sent (R314,
R392). -/
def State.copyLand (s0 : State) (c : Copy) (loc : Nat) (bs : List Byte) (born : Nat) : State :=
  let s : State := { s0 with order := s0.order.give (s0.copyKeys c c.walk.dsp loc bs.length) c.clk }
  if c.walk.dsp ≠ 2 then s.chipLand c loc bs
  else
    let (n, t) := s.newId
    let t := t.softWrite n loc bs
    if locHost (s.home loc) then (t.hostWrote c n).modCopy c.id fun c => { c with hostAcks := (n, born) :: c.hostAcks } else t

/-- A walk stops at the element of its next ordinal (R136, R137). -/
def State.copyStop (s : State) (c : Copy) (st addr side detail loc : Nat) : State :=
  s.modCopy c.id fun x =>
    { x with status := st, stopAt := some (c.next, addr, side), failed := (detail, loc), srcOn := false, pixels := [] }

/-- A copy has a next element to visit. -/
def Copy.going (c : Copy) : Bool := c.accepted && c.stopAt.isNone && c.status == 0 && decide (c.next < c.walk.total)

/-- The pieces of bytes at a place that fall into units of `u` bytes. -/
def unitPieces (u loc : Nat) (bs : List Byte) : List (Nat × List Byte) :=
  (List.range ((loc % u + bs.length + u - 1) / u)).map fun i =>
    let a := max loc ((loc / u + i) * u)
    (a, (bs.drop (a - loc)).take (min (loc + bs.length) ((loc / u + i + 1) * u) - a))

/-- What a copy lands in one piece: an aligned 8-byte unit on-chip (R134), a line of far memory (R139). -/
def Copy.unit (c : Copy) : Nat := if c.walk.dsp = 2 then 64 else 8

/-- The walk has yet to write some byte of an aligned 8-byte unit. -/
def Copy.unitOpen (c : Copy) (u : Nat) : Bool :=
  c.going && (List.range 8).any fun i =>
    ({ c.walk with start := tupleOf c.walk.ext c.next } : Walk).writes (8 * u + i)

/-- The `k`-th piece of a copy on its way can land: a far piece after those of its line (R139, R188), an on-chip one once
its unit is whole (R134). -/
def State.canLand (s : State) (c : Copy) (k : Nat) : Bool :=
  match c.out[k]? with
  | none => false
  | some p =>
    if c.walk.dsp = 2 then
      !s.cut c.die p.loc && !s.frozen p.loc && (c.out.take k).all fun q => lineOf q.loc != lineOf p.loc
    else !c.unitOpen (p.loc / 8)

/-- Land pieces in order. -/
def State.landAll (s : State) (c : Copy) (ps : List Beat) : State :=
  ps.foldl (fun s p => s.copyLand c p.loc p.bytes p.born) s

/-- The `k`-th piece of a copy lands, on-chip with the rest of its unit. -/
def State.landPiece (s : State) (c : Copy) (k : Nat) : State :=
  match c.out[k]? with
  | none => s
  | some p =>
    if !s.canLand c k then s
    else if c.walk.dsp = 2 then
      (s.copyLand c p.loc p.bytes p.born).modCopy c.id fun x => { x with out := x.out.eraseIdx k }
    else
      let mine (q : Beat) : Bool := q.loc / 8 == p.loc / 8
      (s.landAll c (c.out.filter mine)).modCopy c.id fun x => { x with out := x.out.filter fun q => !mine q }

/-- Visit the next element with its bytes, which are then on their way, and go on to the next ordinal (R131). -/
def State.copyStep (s : State) (c : Copy) (bs : List Byte) : State :=
  let a := c.walk.dstAddr c.next
  match s.copyReach c a with
  | .hold => s
  | .bad st d l => s.copyStop c st a.toNat 1 d l
  | .ok loc _ =>
    let t := s.modCopy c.id fun x =>
      { x with
        next := c.next + 1
        out := x.out ++ (unitPieces c.unit loc bs).map fun p => ⟨p.1, p.2, (s.die c.die).ref⟩
        resv := none
        srcOn := x.srcOn && decide (c.next + 1 < c.walk.total) }
    let t := if c.kind = 2 then t.modCopy c.id fun x => { x with pixels := x.pixels ++ bs.map (·.toNat) } else t
    if c.walk.dsp = 2 then t.keep c.die c.tenant 1 a.toNat else t

/-! ### The Thresher (R141, R142) -/

/-- Bits of a stream, least significant first. -/
def bitStream (bs : List Byte) : List Bool := bs.flatMap fun b => (List.range 8).map fun i => b.getLsbD i

/-- Read a field of `w` bits: none past the end. -/
def takeBits (w : Nat) (bs : List Bool) : Option (Nat × List Bool) :=
  if bs.length < w then none
  else some ((bs.take w).foldr (fun b x => 2 * x + b.toNat) 0, bs.drop w)

/-- Ones before the next zero, at most 16, and the rest after the zero where there is one. -/
def takeOnes : Nat → Nat → List Bool → Option (Nat × List Bool)
  | 0, q, bs => some (q, bs)
  | fuel + 1, q, true :: bs => takeOnes fuel (q + 1) bs
  | _ + 1, q, false :: bs => some (q, bs)
  | _ + 1, _, [] => none

/-- One code: the signed difference (R141). -/
def takeCode (k : Nat) (bs : List Bool) : Option (Int × List Bool) := do
  let (q, bs) ← takeOnes 16 0 bs
  let (u, bs) ←
    if q < 16 then (takeBits k bs).map fun x => (q * 2 ^ k + x.1, x.2)
    else takeBits 17 bs
  some (if u % 2 = 0 then ((u / 2 : Nat) : Int) else -(((u + 1) / 2 : Nat) : Int), bs)

/-- The prediction of a pixel (R141). -/
def predPixel (x y : Nat) (a b c : Int) : Int :=
  if x = 0 ∧ y = 0 then 0
  else if y = 0 then a
  else if x = 0 then b
  else if max a b ≤ c then min a b
  else if c ≤ min a b then max a b
  else a + b - c

/-- Decode the pixels of a row still to come; the rows above and this row so far are in reverse order. -/
def decodeRow (k y : Nat) : Nat → List Int → List Int → List Bool → Option (List Int × List Bool)
  | 0, row, _, bs => some (row, bs)
  | n + 1, row, above, bs =>
    match takeCode k bs with
    | none => none
    | some (e, bs) =>
      let x := 63 - n
      let p := predPixel x y (row.headD 0) (above.getD x 0) (above.getD (x - 1) 0) + e
      if 0 ≤ p ∧ p < 65536 then decodeRow k y n (p :: row) above bs else none

/-- Decode the rows still to come, with the row above. -/
def decodeRows : Nat → List Int → List Bool → Option (List Int × List Bool)
  | 0, _, bs => some ([], bs)
  | n + 1, above, bs =>
    match takeBits 4 bs with
    | none => none
    | some (k, bs) =>
      match decodeRow k (63 - n) 64 [] above bs with
      | none => none
      | some (row, bs) => (decodeRows n row.reverse bs).map fun r => (row.reverse ++ r.1, r.2)

/-- Decode a compressed tile of LEN bytes: its 4,096 pixels, row by row, or a status (R141). -/
def decodeTile (bs : List Byte) : List Nat ⊕ Nat :=
  let len := numAt bs 0 2
  let raw := bit (numAt bs 2 1) 0
  let check (px : List Nat) : List Nat ⊕ Nat :=
    if crc32c (px.flatMap (leBytes 2)) = numAt bs 4 4 then .inl px else .inr 0x16
  if numAt bs 2 2 / 2 ≠ 0 ∨ len < 8 ∨ (raw = true ∧ len ≠ 8200) then .inr 0x15
  else if raw then check (leWords 2 4096 ((bs.drop 8).take 8192))
  else
    match decodeRows 64 [] (bitStream ((bs.take len).drop 8)) with
    | none => .inr 0x15
    | some (px, rest) => if rest.any id then .inr 0x15 else check (px.map Int.toNat)

/-- Read far bytes one after another for a copy, each on its own translation: the bytes, or what stopped it
with the address. -/
def State.copyBytes (s : State) (c : Copy) : Nat → Nat → Reach × Nat
  | a, 0 => (.ok 0 [], a)
  | a, n + 1 =>
    match s.copyFar c 0 (a % 2 ^ 64) 1 with
    | .ok _ b =>
      match s.copyBytes c (a + 1) n with
      | (.ok l bs, x) => (.ok l (b ++ bs), x)
      | e => e
    | e => (e, a % 2 ^ 64)

/-- The pages of a copy's bytes are kept translations (R396). -/
def State.keepBytes (s : State) (c : Copy) (a n : Nat) : State :=
  (s.keep c.die c.tenant 0 (a % 2 ^ 64)).keep c.die c.tenant 0 ((a + n - 1) % 2 ^ 64)

/-- The far ranges that a copy reads next, one after another: its next element; for CPYT the head of its next tile, then the
tile; for CPYQ its trailer, once every byte of the payload has landed (R131, R140, R142). -/
def State.copyAsks (s : State) (c : Copy) : List (Nat × Nat) :=
  if c.walk.ssp ≠ 2 then []
  else if c.going then
    let a := (c.walk.srcAddr c.next).toNat
    if c.kind ≠ 1 then [(a, c.walk.size)]
    else if !c.pixels.isEmpty then []
    else
      (a, 8) :: (match s.copyBytes c a 8 with
        | (.ok _ hd, _) => [(a, max 8 (numAt hd 0 2))]
        | _ => [])
  else if c.kind = 2 ∧ c.accepted = true ∧ c.status = 0 ∧ c.out.isEmpty = true then
    [(c.walk.sbase + trailerAt c.pixels.length, 16)]
  else []

/-- The lines of its reads that go unanswered (R162, R392). -/
def State.copyDead (s : State) (c : Copy) : List (Nat × Nat × Nat) :=
  if s.anyDead then s.deadIn c.die c.tenant (s.copyAsks c) else []

/-- Fetch and decode the tile of the next ordinal (R142): no pixel of a bad tile lands. -/
def State.loadTile (s : State) (c : Copy) : State :=
  let a := (c.walk.srcAddr c.next).toNat
  match s.copyBytes c a 8 with
  | (.hold, _) => s
  | (.bad st d l, x) => s.copyStop c st x 0 d l
  | (.ok _ hd, _) =>
    match s.copyBytes c a (max 8 (numAt hd 0 2)) with
    | (.hold, _) => s
    | (.bad st d l, x) => s.copyStop c st x 0 d l
    | (.ok _ bs, _) =>
      match decodeTile bs with
      | .inl px => ((s.keepBytes c a (max 8 (numAt hd 0 2))).copyHeard c a (max 8 (numAt hd 0 2))).modCopy c.id fun x =>
          { x with pixels := px }
      | .inr st => s.copyStop c st 0 0 0 0

/-- Land the next pixel of a decoded tile (R142). -/
def State.landPixel (s : State) (c : Copy) : State :=
  (s.copyStep c (leBytes 2 (c.pixels.getD (c.next % 4096) 0))).modCopy c.id fun x =>
    if x.next ≠ c.next ∧ x.next % 4096 = 0 then { x with pixels := [] } else x

/-- COPY_ELEMENT (R131, R137, R142, R184), `ev` 2^64 times the copy's id plus a pick: with pick 0 the next element in
ordinal order is visited, for CPYT after its tile has been decoded, unless a read goes unanswered (R392); with a greater one the piece of that number, counted
from 1, lands. (DESIGN CHOICE, log 36) -/
def execCopyElement (ev : Nat) (s : State) : Res :=
  let s := s.unfocus
  let id := ev / 2 ^ 64
  let pick := ev % 2 ^ 64
  match s.copy? id with
  | none => .next s
  | some c =>
    if pick ≠ 0 then .next (s.landPiece c (pick - 1))
    else if !c.going || c.deadSince.isSome then .next s
    else if c.kind = 1 then .next (if c.pixels.isEmpty then s.loadTile c else s.landPixel c)
    else
      let a := c.walk.srcAddr c.next
      match s.copyRead c a with
      | .hold => .next s
      | .bad st d l => .next (s.copyStop c st a.toNat 0 d l)
      | .ok _ bs =>
        .next (((if c.walk.ssp = 2 then s.keep c.die c.tenant 0 a.toNat else s).copyHeard c a.toNat c.walk.size).copyStep c bs)

/-! ### Drops and the end (R135 to R140, R392) -/

/-- DROP_NOTICE (R139): a dropped beat waits for a reservation window. -/
def execDropNotice (id : Nat) (s : State) : Res :=
  .next (s.unfocus.modCopy id fun c => if c.going && c.resv.isNone then { c with resv := some 1 } else c)

/-- RESERVATION_WINDOW_EXPIRY (R139): the window is requested again. -/
def execReservationWindowExpiry (id : Nat) (s : State) : Res :=
  .next (s.unfocus.modCopy id fun c => { c with resv := c.resv.map (· + 1) })

/-- The finding of a CPYQ that landed every byte: its trailer is read from the source space (R140). -/
def State.copyFinding (s : State) (c : Copy) : Option (Nat × Nat × Nat × Nat) :=
  let w := c.walk
  let payload := c.pixels.map fun x => BitVec.ofNat 8 x
  let a := w.sbase + trailerAt payload.length
  let got (bs : List Byte) : Nat := finding w.qfmt payload bs
  match (if w.ssp = 2 then s.copyBytes c a 16 else (s.copyChip c a 16, a)) with
  | (.ok _ bs, _) => some (got bs, 0, 0, 0)
  | (.hold, _) => none
  | (.bad st d l, x) => some (st, x, d, l)

/-- The counters of a stopping element (R136); with every element landed no element stops the walk, and the
manual names none. (DESIGN CHOICE, log 29) -/
def State.stopCounters (s : State) (c : Copy) (n : Nat) : List Byte :=
  if n < c.walk.total then (tupleOf c.walk.ext n).flatMap (leBytes 2)
  else (List.range 3).flatMap fun i => leBytes 4 (s.undef i).toNat

/-- Bytes 8 to 31 of the slot of a stopped walk (R136). -/
def State.stopRecord (s : State) (c : Copy) (x : Nat × Nat × Nat) : List Byte :=
  s.stopCounters c x.1 ++ leBytes 8 x.2.1 ++ leBytes 2 x.2.2 ++ leBytes 2 0

/-- Write to a copy's stamp slot. -/
def State.slotWrite (s : State) (c : Copy) (o : Nat) (bs : List Byte) : State :=
  match c.walk.stsp with
  | 0 => s.putShared c.blk (c.slot + o) bs
  | 1 => s.modDie c.die fun d => { d with granary := memWrite d.granary (c.slot + o) bs }
  | _ =>
    let (n, t) := s.newId
    let t := t.softWrite n (c.slot + o) bs
    if locHost (s.home c.slot) then t.hostWrote c n else t

/-- The stamp slot can be written now: in far memory, or in the save area of a block that is swapped out (R403). -/
def State.slotOpen (s : State) (c : Copy) : Bool :=
  match c.walk.stsp with
  | 0 => !s.regsHeld c.blk
  | 1 => true
  | _ => !s.shut c.die c.slot && !s.frozen c.slot

/-- Every payload byte is acknowledged at the copy's scope (R135, R314). -/
def State.copyAcked (s : State) (c : Copy) : Bool :=
  c.scope != 5 || c.hostAcks.all fun n => s.hostQ.all fun q => q.1 != n.1

/-- Write fault record and stamp of a copy and end it; a failed walk or delivery is recorded (R135, R399).
(DEDUCED, log 12) -/
def State.copyEnd (s : State) (c : Copy) : State :=
  let s1 := match c.stopAt with
    | some x => s.slotWrite c 8 (s.stopRecord c x)
    | none => s
  let s2 := s1.slotWrite c 0 (leBytes 8 (c.walk.seq * 2 ^ 16 + c.status))
  let o := s2.order.give (s2.copyKeys c c.walk.stsp c.slot (if c.stopAt.isSome then 32 else 8)) c.clk
  let s3 : State := { s2 with
    copies := s2.copies.filter fun x => x.id != c.id, order := o.owe (copyParty c.id) 0 c.clk }
  if 0x11 ≤ c.status ∧ c.status ≤ 0x17 then
    let h : Held := { Held.zero with
      wid := c.wid, detail := c.failed.1, reason := c.status % 256, addr := c.walk.stampa, loc := c.failed.2 }
    (s3.record { engineRecord c.die 2 c.tenant c.core c.grid h with block := c.idx }).bump
  else s3.bump

/-- COPY_STAMP_WRITE (R135 to R137, R140). -/
def execCopyStampWrite (id : Nat) (s : State) : Res :=
  let s := s.unfocus
  match s.copy? id with
  | none => .next s
  | some c =>
    if !c.accepted || c.going || !c.out.isEmpty || c.deadSince.isSome || !s.slotOpen c || !s.copyAcked c then .next s
    else if c.kind = 2 ∧ c.status = 0 then
      match s.copyFinding c with
      | none => .next s
      | some (st, a, d, l) =>
        let t := s.copyHeard c (c.walk.sbase + trailerAt c.pixels.length) 16
        let c' := (t.copy? id).getD c
        if d = 0 ∧ st ≠ 0x13 ∧ st ≠ 0x14 then .next (t.copyEnd { c' with status := st })
        else .next (t.copyEnd { c' with status := st, stopAt := some (c.next, a, 0), failed := (d, l) })
    else .next (s.copyEnd c)

/-- The bytes of the next element of a copy, where they can be had. -/
def State.nextBytes (s : State) (c : Copy) : Option (List Byte) :=
  if c.kind = 1 then
    if c.pixels.isEmpty then none else some (leBytes 2 (c.pixels.getD (c.next % 4096) 0))
  else
    match s.copyRead c (c.walk.srcAddr c.next) with
    | .ok _ bs => some bs
    | _ => none

/-- Elements of a copy that failed in delivery: each of those still to come lands or does not (R135). -/
def State.strayLand (s : State) (id : Nat) : Nat → State
  | 0 => s
  | n + 1 =>
    match s.copy? id with
    | none => s
    | some c0 =>
      let s := if c0.kind = 1 ∧ c0.pixels.isEmpty = true then s.loadTile c0 else s
      let c := (s.copy? id).getD c0
      let t := match s.nextBytes c, s.copyReach c (c.walk.dstAddr c.next) with
        | some bs, .ok loc _ => if s.choice (2 ^ 16 + n) % 2 = 1 then s.copyLand c loc bs 0 else s
        | _, _ => s
      (t.modCopy id fun x =>
        { x with next := x.next + 1, pixels := if x.next % 4096 = 4095 then [] else x.pixels }).strayLand id n

/-- Pieces of a copy that failed in delivery: each lands or does not (R135). -/
def State.strayPieces (s : State) (c : Copy) : State :=
  c.out.zipIdx.foldl (fun s p => if s.choice (2 ^ 17 + p.2) % 2 = 1 then s.copyLand c p.1.loc p.1.bytes 0 else s) s

/-- A copy has a beat, a read, or at .sys a write that host processors do not see yet, that has gone unanswered for the system
timeout (R139, R314, R392). -/
def State.copyLate (s : State) (c : Copy) : Bool :=
  (c.walk.dsp == 2 && c.out.any fun p => s.timeUp c.die p.born) ||
  (c.scope == 5 && c.hostAcks.any fun n => (s.hostQ.any fun q => q.1 == n.1) && s.timeUp c.die n.2) ||
  s.sentLate c.die c.deadSince

/-- A copy's beats go unacknowledged for the system timeout: status 0x0017 and no fault record (R139, R392). -/
def State.copyGiveUp (s : State) (c : Copy) : State :=
  let t := ((s.strayPieces c).modCopy c.id fun x => { x with out := [] }).strayLand c.id (c.walk.total - c.next)
  (t.modCopy c.id fun x =>
    { x with status := 0x17, stopAt := none, failed := (0, 0), srcOn := false, pixels := [], hostAcks := [], deadSince := none }).bump

end Sys2Proof.Machine
end

