-- ==== Sys2Proof/Machine/EngineEvents.lean ====
section
/-! DEFINITION. Events of the Loft and of the cube engines (R78, R88, R126, R129, R321, R328, R371, R408).
A step that is not enabled changes nothing. -/

namespace Sys2Proof.Machine

/-! ### Loft -/

/-- OVERLAY_LOAD_COMPLETE (R78). -/
def execOverlayLoadComplete (core entry : Nat) (s : State) : Res := .next (s.unfocus.loadDone core entry)

/-- A block of a tenant is resident on a core. -/
def State.tenantOn (s : State) (core tenant : Nat) : Bool :=
  s.unfocus.blocks.any fun b => b.2.tenant == tenant && s.runsOn b.2 core

/-- A tenant uses more slots of a core than its quota. -/
def State.overQuota (s : State) (core tenant : Nat) : Bool := decide (s.quotaOf core tenant < s.slotsUsed core tenant)

/-- An entry leaves by force; a load that is under way ends with status 4 (R79, R88). -/
def State.forceOut (s : State) (core n : Nat) (e : LoftEntry) : State :=
  (s.freeEntry core n).wakeAll (loftKey core n) 4 e.waiters

/-- Evict a tenant's entries in the order of a list until the quota holds (R88). -/
def State.evictDown (s : State) (core tenant : Nat) : List (Nat × LoftEntry) → State
  | [] => s
  | (n, e) :: r => if s.overQuota core tenant then (s.forceOut core n e).evictDown core tenant r else s

/-- Step 2 of R88: no block of the tenant is resident on the core, and entries other than base overlays go, the least
recently entered by CALLO first. (DESIGN CHOICE, log 39) -/
def State.quotaEvict (s : State) (core tenant : Nat) : State :=
  if s.tenantOn core tenant then s
  else
    s.evictDown core tenant
      (((s.loftOf core).filter fun e => e.2.tenant == tenant && e.2.st != .absent && e.2.base.isEmpty).foldl
        (fun a e => insertByCall e a) [])

/-- One shrink of a quota (R88): while blocks of the tenant are on the core they are to be swapped out; then entries go,
and the shrink has been met. -/
def State.shrinkOne (s : State) (core tenant : Nat) : State :=
  if s.overQuota core tenant && s.tenantOn core tenant then
    let out (b : Block) : Block :=
      if b.tenant = tenant ∧ s.runsOn b core = true ∧ b.swapReason = none then { b with swapReason := some 4 } else b
    { s with blocks := s.blocks.map fun b => (b.1, out b.2) }
  else
    let t := s.quotaEvict core tenant
    { t with shrinks := t.shrinks.filter (· != (core, tenant)) }

/-- Every shrink that is still to be met goes on. -/
def State.shrinkStep (s : State) : State := s.shrinks.foldl (fun s x => s.shrinkOne x.1 x.2) s

/-- The tenants of a list that now use more slots of a core than their quotas begin a shrink (R88). -/
def State.quotaShrink (s : State) (core : Nat) (tenants : List Nat) : State :=
  let more := (tenants.filter (s.overQuota core)).map (core, ·)
  State.shrinkStep { s with shrinks := s.shrinks ++ more.filter fun x => !s.shrinks.contains x }

/-- System software reclaims a base overlay of a core while no block of a grid it is pinned for is resident or swapped out
there (R86). -/
def State.reclaimBase (s : State) (core n : Nat) : State :=
  match smGet s.loft (loftKey core n) with
  | none => s
  | some e =>
    if e.base.isEmpty || s.blocks.any fun b => e.base.contains b.2.grid && (b.2.onCore == core ||
        ((s.pktOf b.2).e != 0 && b.2.onCore + 1 == core)) then s
    else
      let t := s.modLoft core n fun x => { x with base := [] }
      if e.st = .loading then t.modLoft core n fun x => { x with evictMark := true }
      else (t.modLoft core n fun x => { x with st := .evictPending }).reapLoft core

/-- Write an LQ register: a write that would take a core's total above 256 slots takes no effect (R371). -/
def State.setQuota (s : State) (die i j value : Nat) : State :=
  let t := s.modDie die fun d => d.ctlWrite (0x1000 + 64 * i + 4 * j) value
  let total := ((List.range 16).map fun k => (t.die die).ctlField (0x1000 + 64 * i + 4 * k) 16 9).sum
  if 48 ≤ i ∨ 16 ≤ j ∨ 256 < total then s
  else
    let core := 48 * die + i
    t.quotaShrink core ((t.loftOf core).map (·.2.tenant)).eraseDups

/-- LOFT_QUOTA_WRITE (R371); with `j` 16 system software reclaims the base overlay in entry `value` of the core (R86).
(DESIGN CHOICE, log 36) -/
def execLoftQuotaWrite (die i j value : Nat) (s : State) : Res :=
  let s := s.unfocus
  .next (if j = 16 then s.reclaimBase (48 * die + i) value else s.setQuota die i j value)

/-! ### Cube engines -/

/-- CUBE_ACCEPT (R129): an operation agreed by an EXIT takes an entry once the table has room. -/
def execCubeAccept (blk b : Nat) (s : State) : Res :=
  let s := s.unfocus
  match smGet s.blocks blk with
  | none => .next s
  | some k =>
    match k.warps, smGet k.batons b with
    | w :: _, some bt =>
      if bt.agreed && k.core.isSome && s.tableRoom k.onCore then .next (((s.focus blk w.1).acceptBaton b bt).unfocus)
      else .next s
    | _, _ => .next s

/-- ENGINE_PASS (R129). -/
def execEnginePass (core : Nat) (s : State) : Res :=
  let s := s.unfocus
  match bestEntry (s.eligible core) with
  | some e => .next (s.passOn core e)
  | none => .next s

/-- ENTRY_STARVATION (R129): 4,096 clocks since its last grant. -/
def execEntryStarvation (core id : Nat) (s : State) : Res :=
  let s := s.unfocus
  let clk := (s.die (coreDie core)).clock
  .next (s.modEntry core id fun e => if e.lastGrant + 4096 ≤ clk then { e with starved := true } else e)

/-- A finished entry of a kind leaves the table. -/
def State.finishEntry (s : State) (core id : Nat) (kind : EngineOp → Bool) : State :=
  match (s.table core).find? fun e => e.id == id && e.done && kind e.op with
  | some e => s.completeEntry core e
  | none => s

/-- The operation is a CUBE. -/
def EngineOp.isCube : EngineOp → Bool
  | .cube .. => true
  | _ => false

/-- CUBE_COMPLETE (R126). -/
def execCubeComplete (core id : Nat) (s : State) : Res := .next (s.unfocus.finishEntry core id (·.isCube))

/-- STATION_LOAD_COMPLETE (R321). -/
def execStationLoadComplete (core id : Nat) (s : State) : Res := .next (s.unfocus.finishEntry core id (·.loads))

/-- ACCUMULATOR_OP_COMPLETE (R328). -/
def execAccumulatorOpComplete (core id : Nat) (s : State) : Res :=
  .next (s.unfocus.finishEntry core id fun o => !o.isCube && !o.loads)

/-- An eligible entry of a core has had no pass for the hang limit (R408). -/
def State.engineHangs (s : State) (core : Nat) : Bool :=
  let d := s.die (coreDie core)
  d.hang != 0 && (s.eligible core).any fun e =>
    match e.eligSince with
    | some t => decide (t + d.hang ≤ d.clock)
    | none => false

/-- CUBE_HANG_TIMEOUT (R408). -/
def execCubeHangTimeout (core : Nat) (s : State) : Res :=
  let s := s.unfocus
  if s.engineHangs core then .next (s.resetEngine core) else .next s

/-- ENGINE_INTERNAL_ERROR (R408). -/
def execEngineInternalError (core : Nat) (s : State) : Res := .next (s.resetEngine core)

/-- CUBECTL_RST (R391, R408): a write with RST set resets the named core's engine. -/
def execCubectlRst (die value : Nat) (s : State) : Res :=
  let t := s.unfocus.modDie die fun d => d.ctlWrite 0x9C value
  let i := field value 16 6
  if bit value 31 && decide (i < 48) then .next (t.resetEngine (48 * die + i)) else .next t

end Sys2Proof.Machine
end

