-- ==== Sys2Proof/Machine/PlaneEvents.lean ====
section
/-! DEFINITION. The update unit, the Pacer, rounds, folds and merges, the divergence trap (R144 to R158, R341,
R399). A step that is not enabled changes nothing. -/

namespace Sys2Proof.Machine

/-! ### Plane blocks (R144, R145) -/

/-- The quotient of two values, exact but for a sticky bit. -/
def xrDiv (x y : XR) : XR :=
  match x, y with
  | .nan, _ | _, .nan => .nan
  | .inf _, .inf _ => .nan
  | .inf a, .num b _ _ => .inf (a != b)
  | .num a _ _, .inf b => .num (a != b) 0 0
  | .num a m e, .num b n f =>
    if n = 0 then (if m = 0 then .nan else .inf (a != b))
    else if m = 0 then .num (a != b) 0 0
    else
      let k := Nat.log2 n + 100
      sticky (a != b) (m * 2 ^ k / n) (e - f - k) (decide (m * 2 ^ k % n = 0))

/-- Bytes of an element of plane `p`: 0 hi, 1 lo, 2 anchor, 3 pending, 4 m, 5 v, 6 momentum, 7 residual. -/
abbrev planeSize (p : Nat) : Nat := if p ≤ 1 then 2 else 4

/-- The virtual address of element `e` of plane `p` of a tensor (R144). -/
def Tensor.addr (t : Tensor) (p e : Nat) : Nat :=
  t.base + [0, 2, 4, 8, 12, 16, 20, 24].getD p 0 * (32768 * ((t.nel + 32767) / 32768)) + e * planeSize p

/-- Reach a plane element from the tensor's home die, to read and to write it. -/
def State.planeReach (s : State) (tenant : Nat) (t : Tensor) (p e : Nat) : Reach :=
  let a := t.addr p e
  if !vaOk a then .bad 0x14 0 0
  else if s.heldVa t.hdie tenant a then .hold
  else
    match s.translate t.hdie tenant 0 a, s.translate t.hdie tenant 1 a with
    | .ok l, .ok _ =>
      if s.shut t.hdie l || s.frozen l || s.awaitsHost l then .hold
      else if s.bad l (planeSize p) then .bad 0x13 0 0
      else .ok l []
    | .bad d l, _ => .bad (transStatus d) d l
    | _, .bad d l => .bad (transStatus d) d l

/-- The locator of a plane element that has been found to be within reach. -/
def State.planeLoc (s : State) (tenant : Nat) (t : Tensor) (p e : Nat) : Nat :=
  match s.translate t.hdie tenant 0 (t.addr p e) with
  | .ok l => l
  | .bad _ _ => 0

/-- Read a plane element. -/
def State.planeGet (s : State) (tenant : Nat) (t : Tensor) (p e : Nat) : Word :=
  w32 (s.farNat (s.planeLoc tenant t p e) (planeSize p))

/-- Write a plane element. -/
def State.planePut (s : State) (tenant : Nat) (t : Tensor) (p e : Nat) (v : Word) : State :=
  let (n, s1) := s.newId
  s1.farWrite n (s.planeLoc tenant t p e) (leBytes (planeSize p) v.toNat)

/-- The local weight hi:lo (R145). -/
def State.weight (s : State) (tenant : Nat) (t : Tensor) (e : Nat) : Word :=
  w32 ((s.planeGet tenant t 0 e).toNat * 2 ^ 16 + (s.planeGet tenant t 1 e).toNat)

/-- Write hi:lo together. -/
def State.putWeight (s : State) (tenant : Nat) (t : Tensor) (e : Nat) (v : Word) : State :=
  (s.planePut tenant t 0 e (w32 (v.toNat / 2 ^ 16))).planePut tenant t 1 e (w32 (v.toNat % 2 ^ 16))

/-- Whether every element of some planes can be reached: the wait or the failure of the first that cannot,
with its address. -/
def State.planesReach (s : State) (tenant : Nat) (t : Tensor) (ps es : List Nat) : Reach × Nat :=
  (es.flatMap fun e => ps.map fun p => (p, e)).foldl (fun (a : Reach × Nat) x =>
    match a.1 with
    | .ok _ _ => (s.planeReach tenant t x.1 x.2, t.addr x.1 x.2)
    | _ => a) (.ok 0 [], 0)

/-- An engine fault on a plane block (R399): update unit and Pacer stop, and a kind 3 record is written. -/
def State.planeFault (s : State) (tenant die detail loc st addr : Nat) : State :=
  let h : Held := { Held.zero with detail := detail, loc := loc, reason := st, addr := addr }
  ({ s with session := s.session.map fun (x : Session) => { x with stopped := die :: x.stopped } } : State).record
    (engineRecord die 3 tenant 0 0 h)

/-- A plane engine of a die may go on: the die's engines run for the session (R399), and no access of this one goes unanswered
(R392). The engines: 0 UPD, 1 merge, 2 fold, 3 Pacer. -/
def Session.runs (x : Session) (die engine : Nat) : Bool :=
  !x.stopped.contains die && (smGet x.deadSince (4 * die + engine)).isNone

/-- An engine of the home dies of some tensors may go on. -/
def Session.allRun (x : Session) (engine : Nat) (ts : List Tensor) : Bool := ts.all fun t => x.runs t.hdie engine

/-- The lines of some planes of elements of a tensor, from `first` on, that go unanswered (R162, R392). -/
def State.elemsDead (s : State) (tenant : Nat) (t : Tensor) (ps : List Nat) (first n : Nat) : List (Nat × Nat × Nat) :=
  ps.flatMap fun p => s.deadLines t.hdie tenant 2 (t.addr p first) (n * planeSize p)

/-- An engine has written planes of elements of a tensor: who reads them comes after what it comes after (R26). -/
def State.planesGave (s : State) (tenant : Nat) (t : Tensor) (ps es : List Nat) (clk : SMap Nat) : State :=
  let keys := es.flatMap fun e => ps.flatMap fun p => s.locKeys (s.planeLoc tenant t p e) (planeSize p)
  { s with order := s.order.give keys clk }

/-- Writes to host memory made since `s` by an operation of a block: its grid retires after them (R378). -/
def State.hostSince (t s : State) (b : Nat) : State :=
  match t.block? b with
  | none => t
  | some k =>
    let ids := (t.hostQ.map (·.1)).filter fun n => decide (s.serial ≤ n)
    { t with grids := smMod t.grids k.grid fun g => { g with hostOut := ids ++ g.hostOut } }

/-- Replace group `g` of the session. -/
def State.modGroup (s : State) (g : Nat) (f : Group → Group) : State :=
  { s with session := s.session.map fun (x : Session) => { x with groups := listMod x.groups g f } }

/-- A group of the session. -/
def State.groupOf (s : State) (g : Nat) : Option Group := s.session.bind fun x => x.groups[g]?

/-- The divergence trap becomes pending in the warp that caused it (R158). -/
def State.diverge (s : State) (b w : Nat) (hit : Bool) : State :=
  if hit then s.modWarp b w fun x => { x with divPend := true } else s

/-! ### The inner update (R150, R151) -/

/-- A gradient element unscaled: R(Decode(graw) · (1/LS)). -/
def unscale (ls : Word) (gfmt graw : Nat) : Word := r32 (xrDiv (decodeFmt (if gfmt = 0 then 0 else 2) graw) (f32 ls))

/-- The value is finite. -/
def finite32 (w : Word) : Bool :=
  match f32 w with
  | .num _ _ _ => true
  | _ => false

/-- R(a · b), R(a + b), R(a − b) of .f32 words. -/
abbrev mulR (a b : Word) : Word := r32 (XR.mul (f32 a) (f32 b))
/-- R(a + b). -/
abbrev addR (a b : Word) : Word := r32 (XR.add false (f32 a) (f32 b))
/-- R(a − b). -/
abbrev subR (a b : Word) : Word := r32 (XR.add false (f32 a) (XR.neg (f32 b)))

/-- ApplyElement (R151): the state, and whether DIV became set. -/
def State.applyElement (s : State) (tenant : Nat) (t : Tensor) (e : Nat) (g1 : Word) : State × Bool :=
  match s.groupOf t.grp with
  | none => (s, false)
  | some g =>
    let w := s.weight tenant t e
    let a := s.planeGet tenant t 2 e
    let m := addR (mulR g.b1 (s.planeGet tenant t 4 e)) (mulR g.omb1 g1)
    let v := addR (mulR g.b2 (s.planeGet tenant t 5 e)) (mulR g.omb2 (mulR g1 g1))
    let root := r32 (xrSqrt (f32 (r32 (xrDiv (f32 v) (f32 g.bc2)))))
    let u := r32 (xrDiv (f32 (r32 (xrDiv (f32 m) (f32 g.bc1)))) (f32 (addR root g.eps)))
    let w2 := subR (subR w (mulR g.lr u)) (mulR g.lr (mulR g.wd w))
    let d0 := subR w a
    let d1 := subR w2 a
    let dn := addR g.dnorm (subR (mulR d1 d1) (mulR d0 d0))
    let dn := if XR.lt (f32 dn) (f32 0) then 0 else dn
    let g' := { g with dnorm := dn }.check
    let s1 := ((s.planePut tenant t 4 e m).planePut tenant t 5 e v).putWeight tenant t e w2
    (s1.modGroup t.grp fun _ => g', g'.div && !g.div)

/-- Apply the elements of a slice in ascending index. -/
def State.applySlice (s : State) (tenant : Nat) (t : Tensor) : List (Nat × Word) → State × Bool
  | [] => (s, false)
  | (e, g1) :: r =>
    let (s1, hit) := s.applyElement tenant t e g1
    let (s2, hit') := s1.applySlice tenant t r
    (s2, hit || hit')

/-- On-chip bytes of a memory have an uncorrectable error. -/
def State.chipLost (s : State) (tag a n : Nat) : Bool := (List.range n).any fun j => s.badChip.contains (tag, a + j)

/-- Read one gradient element (R151): its bits, a wait, or a status. -/
def State.gradAt (s : State) (u : UpdOp) (t : Tensor) (i : Nat) : Reach :=
  let n := gradBytes u.gfmt
  let a := u.gaddr + n * i
  match u.gsp with
  | 0 => if s.regsHeld u.blk then .hold else if s.chipLost (sharedTag u.blk) a n then .bad 0x13 0 0 else .ok 0 ((List.range n).map fun j => s.sharedByte u.blk (a + j))
  | 1 =>
    if s.chipLost (coreDie u.core) a n then .bad 0x13 0 0
    else .ok 0 (memBytes (s.die (coreDie u.core)).granary (coreDie u.core) a n)
  | _ =>
    if !vaOk (a % 2 ^ 64) then .bad 0x14 0 0
    else if s.heldVa t.hdie u.tenant a then .hold
    else
      match s.translate t.hdie u.tenant 0 a with
      | .bad d l => .bad (transStatus d) d l
      | .ok l =>
        if s.shut t.hdie l || s.awaitsHost l then .hold else if s.bad l n then .bad 0x13 0 0 else .ok l (s.farBytes l n)

/-- Read a gradient slice: its raw elements, or what stopped it. -/
def State.gradients (s : State) (u : UpdOp) (t : Tensor) : List Nat → Reach × List Nat
  | [] => (.ok 0 [], [])
  | i :: r =>
    match s.gradAt u t i with
    | .ok _ b =>
      let (x, xs) := s.gradients u t r
      (x, leNat b :: xs)
    | x => (x, [])

/-- The bytes of an UPD's gradient slice as keys. -/
def State.gradKeys (s : State) (u : UpdOp) (die : Nat) : List Nat :=
  let n := u.cnt * gradBytes u.gfmt
  match u.gsp with
  | 0 => (List.range n).map fun i => byteKey (sharedTag u.blk) (u.gaddr + i)
  | 1 => (List.range n).map fun i => byteKey (coreDie u.core) (u.gaddr + i)
  | _ => s.vaKeys die u.tenant 0 u.gaddr n

/-- An UPD leaves the update unit with a status (R151). -/
def State.updDone (s : State) (u : UpdOp) (st : Nat) : State :=
  ({ s with
    session := s.session.map fun (x : Session) => { x with upds := x.upds.filter fun (y : UpdOp) => y.op != u.op }
    order := s.order.owe (warpParty u.blk u.wid) u.flag u.clk } : State).complete u.blk u.wid u.op st

/-- The update unit takes the oldest UPD it holds (R151). -/
def State.applyUpd (s : State) (x : Session) (u0 : UpdOp) (t : Tensor) : State :=
  match s.gradients u0 t (List.range u0.cnt) with
  | (.hold, _) => s
  | (.bad st _ _, _) => s.updDone u0 st
  | (.ok _ _, raw) =>
    let u : UpdOp := { u0 with clk := joinClk u0.clk (s.order.handed (s.gradKeys u0 t.hdie)) }
    let gs := raw.map (unscale x.ls u.gfmt)
    if x.ovf || !gs.all finite32 then
      ({ s with session := some { x with ovf := true } } : State).updDone u 0x41
    else
      let es := (List.range u.cnt).map (u.first + ·)
      match s.planesReach x.tenant t [0, 1, 2, 4, 5] es with
      | (.hold, _) => s
      | (.bad st d l, a) => s.planeFault x.tenant t.hdie d l st a
      | (.ok _ _, _) =>
        let (s1, hit) := s.applySlice x.tenant t (es.zip gs)
        (((s1.planesGave x.tenant t [0, 1, 4, 5] es u.clk).hostSince s u.blk).updDone u 0).diverge u.blk u.wid hit

/-- The UPD that the update unit of a die takes next, in acceptance order, with its tensor. -/
def Session.firstUpd (x : Session) (die : Nat) : Option (UpdOp × Tensor) :=
  (x.upds.filterMap fun u => (x.tensor? u.tid).map (u, ·)).find? fun y => y.2.hdie == die

/-- It may begin: the stores queued before it have left, the far acquires before it have been answered (R185, R334). -/
def State.updBegins (s : State) (u : UpdOp) : Bool := s.mayBegin u.blk u.wid u.after u.acq

/-- What the update unit of a die reads and writes next that goes unanswered: of the gradient slice, with the UPD's operation, and
once that has been read and is finite, of the planes, with 0 (R151, R392). -/
def State.updDead (s : State) (x : Session) (die : Nat) : Nat × List (Nat × Nat × Nat) :=
  match x.firstUpd die with
  | none => (0, [])
  | some (u, t) =>
    if !x.runs die 0 || !s.updBegins u then (0, [])
    else
      match (if u.gsp = 2 then s.deadLines die u.tenant 0 u.gaddr (u.cnt * gradBytes u.gfmt) else []) with
      | [] =>
        (match s.gradients u t (List.range u.cnt) with
          | (.ok _ _, raw) =>
            if x.ovf || !(raw.map (unscale x.ls u.gfmt)).all finite32 then (0, [])
            else (0, s.elemsDead x.tenant t [0, 1, 2, 4, 5] u.first u.cnt)
          | _ => (0, []))
      | ls => (u.op, ls)

/-- UPD_SLICE_APPLY (R151). -/
def execUpdSliceApply (die : Nat) (s : State) : Res :=
  let s := s.unfocus
  match s.session with
  | none => .next s
  | some x =>
    match x.firstUpd die with
    | none => .next s
    | some (u, t) => if x.runs die 0 && s.updBegins u then .next (s.applyUpd x u t) else .next s

/-! ### Closing and merging (R149, R156) -/

/-- The loss-scale state machine (R149). -/
def Session.rescale (x : Session) : Session :=
  let half := r32 (XR.shift (f32 x.ls) (-1))
  let twice := r32 (XR.shift (f32 x.ls) 1)
  if x.ovf then { x with ls := if XR.lt (f32 half) (f32 x.lsmin) then x.lsmin else half, clean := 0 }
  else if x.clean + 1 < x.n then { x with clean := x.clean + 1 }
  else { x with ls := if XR.lt (f32 x.lsmax) (f32 twice) then x.lsmax else twice, clean := 0 }

/-- The first STEP.CLOSE or MERGE of the session leaves, its flag clears. -/
def State.planeDone (s : State) (x : Session) (o : PlaneOp) (st : Nat) : State :=
  let y : Session :=
    { x with
      ops := x.ops.filter fun (y : PlaneOp) => y.op != o.op
      step := if o.close then .closed else x.step }
  ({ s with
    session := some y
    order := s.order.owe (warpParty o.blk o.wid) o.flag o.clk } : State).complete o.blk o.wid o.op st

/-- STEP_CLOSE_COMPLETE (R149): the step's UPDs are over; the loss scale moves; a merge may follow. -/
def execStepCloseComplete (s : State) : Res :=
  let s := s.unfocus
  match s.session with
  | none => .next s
  | some x =>
    match x.ops.find? fun o => o.close && o.stage == 0 with
    | none => .next s
    | some o =>
      if !x.upds.isEmpty || !s.mayBegin o.blk o.wid o.after o.acq then .next s
      else
        let st := if x.ovf then 0x41 else 0
        let x1 := x.rescale
        if o.merge then
          let next (y : PlaneOp) : PlaneOp := if y.op = o.op then { y with stage := 1, status := st } else y
          .next { s with session := some { x1 with ops := x1.ops.map next } }
        else .next (s.planeDone x1 o st)

/-- The elements of a tensor. -/
abbrev Tensor.elems (t : Tensor) : List Nat := List.range t.nel

/-- The tensors of a group, ascending. -/
def Session.ofGroup (x : Session) (g : Nat) : List Tensor := (x.valid.filter fun t => t.2.grp == g).map (·.2)

/-- Merge the elements of a tensor; the drifts after it, in order (R156). -/
def State.mergeElems (s : State) (tenant : Nat) (t : Tensor) : List Nat → State × List Word
  | [] => (s, [])
  | e :: r =>
    let pend := s.planeGet tenant t 3 e
    let w2 := addR (s.weight tenant t e) (subR pend (s.planeGet tenant t 2 e))
    let s1 := (s.putWeight tenant t e w2).planePut tenant t 2 e pend
    let (s2, ds) := s1.mergeElems tenant t r
    (s2, subR w2 pend :: ds)

/-- Merge the tensors of a group. -/
def State.mergeTensors (s : State) (tenant : Nat) : List Tensor → State × List Word
  | [] => (s, [])
  | t :: r =>
    let (s1, ds) := s.mergeElems tenant t t.elems
    let (s2, ds') := s1.mergeTensors tenant r
    (s2, ds ++ ds')

/-- Merge(g) (R156): the state and whether DIV[g] became set. -/
def State.mergeGroup (s : State) (x : Session) (g : Nat) : State × Bool :=
  let (s1, ds) := s.mergeTensors x.tenant (x.ofGroup g)
  let dn := ds.foldl (fun a d => addR a (mulR d d)) 0
  let was := (s.groupOf g).map (·.div) == some true
  let s2 := s1.modGroup g fun y => ({ y with dnorm := dn, pv := false }).check
  (s2, ((s2.groupOf g).map (·.div)) == some true && !was)

/-- Merge the groups of a list. -/
def State.mergeGroups (s : State) (x : Session) : List Nat → State × Bool
  | [] => (s, false)
  | g :: r =>
    let (s1, h) := s.mergeGroup x g
    let (s2, h') := s1.mergeGroups x r
    (s2, h || h')

/-- Reach planes of every element of a list of tensors. -/
def State.tensorsReach (s : State) (tenant : Nat) (ps : List Nat) : List Tensor → Reach × Nat × Nat
  | [] => (.ok 0 [], 0, 0)
  | t :: r =>
    match s.planesReach tenant t ps t.elems with
    | (.ok _ _, _) => s.tensorsReach tenant ps r
    | (x, a) => (x, a, t.hdie)

/-- The groups that a merge takes, ascending: those with PV set. -/
def Session.mergeable (x : Session) : List Nat := (List.range 16).filter fun g => (x.groups[g]?.map (·.pv)) == some true

/-- The merge that is to be done now: no DIV bit is set, and the stores and acquires before it are over (R156, R158, R185). -/
def State.mergeNow (s : State) (x : Session) : Option PlaneOp :=
  (x.ops.find? fun o => o.stage == 1).filter fun o => !(x.groups.any (·.div)) && s.mayBegin o.blk o.wid o.after o.acq

/-- MERGE_POINT (R156, R158): every group with PV set is merged, ascending. -/
def execMergePoint (s : State) : Res :=
  let s := s.unfocus
  match s.session with
  | none => .next s
  | some x =>
    match s.mergeNow x with
    | none => .next s
    | some o =>
      let gs := x.mergeable
      let ts := gs.flatMap x.ofGroup
      match (if x.allRun 1 ts then s.tensorsReach x.tenant [0, 1, 2, 3] ts else (.hold, 0, 0)) with
      | (.hold, _) => .next s
      | (.bad st d l, a, die) => .next (s.planeFault x.tenant die d l st a)
      | (.ok _ _, _) =>
        let (s1, hit) := s.mergeGroups x gs
        let s2 := (ts.foldl (fun u t => u.planesGave x.tenant t [0, 1, 2] t.elems o.clk) s1).hostSince s o.blk
        match s2.session with
        | none => .next s
        | some x1 => .next ((s2.planeDone x1 o o.status).diverge o.blk o.wid hit)

/-! ### The Pacer (R152, R153) -/

/-- The scale code of a block (R152). -/
def pacerScale (xs : List Word) : Nat :=
  let amax := xs.foldl (fun (a : XR) x =>
    match f32 x with
    | .nan => a
    | v => if XR.lt a (XR.abs v) then XR.abs v else a) (.num false 0 0)
  match amax with
  | .nan => 127
  | .inf _ => 254
  | .num _ m e => if m = 0 then 127 else (min 254 (max 0 (127 + ((Nat.log2 m : Int) + e) - 8))).toNat

/-- The code of element `j` of a block (R152): rounding mode SR. -/
def pacerCode (seed t r c e : Nat) (x : Word) : Nat :=
  rtf (XR.scale (f32 x) (254 - c)) 3 5 (genWord seed e 1 (t / 16 % 256) (t % 16) 0 (r % 2 ^ 32))

/-- The contribution a code makes (R152). -/
def contribution (c q : Nat) : XR := XR.scale (decodeFmt 3 q) c

/-- The residual an element keeps. -/
def residual (c q : Nat) (x : Word) : Word :=
  match f32 x with
  | .nan => 0
  | v => r32 (XR.add false v (XR.neg (contribution c q)))

/-- The package's island identifier. -/
def State.island (s : State) : Nat := (s.die 0).isl

/-- A segment record of one block (R153). -/
def segmentBytes (r isl tid first c : Nat) (qs : List Nat) : List Byte :=
  leBytes 8 r ++ leBytes 2 isl ++ leBytes 2 tid ++ leBytes 4 first ++ leBytes 2 1 ++ leBytes 6 0 ++
  leBytes 1 c ++ leBytes 7 0 ++ qs.flatMap (leBytes 1)

/-- The 16-byte tag of a record under an inter-island key (R419). -/
def gcmTag (key : Nat) (bytes : List Nat) : List Nat := (List.range 16).map fun i => (Config.gcmTagByte key bytes i).toNat

/-- Write residuals. -/
def State.putResiduals (s : State) (tenant : Nat) (t : Tensor) : List (Nat × Word) → State
  | [] => s
  | (e, v) :: r => (s.planePut tenant t 7 e v).putResiduals tenant t r

/-- The Pacer snapshots and sends one block (R152). -/
def State.sendBlock (s : State) (x : Session) (rd : Round) (tid b : Nat) (t : Tensor) : State :=
  let es := (List.range 32).map (32 * b + ·)
  let inside := es.filter (· < t.nel)
  match s.planesReach x.tenant t [0, 1, 2, 7] inside with
  | (.hold, _) => s
  | (.bad st d l, a) => s.planeFault x.tenant t.hdie d l st a
  | (.ok _ _, _) =>
    let xs := es.map fun e =>
      if e < t.nel then
        addR (subR (s.weight x.tenant t e) (s.planeGet x.tenant t 2 e)) (s.planeGet x.tenant t 7 e)
      else 0
    let c := pacerScale xs
    let qs := (es.zip xs).map fun y => pacerCode x.seed tid rd.r c y.1 y.2
    let s1 := s.putResiduals x.tenant t
      ((es.zip (xs.zip qs)).filterMap fun y => if y.1 < t.nel then some (y.1, residual c y.2.2 y.2.1) else none)
    let mine := (es.zip qs).filterMap fun y =>
      if y.1 < t.nel then some (s.island, tid, y.1, 256 * c + y.2) else none
    let rd' := { rd with sent := rd.sent ++ [(tid, b)], got := rd.got ++ mine }
    let record := (segmentBytes rd.r s.island tid (32 * b) c qs).map (·.toNat)
    { s1 with
      session := s1.session.map fun (y : Session) => { y with round := some rd' }
      outbox := s1.outbox ++ [(1, record ++ gcmTag x.key record)] }

/-- The Pacer may send blocks of a tensor in a round: the island is listed, and the group's PV is clear (R152, R154). -/
def State.pacerMay (s : State) (x : Session) (rd : Round) (t : Tensor) : Bool :=
  rd.isls.contains s.island && bit rd.mask t.grp && (x.groups[t.grp]?.map (·.pv)) == some false

/-- The first block of a tensor that it has yet to send. -/
def Round.nextBlock (rd : Round) (tid : Nat) (t : Tensor) : Option Nat :=
  (List.range ((t.nel + 31) / 32)).find? fun b => !rd.sent.contains (tid, b)

/-- PACER_BLOCK (R152, R154): each block of the round is sent once. -/
def execPacerBlock (tensor block : Nat) (s : State) : Res :=
  let s := s.unfocus
  match s.session with
  | none => .next s
  | some x =>
    match x.round, x.tensor? tensor with
    | some rd, some t =>
      if x.runs t.hdie 3 && s.pacerMay x rd t && decide (32 * block < t.nel) && !rd.sent.contains (tensor, block) then
        .next (s.sendBlock x rd tensor block t)
      else .next s
    | _, _ => .next s

/-- The contributions of a segment record, by element (R153): 256 times the scale code, plus the code. -/
def segmentParts (bs : List Byte) (nel : Nat) : List (Nat × Nat) :=
  let first := numAt bs 12 4
  let n := numAt bs 16 2
  let codes := 24 + (n + 7) / 8 * 8
  (List.range (32 * n)).filterMap fun i =>
    if first + i < nel then
      some (first + i, 256 * numAt bs (24 + i / 32) 1 + numAt bs (codes + i) 1)
    else none

/-- A segment record is kept, or discarded (R153). -/
def State.takeSegment (s : State) (bytes : List Nat) : State :=
  let bs := bytes.map fun x => BitVec.ofNat 8 x
  let tid := numAt bs 10 2
  let isl := numAt bs 8 2
  let n := numAt bs 16 2
  match s.session with
  | none => s
  | some x =>
    match x.round, x.tensor? tid with
    | some rd, some t =>
      let parts := segmentParts bs t.nel
      let repeats := parts.any fun p => rd.got.any fun y => y.1 == isl && y.2.1 == tid && y.2.2.1 == p.1
      if bs.length = 24 + (n + 7) / 8 * 8 + 32 * n ∧ 1 ≤ n ∧ n ≤ 128 ∧ numAt bs 18 6 = 0 ∧ numAt bs 12 4 % 32 = 0 ∧
          numAt bs 0 8 = rd.r ∧ bit rd.mask t.grp = true ∧ repeats = false then
        let rd' := { rd with got := rd.got ++ parts.map fun p => (isl, tid, p.1, p.2) }
        { s with session := some { x with round := some rd' } }
      else s
    | _, _ => s

/-- SEGMENT_RECORD (R153). -/
def execSegmentRecord (bytes : List Nat) (s : State) : Res := .next (s.unfocus.takeSegment bytes)

/-! ### Rounds (R154, R155) -/

/-- A list of numbers is strictly ascending. -/
def ascending : List Nat → Bool
  | a :: b :: r => decide (a < b) && ascending (b :: r)
  | _ => true

/-- A manifest is accepted when it is well formed, signed under a certificate of the trust list, and names the next round
(R154, R419). (DEDUCED, log 31) -/
def State.takeManifest (s : State) (bytes : List Nat) : State :=
  let bs := bytes.map fun x => BitVec.ofNat 8 x
  let c := numAt bs 10 2
  let isls := (List.range c).map fun i => numAt bs (24 + 2 * i) 2
  match s.session with
  | none => s
  | some x =>
    if x.round.isNone && decide (bs.length = 24 + 2 * c + 64) && decide (1 ≤ c) && decide (c ≤ 256) &&
        numAt bs 14 2 == 0 && numAt bs 20 4 == 0 && ascending isls && numAt bs 0 8 == x.nextRound &&
        x.trust.any (fun k => Config.ecdsaValid k (bytes.take (24 + 2 * c)) (bytes.drop (24 + 2 * c))) then
      let rd : Round :=
        { r := x.nextRound, mask := numAt bs 12 2, isls := isls
          deadline := (s.die 0).ref + 1200000 * numAt bs 16 4, got := [], sent := [] }
      { s with session := some { x with round := some rd } }
    else s

/-- ROUND_MANIFEST (R154). -/
def execRoundManifest (bytes : List Nat) (s : State) : Res := .next (s.unfocus.takeManifest bytes)

/-- Every contribution of the round has arrived. -/
def Session.complete (x : Session) (rd : Round) : Bool :=
  x.valid.all fun t => !bit rd.mask t.2.grp ||
    t.2.elems.all fun e => rd.isls.all fun i => rd.got.any fun y => y.1 == i && y.2.1 == t.1 && y.2.2.1 == e

/-- ROUND_ABANDON (R154): the deadline has passed, and contributions are missing or the island is not listed.
(DEDUCED, log 31) -/
def execRoundAbandon (s : State) : Res :=
  let s := s.unfocus
  match s.session with
  | none => .next s
  | some x =>
    match x.round with
    | none => .next s
    | some rd =>
      if rd.deadline ≤ (s.die 0).ref ∧ (x.complete rd = false ∨ rd.isls.contains s.island = false) then
        .next { s with session := some { x with round := none, nextRound := rd.r + 1 } }
      else .next s

/-- The contribution of an island to an element, exact (R152). -/
def Round.part (rd : Round) (isl tid e : Nat) : XR :=
  match rd.got.find? fun y => y.1 == isl && y.2.1 == tid && y.2.2.1 == e with
  | some y => contribution (y.2.2.2 / 256) (y.2.2.2 % 256)
  | none => .num false 0 0

/-- Fold the elements of a tensor (R155). -/
def State.foldElems (s : State) (tenant tid : Nat) (t : Tensor) (g : Group) (rd : Round) : List Nat → State
  | [] => s
  | e :: r =>
    let sum := rd.isls.foldl (fun a i => r32 (XR.add false (f32 a) (rd.part i tid e))) 0
    let d := r32 (xrDiv (f32 sum) (XR.ofInt rd.isls.length))
    let mom := addR (mulR g.omu (s.planeGet tenant t 6 e)) d
    let pend := addR (s.planeGet tenant t 2 e) (mulR g.olr (addR (mulR g.omu mom) d))
    ((s.planePut tenant t 6 e mom).planePut tenant t 3 e pend).foldElems tenant tid t g rd r

/-- Fold the tensors of the masked groups. -/
def State.foldTensors (s : State) (x : Session) (rd : Round) : List (Nat × Tensor) → State
  | [] => s
  | (tid, t) :: r =>
    match x.groups[t.grp]? with
    | some g => (s.foldElems x.tenant tid t g rd t.elems).foldTensors x rd r
    | none => s.foldTensors x rd r

/-- The round that is to be folded now: every contribution is there, and no masked group waits for a merge (R155, R157). -/
def State.foldNow (s : State) (x : Session) : Option Round :=
  x.round.filter fun rd =>
    let waits := (List.range 16).any fun g => bit rd.mask g && (x.groups[g]?.map (·.pv)) == some true
    rd.isls.contains s.island && !waits && x.complete rd

/-- The tensors of a round. -/
def Session.masked (x : Session) (rd : Round) : List (Nat × Tensor) := x.valid.filter fun t => bit rd.mask t.2.grp

/-- FOLD (R155, R157). -/
def execFold (s : State) : Res :=
  let s := s.unfocus
  match s.session with
  | none => .next s
  | some x =>
    match s.foldNow x with
    | none => .next s
    | some rd =>
      let ts := x.masked rd
      match (if x.allRun 2 (ts.map (·.2)) then s.tensorsReach x.tenant [2, 3, 6] (ts.map (·.2)) else (.hold, 0, 0)) with
      | (.hold, _) => .next s
      | (.bad st d l, a, die) => .next (s.planeFault x.tenant die d l st a)
      | (.ok _ _, _) =>
        let s1 := s.foldTensors x rd ts
        let groups := (List.range x.groups.length).zip x.groups
        let set (g : Nat × Group) : Group := if bit rd.mask g.1 then { g.2 with pv := true } else g.2
        .next { s1 with session := some { x with groups := groups.map set, round := none, nextRound := rd.r + 1 } }

/-! ### Accesses of the plane engines that go unanswered (R392) -/

/-- What an engine of a die reads and writes next that goes unanswered, with the operation whose gradient it reads, or 0: once the
engine has begun. -/
def State.engineDead (s : State) (x : Session) (die engine : Nat) : Nat × List (Nat × Nat × Nat) :=
  let all (ts : List Tensor) (ps : List Nat) : Nat × List (Nat × Nat × Nat) :=
    if x.allRun engine ts then (0, (ts.filter (·.hdie == die)).flatMap fun t => s.elemsDead x.tenant t ps 0 t.nel) else (0, [])
  match engine with
  | 0 => s.updDead x die
  | 1 => if (s.mergeNow x).isSome then all (x.mergeable.flatMap x.ofGroup) [0, 1, 2, 3] else (0, [])
  | 2 =>
    (match s.foldNow x with
      | some rd => all ((x.masked rd).map (·.2)) [2, 3, 6]
      | none => (0, []))
  | _ =>
    (match x.round with
      | some rd =>
        (0, (x.valid.filter fun t => t.2.hdie == die && x.runs die 3 && s.pacerMay x rd t.2).flatMap fun t =>
          match rd.nextBlock t.1 t.2 with
          | some b => s.elemsDead x.tenant t.2 [0, 1, 2, 7] (32 * b) (min 32 (t.2.nel - 32 * b))
          | none => [])
      | none => (0, []))

/-- Note the accesses of the plane engines that go unanswered, by 4 times the die plus the engine. -/
def State.noteEngines (s : State) (x : Session) : Session :=
  { x with deadSince := (List.range 16).filterMap fun k =>
      match smGet x.deadSince k with
      | some y => some (k, y)
      | none =>
        let f := if s.anyDead then s.engineDead x (k / 4) (k % 4) else (0, [])
        (s.noteSent none (k / 4) f.1 f.2).map (k, ·) }

/-- Such accesses have gone unanswered for the system timeout: an UPD whose gradient they read ends with status 0x0017, any
other is an engine fault (R151, R392, R399). (DEDUCED, log 43) -/
def State.engineGiveUp (s : State) (k : Nat) : State :=
  match s.session with
  | none => s
  | some x =>
    match smGet x.deadSince k with
    | none => s
    | some y =>
      if !s.timeUp (k / 4) y.since then s
      else
        let t : State := { s with session := some { x with deadSince := smDel x.deadSince k } }
        match x.upds.find? fun u => y.op != 0 && u.op == y.op with
        | some u => t.updDone u 0x17
        | none => t.planeFault x.tenant (k / 4) 0 0 0x17 y.addr

/-! ### The divergence trap (R158, R341) -/

/-- The frame of the divergence trap (R342): the lowest group with DIV set. With none set any more the
manual gives no values. -/
def State.divFrame (s : State) : Frame :=
  let gs := ((s.session.map (·.groups)).getD [])
  match gs.findIdx? (·.div) with
  | some g => { cause := 3, arg0 := w32 g, arg1 := ((gs[g]?).map (·.dnorm)).getD 0, treg := 0, tok := 0 }
  | none => { cause := 3, arg0 := s.undef 0, arg1 := s.undef 1, treg := 0, tok := 0 }

/-- DIVERGENCE_TRAP (R341). -/
def execDivergenceTrap (blk wid : Nat) (s : State) : Res :=
  let t := s.focus blk wid
  if t.cur.isNone || !t.divReady then .next s.unfocus
  else
    match t.firstPath with
    | none => .next s.unfocus
    | some p =>
      let t : State := { t with im := p.mask }
      match t.kernelTrap p.mask Lane.rewind id t.divFrame with
      | .go u => .next (({ u with w := { u.w with divPend := false } } : State).bump.unfocus)
      | .trap c => .next (({ t.sysTrap c with w := { (t.sysTrap c).w with divPend := false } } : State).unfocus)
      | _ => .next s.unfocus

end Sys2Proof.Machine
end

