-- ==== Sys2Proof/Machine/LaunchEvents.lean ====
section
/-! DEFINITION. Grids in the controller, claims and admission (R16, R20, R29, R86, R372 to R384).
A step that is not enabled changes nothing. -/

namespace Sys2Proof.Machine

/-! ### The leader and its journal (R412 to R414) -/

/-- The die of the pair that leads: named by LEADER of the lowest die that is not isolated, with its pair running
firmware. -/
def State.leader (s : State) : Option Nat :=
  match (List.range 4).find? fun d => !(s.die d).isolated with
  | none => none
  | some d =>
    let l := (s.die d).ctlField 0xB8 0 2
    let x := s.die l
    if bit ((s.die d).ctlNat 0xB8) 31 && !x.pairFailed && !x.isolated && x.running.isSome then some l else none

/-- The journal copies of the dies, those of stacks that do not answer left out (R414). -/
def State.journals (s : State) : List Journal := (s.dies.filter fun d => !d.mute 0).filterMap (·.journal)

/-- The journal copy with the higher commit number (R414). -/
def newest : List Journal → Option Journal
  | [] => none
  | x :: r =>
    match newest r with
    | none => some x
    | some y => some (if x.num < y.num then y else x)

/-- What the leader's journal says under a commit number (R414). -/
def State.journalAs (s : State) (n : Nat) : Journal where
  num := n
  rpcs := s.rpcs
  tenants := (s.die 0).ctl.filter fun c => decide (0x4000 ≤ c.1) && decide (c.1 < 0x4200)
  plane := s.session
  calls := s.calls

/-- The next live die above a die, wrapping round, which holds the second copy (R414). -/
def State.mate (s : State) (d : Nat) : Option Nat :=
  ([1, 2, 3].map fun k => (d + k) % 4).find? fun m => !(s.die m).isolated

/-- The leader writes its journal to the stacks of its own die and of the next live die above it (R414). -/
def State.commit (s : State) : State :=
  match s.leader with
  | none => s
  | some l =>
    let j := some (s.journalAs (((newest s.journals).map (·.num)).getD 0 + 1))
    (l :: (s.mate l).toList).foldl (fun s d => s.modDie d fun x => { x with journal := j }) s

/-- Change an RPC session, and commit. -/
def State.setRpc (s : State) (token : Nat) (f : Rpc → Rpc) : State :=
  ({ s with rpcs := s.rpcs.map fun r => if r.token = token then f r else r } : State).commit

/-! ### RPC replies (R414 to R416) -/

/-- Bytes of a number, as a reply carries them. -/
def leNums (n x : Nat) : List Nat := (leBytes n x).map (·.toNat)

/-- The 32-byte header of a message (R415). -/
def rpcHeader (code st token seq n : Nat) : List Nat :=
  leNums 4 0x43524741 ++ leNums 2 code ++ leNums 2 st ++ leNums 8 token ++ leNums 8 seq ++ leNums 4 n ++ leNums 4 0

/-- The number that some bytes spell, the lowest first. -/
def numOf (bs : List Nat) : Nat := bs.foldr (fun b n => b + 256 * n) 0

/-- The code, token and sequence number that the header of a command gives, when it is one: its magic, status, sequence number and
reserved bytes are as R415 has them. Its payload length is not looked at. (DESIGN CHOICE, log 36) -/
def readHeader (h : List Nat) : Option (Nat × Nat × Nat) :=
  let part (o n : Nat) : Nat := numOf ((h.drop o).take n)
  if h.length = 32 ∧ h.all (· < 256) = true ∧ part 0 4 = 0x43524741 ∧ part 6 2 = 0 ∧ 1 ≤ part 16 8 ∧ part 28 4 = 0 then
    some (part 4 2, part 8 8, part 16 8)
  else none

/-- A reply as it goes out: the header of R415 and its payload. -/
def rpcReply (code st token seq : Nat) (payload : List Nat) : List Nat := rpcHeader code st token seq payload.length ++ payload

/-- Send a session's journalled reply to a command. -/
def State.sendReply (s : State) (token seq st : Nat) (payload : List Nat) : State :=
  let code := ((s.rpcs.find? fun r => r.token == token).bind fun r => smGet r.codes seq).getD 0
  { s with outbox := s.outbox ++ [(2, rpcReply code st token seq payload)] }

/-- Answer a command: the journal keeps the reply before it goes out to the host. While no pair leads, the outcome stands
where the next leader finds it (R414). (DEDUCED, log 26) -/
def State.answer (s : State) (token seq st : Nat) (payload : List Nat) : State :=
  let f (r : Rpc) : Rpc :=
    { r with journal := r.journal ++ [(seq, st, payload)], openCmds := r.openCmds.filter fun o => o.1 != seq }
  if s.leader.isNone then { s with outcomes := s.outcomes ++ [(token, seq, st, payload)] }
  else (s.setRpc token f).sendReply token seq st payload

/-- A command waits for a condition: its number, what it waits for, and the object. -/
def State.pendCmd (s : State) (token seq code arg : Nat) : State :=
  s.setRpc token fun r => { r with openCmds := r.openCmds ++ [(seq, code, arg)] }

/-- Answer the open commands that wait with a code for an object, in order. -/
def State.answerAll (s : State) (code arg st : Nat) (payload : List Nat) : State :=
  let hits := s.rpcs.flatMap fun r => (r.openCmds.filter fun o => o.2.1 == code && o.2.2 == arg).map fun o => (r.token, o.1)
  hits.foldl (fun s h => s.answer h.1 h.2 st payload) s

/-- A new leader goes on from the newest copy of the journal, and answers what came to its end meanwhile (R414). The tenant
table, the plane session and the calls stand where they stood: nothing of them was the old leader's alone. -/
def State.takeOver (s : State) : State :=
  let t : State := { s with rpcs := ((newest s.journals).map (·.rpcs)).getD [], outcomes := [] }
  s.outcomes.foldl (fun s o => s.answer o.1 o.2.1 o.2.2.1 o.2.2.2) t

/-- Something of a session is still to come to its end: a grid of its own, or a packet on its way. -/
def State.busyRpc (s : State) (token : Nat) : Bool :=
  (s.grids.any fun g => g.2.session == some token) ||
  s.inbound.any fun i => (i.rpc.map (·.1)) == some token || (i.parent.any fun p =>
    ((smGet s.grids p.1).bind (·.session)) == some token)

/-- Write the records of a die that wait; a GRID.KILL is complete once the record of its grid is written (R400, R416). -/
def State.flushDie (s : State) (die : Nat) : State :=
  let old := (s.die die).backlog
  let t := s.flushRecords die old
  (old.take (old.length - (t.die die).backlog.length)).foldl
    (fun t r => if r.kind = 6 then t.answerAll 0x22 r.grid 0 [] else t) t

/-- Sessions that close and have no grid and no buffer left answer their SESSION.CLOSE (R360, R416). -/
def State.closeSessions (s : State) : State :=
  let shut := s.rpcs.filterMap fun r =>
    match r.closing with
    | some q =>
      if (r.journal.any fun j => j.1 == q) || (s.outcomes.any fun o => o.1 == r.token && o.2.1 == q) || s.busyRpc r.token ||
          s.buffers.any fun b => b.session == some r.token then none
      else some (r.token, q)
    | none => none
  shut.foldl (fun s x => s.answer x.1 x.2 0 []) s

/-! ### Acceptance and start (R374 to R377) -/

/-- GRID_ACCEPT (R374 to R376): a host's packet, once the die holds fewer than 64 pending grids and what it reads can be
reached (R423); a read that goes unanswered holds it (R392). -/
def execGridAccept (die : Nat) (s : State) : Res :=
  let s := s.unfocus
  match s.inbound.find? fun i => i.die == die with
  | none => .next s
  | some i =>
    if decide (64 ≤ s.pendingOn die) || i.deadSince.isSome || s.launchHeld i then .next s
    else
      let t : State := { s with inbound := s.inbound.erase i }
      match s.judge i with
      | .inl r =>
        .next (match i.rpc with
          | some (tok, seq) => t.answer tok seq r []
          | none => t)
      | .inr (p, c) =>
        let (gid, u) := t.admitGrid i p c
        .next (match i.rpc with
          | some (tok, seq) => u.answer tok seq 0 (leNums 4 gid)
          | none => u)

/-- The dependence word of a grid, read by its home controller (R377). -/
def State.readWaita (s : State) (g : Grid) : Reach :=
  let a := g.packet.waita
  if !vaOk a then .bad 0 0 0
  else if s.rangeHeld g.home g.tenant 0 a 8 then .hold
  else
    match s.translate g.home g.tenant 0 a with
    | .bad d l => .bad 0 d l
    | .ok l => if s.bad l 8 then .bad 0 0 0 else .ok l (s.farBytes l 8)

/-- WAITA_POLL (R377): a read that faults is reported, and the grid stays pending; one that goes unanswered holds the next
(R392). -/
def execWaitaPoll (grid : Nat) (s : State) : Res :=
  let s := s.unfocus
  match smGet s.grids grid with
  | none => .next s
  | some g =>
    if g.depOk || g.ended || !g.deadSince.isEmpty then .next s
    else
      match s.readWaita g with
      | .hold => .next s
      | .bad _ d l =>
        .next (s.record (engineRecord g.home 3 g.tenant 0 grid { Held.zero with detail := d, loc := l, addr := g.packet.waita }))
      | .ok _ bs =>
        let ok := decide ((leNat bs + 2 ^ 64 - g.packet.waitv % 2 ^ 64) % 2 ^ 64 < 2 ^ 63)
        .next { (s.keep g.home g.tenant 0 g.packet.waita) with grids := smSet s.grids grid { g with depOk := ok } }

/-- Bytes of a counter area (R111). -/
def counterArea : Nat := 49152

/-- The Granary allocations of a die: grids' with their counter areas (R372). -/
def State.granaryUsed (s : State) (die : Nat) : List (Nat × Nat) :=
  s.grids.flatMap fun g => (g.2.dies.filter fun d => d.die == die).map fun d => (d.off, g.2.packet.gran + counterArea)

/-- The Granary bytes that the grids and admitted blocks of tenants hold on a die (R372). -/
def State.granaryHeld (s : State) (die : Nat) (who : Nat → Bool) : Nat :=
  (s.grids.map fun g =>
    if who g.2.tenant && g.2.dies.any (·.die == die) then g.2.packet.gran + counterArea else 0).sum +
  (s.unfocus.blocks.map fun b =>
    if who b.2.tenant && b.2.homeDie == die then (s.pktOf b.2).spl * 256 * (s.pktOf b.2).t else 0).sum

/-- A tenant may take more Granary bytes on a die (R372). -/
def State.granaryRoom (s : State) (die tenant n : Nat) : Bool :=
  let d := s.die die
  match d.tenSlot tenant with
  | none => false
  | some k =>
    decide (s.granaryHeld die (· == tenant) + n ≤ d.tenGlim k) &&
    decide (s.granaryHeld die (fun _ => true) + n ≤ 96 * 2 ^ 20)

/-- Start a grid on a die: its allocation, its counters cleared, its constant segment copied (R212, R377). -/
def State.startGrid (s : State) (g : Grid) (die off : Nat) (consts : List Byte) : State :=
  let t := s.modDie die fun d => { d with granary := memWrite (smCut d.granary off g.packet.gran) off consts }
  let started : GridDie := { die := die, off := off, counters := [] }
  State.bump { t with grids := smSet t.grids g.id { g with dies := g.dies ++ [started] } }

/-- A grid is to start on a die, which has room for it (R377). -/
def State.gridDue (s : State) (g : Grid) (die : Nat) : Bool :=
  !g.ended && g.depOk && bit g.packet.diem die && decide (die < 4) && !(g.dies.any (·.die == die)) &&
  s.granaryRoom die g.tenant (g.packet.gran + counterArea)

/-- GRID_START (R377): the copy of the constant segment is an engine operation, which waits where its lines cannot be
reached now (R212, R397, R409, R423, R426). -/
def execGridStart (grid die : Nat) (s : State) : Res :=
  let s := s.unfocus
  match smGet s.grids grid with
  | none => .next s
  | some g =>
    let p := g.packet
    if !s.gridDue g die || (smGet g.deadSince die).isSome || s.rangeHeld die g.tenant 0 p.csa p.cslen then .next s
    else
      match findRoom (s.granaryUsed die) 0 (96 * 2 ^ 20) 4096 (p.gran + counterArea) (s.choice 0 % 24576),
        s.vaBytes die g.tenant 0 p.csa p.cslen with
      | some off, some cs => .next (s.startGrid g die off cs)
      | _, _ => .next s

/-! ### Fit and placement (R20, R382, R384) -/

/-- The blocks resident on a core. -/
def State.blocksOn (s : State) (core : Nat) : List (Nat × Block) :=
  s.unfocus.blocks.filter fun b => s.runsOn b.2 core

/-- Warps and threads of a block on a core of its own: the first warp, and the warp after the last. -/
def Packet.half (p : Packet) (second : Bool) : Nat × Nat :=
  if p.e = 0 then (0, p.warps) else if second then (p.e, p.warps) else (0, p.e)

/-- Warps and threads that one half of a new block brings (R382). -/
def Packet.brings (p : Packet) (second : Bool) : Nat × Nat :=
  let (lo, hi) := p.half second
  (hi - lo, p.threadsOf lo hi)

/-- Place the warps of one half of a block on a core (R20): units, or none. -/
def State.placeHalf (s : State) (core : Nat) (p : Packet) (second : Bool) : Option (List (Nat × Nat)) :=
  let (lo, hi) := p.half second
  (placeAll p.wordsOf ((List.range (hi - lo)).map (lo + ·)) (s.freeWords core p)).map (·.1)

/-- One core has the slots and threads for the warps and threads that come (R20). -/
def State.halfFits (s : State) (core : Nat) (come : Nat × Nat) : Bool :=
  let (w, t) := s.slotsTaken core
  decide (w + come.1 ≤ 128) && decide (t + come.2 ≤ 2048)

/-- Policy and width of a core agree with a packet (R384). -/
def State.agrees (s : State) (core : Nat) (p : Packet) : Bool :=
  let bs := s.blocksOn core
  (match (s.die (coreDie core)).corePol (core % 48) with
    | some rr => decide (p.pol = 1) == rr
    | none => bs.all fun b => (s.pktOf b.2).pol == p.pol) &&
  bs.all fun b => (s.pktOf b.2).wc == p.wc

/-- Shared memory, tiles and stations of a core that its blocks hold (R382): those of a pair are on core 2c. -/
def State.taken (s : State) (core : Nat) (f : Packet → Nat) : Nat :=
  ((s.blocksOn core).map fun b => if b.2.core = some core then f (s.pktOf b.2) else 0).sum

/-- The resources of R382 that a block, new or swapped in, needs on a core or pair, spill backing aside; `come` counts
the warps and threads of a half, and `pl` says whether they can be placed. -/
def State.roomOn (s : State) (core : Nat) (p : Packet) (come : Bool → Nat × Nat) (pl : Nat → Bool → Bool) : Bool :=
  s.agrees core p && s.halfFits core (come false) && pl core false &&
  (p.e == 0 || (core % 2 == 0 && s.agrees (core + 1) p && s.halfFits (core + 1) (come true) && pl (core + 1) true)) &&
  decide (s.taken core (·.shk) + p.shk ≤ 512) && decide (s.taken core (·.acc) + p.acc ≤ 192) &&
  decide (s.taken core (·.z) + p.z ≤ 8)

/-- The cores a block takes. -/
def Packet.cores (p : Packet) (core : Nat) : List Nat := if p.e = 0 then [core] else [core, core + 1]

/-- The tenant's mask holds the core, or both of the pair. -/
def State.owned (s : State) (core tenant : Nat) (p : Packet) : Bool :=
  (p.cores core).all fun c => (s.die (coreDie core)).tenOwns tenant c && !s.failedCores.contains c

/-- The base overlay of a grid on a core: its entry, when it is not absent. -/
def State.baseOf (s : State) (core : Nat) (g : Grid) : Option (Nat × LoftEntry) :=
  match g.dir.head? with
  | some d => s.findKey core g.tenant d.hash
  | none => none

/-- The base overlay is resident (R86). -/
def State.baseReady (s : State) (core : Nat) (g : Grid) : Bool :=
  match s.baseOf core g with
  | some e => e.2.st == .resident
  | none => false

/-- The base overlay is resident or loadable (R371, R382). -/
def State.baseFits (s : State) (core : Nat) (g : Grid) : Bool :=
  match s.baseOf core g, g.dir.head? with
  | some _, _ => true
  | none, some d => (s.makeRoom core g.tenant d.slots []).isSome
  | none, none => false

/-- Load the base overlay of a grid on a core unless it is there, and pin it for the grid (R86). A load that ends with
status 2 or 3 leaves the entry absent, with no record, and the block that waits for it has it loaded again. (DESIGN
CHOICE, log 39) -/
def State.loadBase (s : State) (core : Nat) (g : Grid) : State :=
  match s.baseOf core g, g.dir.head? with
  | some (n, _), _ =>
    s.modLoft core n fun e =>
      { e with
        base := if e.base.contains g.id then e.base else e.base ++ [g.id]
        evictMark := false
        st := if e.st = .evictPending then .resident else e.st }
  | none, some d =>
    match s.makeRoom core g.tenant d.slots [] with
    | some t => (t.startLoad core g.tenant g.id 0 d [g.id] [] none []).2
    | none => s
  | none, none => s

/-- A new block of a grid fits a core or pair (R382). -/
def State.fitsNew (s : State) (core : Nat) (g : Grid) : Bool :=
  let p := g.packet
  s.roomOn core p p.brings (fun c x => (s.placeHalf c p x).isSome) && s.granaryRoom (coreDie core) g.tenant (p.spl * 256 * p.t) &&
  (p.cores core).all fun c => s.baseFits c g

/-- The template of block `n` of a grid (R29, R379). -/
def Grid.template (g : Grid) (off n : Nat) : List Word :=
  let p := g.packet
  [p.gx, p.gy, p.gz, n % p.gx, n / p.gx % p.gy, n / (p.gx * p.gy), p.t, off].map w32 ++ p.args.map w32

/-- Lane `i` of warp `w` of a new block: a thread, or vacant (R15, R16). -/
def newLane (p : Packet) (entry : Word) (w i : Nat) : Lane :=
  let tid := w * p.width + i
  if tid < p.t then { Lane.vacantAt i with tid := tid, st := .runnable, pc := entry } else Lane.vacantAt i

/-- Put warps one after another into their units, each in the lowest free slot (R16, R356). -/
def State.seat (s : State) (upper : Bool) (p : Packet) (entry : Word) (regs : SMap Word) (age : Nat) (used : Nat → Nat → List Nat) :
    List (Nat × Nat) → List (Nat × Warp)
  | [] => []
  | (w, u) :: r =>
    let (part, half) := unitPlace p.wc u
    let slot := ((List.range 129).find? fun n => !(used part half).contains n).getD 0
    let role := p.role w
    let wp := freshWarp w role (p.budget role) upper part half slot age ((List.range p.width).map (newLane p entry w)) regs
    (w, wp) :: s.seat upper p entry regs age (fun a b => if a = part ∧ b = half then slot :: used a b else used a b) r

/-- Slots in use in a partition or half of a core. -/
def State.usedSlots (s : State) (core part half : Nat) : List Nat :=
  ((s.residents core).filter fun x => x.2.2.part == part && x.2.2.half == half).map (·.2.2.slot)

/-- The position of an admission on a core in this clock (R383). (DEDUCED, log 9) -/
def State.position (s : State) (core : Nat) : Nat :=
  (s.die (coreDie core)).clock * 2 ^ 32 + core * 2 ^ 20 + s.admCount % 2 ^ 20

/-- The warps of a new block on its core or pair. -/
def State.newWarps (s : State) (core : Nat) (g : Grid) (template : List Word) : SMap Warp :=
  let p := g.packet
  let half (c : Nat) (second : Bool) : List (Nat × Warp) :=
    s.seat second p (mkPc 0 g.kernel) (templateRegs template) (s.position core) (s.usedSlots c)
      ((s.placeHalf c p second).getD [])
  half core false ++ (if p.e = 0 then [] else half (core + 1) true)

/-- Admit block `n` of a grid on a core or pair (R16, R382, R383). -/
def State.seatBlock (s : State) (core : Nat) (g : Grid) (n : Nat) : State :=
  let d := coreDie core
  let off := ((g.dies.find? fun x => x.die == d).map (·.off)).getD 0
  let template := g.template off n
  let key := s.serial
  let b : Block := { Block.empty with
    key := key, grid := g.id, idx := n, tenant := g.tenant, core := some core
    warps := s.newWarps core g template, template := template
    adm := s.position core, resStart := (s.die d).clock, homeDie := d, lastCore := core }
  { s with
    serial := s.serial + 1
    admCount := s.admCount + 1
    blocks := smSet s.blocks key b
    grids := smMod s.grids g.id fun g =>
      { g with skipSince := smDel g.skipSince d, barring := g.barring.filter (· != d) } }

end Sys2Proof.Machine
end

