-- ==== Sys2Proof/Machine/SchedEvents.lean ====
section
/-! DEFINITION. Which blocks can run, claims and admission, time slices, swap-out and swap-in, retirement
(R32 to R35, R86 to R91, R377 to R389, R402 to R405). A step that is not enabled changes nothing. -/

namespace Sys2Proof.Machine

/-! ### Able to run, idle (R386, R388) -/

/-- Issue one of the words that may stall, to see whether it would. -/
def tryWord (i : Instr) (s : State) : Option Res :=
  match i with
  | .waitf m g => some (execWaitf m g s)
  | .waitl m g => some (execWaitl m g s)
  | .waitst va sb g => some (execWaitst va sb g s)
  | .waitstGranary va sb g => some (execWaitstGranary va sb g s)
  | .waitstFar va sb g => some (execWaitstFar va sb g s)
  | .hurdleWait va sb g => some (execHurdleWait va sb g s)
  | .join g => some (execJoin g s)
  | .launch sa g => some (execLaunch sa g s)
  | .sign b g => some (execSign b g s)
  | .cubestn sa fs => some (execCubestn sa fs s)
  | .cubestw sa fs => some (execCubestw sa fs s)
  | .accld a va fs => some (execAccld a va fs s)
  | .accst a va fs => some (execAccst a va fs s)
  | .accz a fs => some (execAccz a fs s)
  | .cpy sa c sc fs => some (execCpy sa c sc fs s)
  | .cpyt sa c sc fs => some (execCpyt sa c sc fs s)
  | .cpyq sa c sc fs => some (execCpyq sa c sc fs s)
  | .upd sa fs g => some (execUpd sa fs g s)
  | .fnc set sc => some (execFnc set sc s)
  | .svc va n g => some (execSvc va n g s)
  | .land sa => some (execLand sa s)
  | .stepOpen g => some (execStepOpen g s)
  | .stepClose m fs g => some (execStepClose m fs g s)
  | .merge fs g => some (execMerge fs g s)
  | .reform va o g => some (execReform va o g s)
  | .callo sa e => some (execCallo sa e s)
  | .trap c g => some (execTrap c g s)
  | .oprdy => some (execOprdy s)
  | .hurdleArrive va c g => some (execHurdleArrive va c g s)
  | .ldsB32 vd va o g => some (execLdsB32 vd va o g s)
  | .ldsB64 vd va o g => some (execLdsB64 vd va o g s)
  | .ldgB32 vd va o g => some (execLdgB32 vd va o g s)
  | .ldgB64 vd va o g => some (execLdgB64 vd va o g s)
  | .ldk vd va o g => some (execLdk vd va o g s)
  | .sld sd sa i => some (execSld sd sa i s)
  | .glean vd pd sa g => some (execGlean vd pd sa g s)
  | .atom vd va o sp ty g => some (execAtom vd va o sp ty g s)
  | .fld vd va c sc fs sz => some (execFld vd va c sc fs sz s)
  | .fldacq vd va c sc fs sz => some (execFldacq vd va c sc fs sz s)
  | .fst vs va c sc fs sz => some (execFst vs va c sc fs sz s)
  | .fstrel vs va c sc fs st => some (execFstrel vs va c sc fs st s)
  | .fatom vd va c sc fs o ty => some (execFatom vd va c sc fs o ty s)
  | .cvtTrl sa sb u fs k => some (execCvtTrl sa sb u fs k s)
  | .cvtChk sa u fs k => some (execCvtChk sa u fs k s)
  | _ => none

/-- Issue a hint word. -/
def tryHint (i : Instr) (s : State) : Option Res :=
  match i with
  | .hintImm imm => some (execHintImm imm s)
  | .hintXv mp mn rm vc zi sat => some (execHintXv mp mn rm vc zi sat s)
  | .hintUwin a b c => some (execHintUwin a b c s)
  | .hintSched act => some (execHintSched act s)
  | _ => none

/-- The words at which a stall makes a block idle (R388). -/
def idleWord : Instr → Bool
  | .waitf .. | .waitl .. | .waitst .. | .waitstGranary .. | .waitstFar .. | .hurdleWait .. | .join .. | .launch ..
  | .sign .. | .cubestn .. | .cubestw .. | .accld .. | .accst .. | .accz .. | .cpy .. | .cpyt .. | .cpyq ..
  | .upd .. => true
  | _ => false

/-- Why a path does not issue: nothing keeps it, a wait of R388, or another wait. -/
inductive Stuck where
  | no | idle | other
  deriving DecidableEq, Repr

/-- The word at a PC in the overlay's image in memory, for the focused warp (R92). -/
def State.imageWord (s : State) (pc : Word) : Fetch :=
  match s.grid?.bind fun g => (g.dir[pcOvx pc]?).map fun d => (g.packet.cont + d.image + 4 * d.count, d.size) with
  | none => .absent
  | some (a, size) =>
    if size ≤ 4 * pcWord pc then .past
    else
      match s.vaBytes s.dieNo s.blk.tenant 0 (a + 4 * pcWord pc) 4 with
      | some bs => .word (leNat bs)
      | none => .absent

/-- The word at a PC of the focused warp: of a block that is out, its code may have left the Loft by force (R88). -/
def State.codeWord (s : State) (pc : Word) : Fetch :=
  match s.fetch pc with
  | .absent => if s.blk.core.isNone then s.imageWord pc else .absent
  | f => f

/-- What keeps the issuing path of the focused warp at its next instruction, past the header and the hints that stand before it
(R44, R224), of which it looks through `n`; interlocks and absent code keep nothing for long. -/
def State.stuckIn : Nat → State → Stuck
  | 0, _ => .no
  | n + 1, s =>
    match s.lead with
    | none => .other
    | some l =>
      match s.codeWord l.pc with
      | .word w =>
        match decode w with
        | some (.clauseHeader wait a b len yld rcv) =>
          if l.clause.isSome || !(Instr.clauseHeader wait a b len yld rcv).wf then .no
          else if rcv == 1 && s.w.anyBehind l.depth l.pc then .idle
          else if s.accTrap wait then .no
          else if !s.w.flagsClear wait then .idle
          else (s.mapIm (Lane.enter ⟨a, b, len + 1, wait⟩)).stuckIn n
        | some i =>
          if s.accTrap ((l.clause.map (·.wait)).getD 0) then .no
          else if !s.w.clauseOpen l then .idle
          else
            match tryHint i s with
            | some (.next t) => if s.blk.held.length < t.blk.held.length then .no else t.stuckIn n
            | _ =>
              match tryWord i s with
              | some (.next t) => if t.stalled then (if idleWord i then .idle else .other) else .no
              | _ => .no
        | none => .no
      | _ => .no

/-- What keeps the issuing path of the focused warp: a header, and up to 16 hints, since a clause has 16 words (R215). -/
def State.stuck (s : State) : Stuck := s.stuckIn 18

/-- What keeps each path of a warp; the paths of a warp that is parked at an SVC wait with it at their safe points
(R350). -/
def State.stucks (s : State) (b w : Nat) : List Stuck :=
  let t := s.focus b w
  t.w.paths.map fun p =>
    if t.w.parked.isSome && (t.blk.core.isNone || t.pathSafe p) then .idle else ({ t with im := p.mask } : State).stuck

/-- Every lane's reply of a parked warp's call is there (R350). -/
def State.replied (s : State) (blk id : Nat) : Bool :=
  s.calls.any fun c => c.id == id && c.blk == blk && c.replies.length + 1 == c.slots

/-- A warp of a block could issue. -/
def State.warpAble (s : State) (b : Nat) (w : Nat × Warp) : Bool :=
  (s.stucks b w.1).any (· == .no) ||
  match w.2.parked with
  | some p => s.replied b p.id
  | none =>
    w.2.divPend ||
    w.2.lanes.any fun l => (l.st == .waiting && !w.2.anyBehind l.depth l.pc) || (l.st == .late && l.arrivedAll l.lateMask)

/-- Some warp of a block could issue (R386), one built from a due sheaf among them, which takes a free %warpid (R52). -/
def State.couldIssue (s : State) (k : Nat) (b : Block) : Bool :=
  (b.dueSheaf.isSome && (s.freeWid b).isSome) || b.barrierReady || b.warps.any fun w => s.warpAble k w

/-- A resident block is idle (R388). -/
def State.isIdle (s : State) (k : Nat) (b : Block) : Bool :=
  b.held.isEmpty && !s.couldIssue k b && b.warps.all fun w => (s.stucks k w.1).all (· == .idle)

/-- The quota of a core can hold the overlays that a block needs there, after the eviction of others (R80, R89). -/
def State.reloadable (s : State) (b : Block) (core : Nat) : Bool :=
  match smGet s.grids b.grid with
  | none => false
  | some g =>
    let os := 0 :: b.overlays
    let keep := os.filterMap g.dirHash
    decide (s.slotsUsed core b.tenant + ((s.missing core b g os).map (·.slots)).sum ≤
      s.quotaOf core b.tenant + ((s.evictable core b.tenant keep).map (·.2.slots)).sum)

/-- A core, or a pair, may take a swapped-out block and its overlays, room aside (R89, R370). -/
def State.takes (s : State) (core : Nat) (b : Block) : Bool :=
  let p := s.pktOf b
  coreDie core == b.homeDie && (p.e == 0 || core % 2 == 0) && s.owned core b.tenant p &&
  (p.cores core).all (s.reloadable b)

/-- The cores of a die. -/
def dieCores (d : Nat) : List Nat := (List.range 48).map (48 * d + ·)

/-- A swapped-out block is able to run (R386, R401): some core of its die can hold its overlays, and its condition has
come to hold. -/
def State.able (s : State) (k : Nat) (b : Block) : Bool :=
  b.core.isNone && b.save.isSome && !b.stopped && b.held.isEmpty && (dieCores b.homeDie).any (s.takes · b) &&
  (if b.outReason = some 0 then b.roomFor.isNone else s.couldIssue k b)

/-! ### Room for swapped-out blocks (R34, R89, R382) -/

/-- Where the warps of a swapped-out block would go on a core. -/
def State.placeBack (s : State) (core : Nat) (b : Block) (second : Bool) : Option (List (Nat × Nat)) :=
  let p := s.pktOf b
  let mine := b.warps.filter fun w => w.2.upper == second
  let words (w : Nat) : Nat := match smGet b.warps w with
    | some x => x.lanes.length * x.budget
    | none => 0
  (placeAll words (mine.map (·.1)) (s.freeWords core p)).map (·.1)

/-- Warps and threads that one half of a swapped-out block brings, the threads in its sheaves with the first. -/
def Block.brings (b : Block) (second : Bool) : Nat × Nat :=
  let ws := b.warps.filter fun w => w.2.upper == second
  (ws.length, (ws.map fun w => w.2.threads).sum + if second then 0 else b.filed)

/-- A swapped-out block has room on a core or pair of its die (R89, R382). -/
def State.roomBack (s : State) (core : Nat) (b : Block) : Bool :=
  s.takes core b && s.roomOn core (s.pktOf b) b.brings fun c x => (s.placeBack c b x).isSome

/-- The core, or the first of the pair, at which a block would stand to take room on a core. -/
def State.standAt (s : State) (b : Block) (core : Nat) : Nat := if (s.pktOf b).e = 0 then core else core / 2 * 2

/-- A block has left one of these cores to make room for another (R387). -/
def State.promised (s : State) (cores : List Nat) (k : Nat) : Bool :=
  s.blocks.any fun x => x.2.core.isNone && x.2.roomFor == some k &&
    ((s.pktOf x.2).cores x.2.lastCore).any cores.contains

/-- Some swapped-out block that is able to run has room that takes one of these cores, and goes before the block of admission
`adm` where that is given: it was admitted earlier (R34). Room that a block has made for another goes to that one first
(R387). -/
def State.waiterFor (s : State) (cores : List Nat) (before : Option Nat) : Bool :=
  let s := s.unfocus
  let first (b : Nat × Block) : Bool := match before with
    | some a => b.2.adm != a && (decide (b.2.adm < a) || s.promised cores b.1)
    | none => true
  !(s.blocks.any fun b => before == some b.2.adm && s.promised cores b.1) &&
  s.blocks.any fun b => first b && s.able b.1 b.2 && cores.any fun c => s.roomBack (s.standAt b.2 c) b.2

/-! ### Claims and admission (R379 to R381) -/

/-- Blocks of a grid. -/
def Grid.total (g : Grid) : Nat := g.packet.gx * g.packet.gy * g.packet.gz

/-- A grid qualifies for a claim by a core, room aside (R380). -/
def State.qualifies (s : State) (core : Nat) (g : Grid) : Bool :=
  let d := coreDie core
  !g.ended && g.dies.any (·.die == d) && decide (g.counter < g.total) && s.owned core g.tenant g.packet &&
  bit g.packet.diem d && (g.packet.e == 0 || core % 2 == 0) && (g.packet.cores core).all fun c => s.agrees c g.packet

/-- Priority first, then oldest acceptance (R380). -/
def Grid.ahead (a b : Grid) : Bool := decide (b.prio < a.prio) || (a.prio == b.prio && decide (a.order < b.order))

/-- A starved grid of the die bars this one (R380). -/
def State.starved (s : State) (d : Nat) (g : Grid) : Bool :=
  s.grids.any fun x => x.2.barring.contains d && decide (x.2.order < g.order) && decide (g.prio ≤ x.2.prio)

/-- The grids of a list that stand ahead of every other are first. -/
def bestGrid : List Grid → Option Grid
  | [] => none
  | g :: r =>
    match bestGrid r with
    | none => some g
    | some x => if x.ahead g then some x else some g

/-- The start queue of a core. -/
def State.startQueue (s : State) (core : Nat) : List (Nat × Nat) := (smGet (s.die (coreDie core)).startQ core).getD []

/-- Replace the start queue of a core. -/
def State.setQueue (s : State) (core : Nat) (q : List (Nat × Nat)) : State :=
  s.modDie (coreDie core) fun d => { d with startQ := if q.isEmpty then smDel d.startQ core else smSet d.startQ core q }

/-- OFF is set on a core (R369). -/
def State.off (s : State) (core : Nat) : Bool :=
  (s.die (coreDie core)).coreOff (core % 48) || s.failedCores.contains core

/-- A start queue stands under the first core of its pair: the second core's is empty when neither holds a block for it
(R381). -/
def State.queueClear (s : State) (core : Nat) : Bool :=
  (s.startQueue core).isEmpty &&
  (core % 2 == 0 || (s.startQueue (core - 1)).all fun x => ((smGet s.grids x.1).map (·.packet.e)).getD 0 == 0)

/-- The second core of the pair can claim with the first, for a grid whose blocks span (R34, R380). -/
def State.pairOpen (s : State) (core : Nat) (p : Packet) : Bool :=
  p.e == 0 || (!s.off (core + 1) && (s.startQueue (core + 1)).isEmpty && !s.waiterFor [core + 1] none)

/-- The base overlay is resident on the core or on both of the pair. -/
def State.basesReady (s : State) (core : Nat) (g : Grid) : Bool := (g.packet.cores core).all fun c => s.baseReady c g

/-- Load the base overlay where it is wanted. -/
def State.loadBases (s : State) (core : Nat) (g : Grid) : State := (g.packet.cores core).foldl (fun s c => s.loadBase c g) s

/-- A grid's blocks may be admitted to a core or pair now: none is OFF, and the tenant holds them (R369, R370). -/
def State.admits (s : State) (core : Nat) (g : Grid) : Bool :=
  s.owned core g.tenant g.packet && (g.packet.cores core).all (!s.off ·) && s.fitsNew core g

/-- Admit the head of a core's start queue when it fits, its base overlay is resident, and no swapped-out block
has the prior claim (R34, R381); load that overlay when it is not there. -/
def State.admitHead (s : State) (core : Nat) : State :=
  match s.startQueue core with
  | [] => s
  | (gid, n) :: r =>
    match smGet s.grids gid with
    | none => s.setQueue core r
    | some g =>
      if g.ended then s.setQueue core r
      else if !s.admits core g || s.waiterFor (g.packet.cores core) none then s
      else
        let t := s.loadBases core g
        if t.basesReady core g then (t.seatBlock core g n).setQueue core r else t

/-- Grids of a die that a claim passes over for lack of room note since when (R380). -/
def State.noteSkips (s : State) (core : Nat) (gs : List Grid) : State :=
  let d := coreDie core
  let clk := (s.die d).clock
  gs.foldl (fun s g =>
    { s with grids := smMod s.grids g.id fun x =>
        { x with skipSince := if (smGet x.skipSince d).isSome then x.skipSince else smSet x.skipSince d clk } }) s

/-- A qualifying grid can be claimed from now: its block fits, no starved grid bars it, and the pair is free for it
(R380). -/
def State.claimFits (s : State) (core : Nat) (g : Grid) : Bool :=
  s.fitsNew core g && !s.starved (coreDie core) g && s.pairOpen core g.packet

/-- BLOCK_CLAIM (R379 to R381): a chunk of blocks goes to the core's start queue, and the first is admitted at
once when its base overlay is resident. -/
def execBlockClaim (core : Nat) (s : State) : Res :=
  let s := s.unfocus
  if 192 ≤ core ∨ s.off core = true ∨ s.queueClear core = false ∨ s.waiterFor [core] none = true then .next s
  else
    let gs := (s.grids.map (·.2)).filter (s.qualifies core)
    let fit := gs.filter (s.claimFits core)
    let s1 := s.noteSkips core (gs.filter fun g => !s.fitsNew core g)
    match bestGrid fit with
    | none => .next s1
    | some g =>
      let hi := min (g.counter + g.packet.chunk) g.total
      let s2 : State := { s1 with grids := smMod s1.grids g.id fun x => { x with counter := hi } }
      .next ((s2.setQueue core ((List.range (hi - g.counter)).map fun i => (g.id, g.counter + i))).admitHead core)

/-- CLAIM_STARVATION (R380): a grid skipped for 2^20 clocks bars younger ones on the die. -/
def execClaimStarvation (grid die : Nat) (s : State) : Res :=
  let s := s.unfocus
  match smGet s.grids grid with
  | none => .next s
  | some g =>
    match smGet g.skipSince die with
    | some t =>
      if t + 2 ^ 20 ≤ (s.die die).clock ∧ g.barring.contains die = false then
        .next { s with grids := smSet s.grids grid { g with barring := g.barring ++ [die] } }
      else .next s
    | none => .next s

/-- BLOCK_ADMIT (R381, R382). -/
def execBlockAdmit (core : Nat) (s : State) : Res := .next (s.unfocus.admitHead core)

/-! ### Time slices (R385 to R388) -/

/-- QUANTUM_END (R385): whether the quantum of a resident block has ended, by QNT as it stands now. -/
def execQuantumEnd (blk : Nat) (s : State) : Res :=
  let s := s.unfocus
  .next (s.modBlock blk fun b =>
    let d := s.die (coreDie b.onCore)
    { b with quantumOver := b.core.isSome && decide (b.resStart + d.quantum (s.gridPrio b.grid) ≤ d.clock) })

/-- The machine with a block gone from its core. -/
def State.without (s : State) (blk : Nat) : State := s.modBlock blk fun b => { b with core := none }

/-- A block that has not started could take room at a core, for one core or for the pair from it on: the head of its start
queue, or one it could claim (R380, R381). -/
def State.starter (s : State) (core : Nat) (pairs : Bool) : Bool :=
  let kind (g : Grid) : Bool := !pairs || g.packet.e != 0
  match s.startQueue core with
  | (gid, _) :: _ => (match smGet s.grids gid with
      | some g => kind g && !g.ended && s.admits core g
      | none => false)
  | [] => !s.off core && s.queueClear core && s.grids.any fun g => kind g.2 && s.qualifies core g.2 && s.claimFits core g.2

/-- Some block could take room on one of these cores: swapped out and able, in a start queue, or claimable (R388). -/
def State.takers (s : State) (cores : List Nat) (except : Nat) : Bool :=
  (s.blocks.any fun b => b.1 != except && s.able b.1 b.2 && cores.any fun c => s.roomBack (s.standAt b.2 c) b.2) ||
  cores.any fun c => s.starter c false || (c % 2 == 1 && s.starter (c - 1) true)

/-- IDLE_SWAP (R388). -/
def execIdleSwap (blk : Nat) (s : State) : Res :=
  let s := s.unfocus
  match smGet s.blocks blk with
  | none => .next s
  | some b =>
    match b.core, b.idleSince with
    | some c, some t =>
      let d := s.die (coreDie c)
      if d.idleDelay ≠ 0 ∧ t + d.idleDelay ≤ d.clock ∧ b.swapReason = none ∧ (s.without blk).takers ((s.pktOf b).cores c) blk = true then
        .next (s.modBlock blk fun b => { b with swapReason := some (if b.warps.all fun w => w.2.parked.isSome then 5 else 1) })
      else .next s
    | _, _ => .next s

/-- The order in which R387 picks a block: earliest residency, then oldest admission. -/
def Block.sooner (a b : Block) : Bool :=
  decide (a.resStart < b.resStart) || (a.resStart == b.resStart && decide (a.adm < b.adm))

/-- The block of a list that R387 picks. -/
def firstOut : List (Nat × Block) → Option (Nat × Block)
  | [] => none
  | x :: r =>
    match firstOut r with
    | none => some x
    | some y => if y.2.sooner x.2 then some y else some x

/-- WAITING_FOR_CORE (R387): a block able to run with no room anywhere gets the room of one whose quantum has ended, be it one
that is already to leave for another reason. -/
def execWaitingForCore (blk : Nat) (s : State) : Res :=
  let s := s.unfocus
  match smGet s.blocks blk with
  | none => .next s
  | some b =>
    let cores := dieCores b.homeDie
    let chosen := s.blocks.any fun x => x.2.core.isSome && x.2.roomFor == some blk
    if !s.able blk b || chosen || cores.any (fun c => s.roomBack c b) then .next s
    else
      let outs := s.blocks.filter fun x =>
        match x.2.core with
        | some c =>
          x.2.quantumOver && x.2.roomFor.isNone && !x.2.stopped && coreDie c == b.homeDie &&
          ((s.pktOf x.2).cores c).any fun c' => (s.without x.1).roomBack (s.standAt b c') b
        | none => false
      match firstOut outs with
      | none => .next s
      | some x => .next (s.modBlock x.1 fun y => { y with swapReason := some (y.swapReason.getD 0), roomFor := some blk })

/-! ### Swap-out and swap-in (R89, R91, R403 to R405) -/

/-- A block holds a permit in its shared memory (R134). -/
def State.sharedPermit (s : State) (blk : Nat) : Bool :=
  s.copies.any fun c => c.blk == blk && ((c.landOn && c.walk.dsp == 0) || (c.srcOn && c.walk.ssp == 0))

/-- The reads that lanes have sent at a LAUNCH or a WAITST.far have come back, or have been given up (R392). -/
def State.readsBack (s : State) (b : Block) (w : Warp) : Bool :=
  w.lanes.all fun l => (l.hint.sent.map fun x => s.timeUp (coreDie (b.coreOf w)) x.since) != some false

/-- A block is at rest: every warp at a safe point, queues empty, its reads back, engine and shared permits done (R403). -/
def State.atRest (s : State) (blk : Nat) (b : Block) : Bool :=
  (b.warps.all fun w => w.2.queue.isEmpty && w.2.gloads.isEmpty && (s.focus blk w.1).warpSafe && s.readsBack b w.2) &&
  ((s.table b.onCore).all fun e => e.blk != blk) && !s.sharedPermit blk

/-- The masks each warp of a block is saved with (R91). -/
def State.masksOf (s : State) (blk : Nat) (b : Block) : List (Nat × Nat × Nat) :=
  b.warps.map fun w => (w.1, (s.focus blk w.1).liveMasks)

/-- Write a save area. -/
def State.writeArea (s : State) (a : Nat) (bs : List (Nat × List Byte)) : State :=
  bs.foldl (fun s x => s.farPut (a + x.1) x.2) s

/-- Record the traps of a block that has been set aside (R345, R400). -/
def State.recordHeld (s : State) (blk : Nat) : State :=
  match s.block? blk with
  | none => s
  | some b =>
    let s1 := (b.held.filter fun h => !h.recorded).foldl (fun s h => s.record (heldRecord b h)) s
    s1.modBlock blk fun b => { b with held := b.held.map fun (h : Held) => { h with recorded := true } }

/-- Set a block at rest aside into an area (R403, R404). -/
def State.setAside (s : State) (blk : Nat) (b : Block) (c a reason : Nat) : State :=
  let saved := s.masksOf blk b
  let clk := (s.die (coreDie c)).clock
  let z := s.stationImages b saved
  let s0 := s.writeArea a (s.saveBytes b saved reason)
  let s1 : State := { s0 with far := smCut s0.far (a + z.1) z.2 }
  let s2 := s1.modBlock blk fun b =>
    { b with
      core := none, lastCore := c, save := some a, saved := saved, outReason := some reason, swapReason := none
      deferred := false
      idleSince := none, quantumOver := false
      sheaves := b.sheaves.map fun (x : Sheaf) => { x with since := clk - x.since } }
  (s2.recordHeld blk).shrinkStep

/-- The room in the context pool for a block's context (R401, R404). -/
def State.poolRoom (s : State) (blk : Nat) (b : Block) : Option Nat :=
  let d := s.die b.homeDie
  let lo := d.ctl64 0x64
  findRoom (s.savesOn b.homeDie) lo (lo + d.ctlNat 0x6C * 2 ^ 20) 64 (s.saveSize b (s.masksOf blk b)) (s.choice 0)

/-- SWAP_OUT (R403). With `ask` 1 system software asks for it (R389). A block that is to leave does so once it is at
rest; where the context pool has no room the swap-out is deferred, and the block runs on until there is. It waits where its save
area cannot be reached, or stands at a frozen line (R188, R423, R424, R426). -/
def execSwapOut (blk ask : Nat) (s : State) : Res :=
  let s := s.unfocus
  match smGet s.blocks blk with
  | none => .next s
  | some b =>
    match b.core with
    | none => .next s
    | some c =>
      if ask = 1 then .next (s.modBlock blk fun b => { b with swapReason := some (b.swapReason.getD 2) })
      else if (b.swapReason.isNone && b.held.isEmpty) || b.stopped then .next s
      else if b.deferred then .next (s.modBlock blk fun b => { b with deferred := (s.poolRoom blk b).isNone })
      else if !s.atRest blk b then .next s
      else
        match s.poolRoom blk b with
        | none => .next (s.modBlock blk fun b => { b with deferred := true })
        | some a =>
          .next (if s.areaHeld b.homeDie a (s.saveSize b (s.masksOf blk b)) then s.bump
            else (s.setAside blk b c a (if b.held.isEmpty then b.swapReason.getD 0 else 3)).bump)

/-- An overlay of a block is on a core; one that is evict-pending still serves (R84). -/
def State.overlayOn (s : State) (core : Nat) (b : Block) (o : Nat) : Bool :=
  match (smGet s.grids b.grid).bind fun g => g.dirHash o with
  | some h =>
    match s.findKey core b.tenant h with
    | some e => e.2.st == .resident || e.2.st == .evictPending
    | none => false
  | none => false

/-- Begin the loads that a swapped-out block needs on a core (R89); without room under the quota it stays out. -/
def State.reloadOn (s : State) (core : Nat) (blk : Nat) (b : Block) : State :=
  match smGet s.grids b.grid with
  | none => s
  | some g =>
    let os := (0 :: b.overlays).eraseDups
    os.foldl (fun s o =>
      match g.dir[o]? with
      | none => s
      | some d =>
        match s.findKey core b.tenant d.hash with
        | some _ => s
        | none =>
          match s.makeRoom core b.tenant d.slots (os.filterMap g.dirHash) with
          | none => s
          | some t =>
            (t.startLoad core b.tenant g.id o d (if o = 0 then [g.id] else [])
              [{ blk := blk, wid := 0, flag := 0, op := 0, pin := false, reload := true }] none []).2) s

/-- A warp of a swapped-out block as its section leaves it, in its new place. -/
def State.revive (s : State) (b : Block) (a width : Nat) (p : Packet) (w : Warp) (u slot : Nat) : Warp :=
  let (vm, um) := (smGet b.saved w.wid).getD (0, 0)
  let n := sectionSize width vm um
  let bs := s.farBytes (a + sectionAt width b.saved w.wid) n
  let (part, half) := unitPlace p.wc u
  { w.restore vm um bs p.ub (fun k => s.undef k) with part := part, half := half, slot := slot }

/-- Seat the warps of a swapped-out block again, each in the lowest free slot of its unit. -/
def State.reseat (s : State) (b : Block) (a width : Nat) (p : Packet) (used : Nat → Nat → List Nat) :
    List (Nat × Nat) → List (Nat × Warp)
  | [] => []
  | (wid, u) :: r =>
    let (part, half) := unitPlace p.wc u
    let slot := ((List.range 129).find? fun n => !(used part half).contains n).getD 0
    let rest := s.reseat b a width p (fun x y => if x = part ∧ y = half then slot :: used x y else used x y) r
    match smGet b.warps wid with
    | some w => (wid, s.revive b a width p w u slot) :: rest
    | none => rest

/-- Bring a block back to a core or pair (R405). Its explicit pins stay on the entries they were made on, and count there
until it ends (R83). (DESIGN CHOICE, log 39) -/
def State.bringBack (s : State) (blk : Nat) (b : Block) (core a : Nat) : State :=
  let p := s.pktOf b
  let width := p.width
  let sh := a + 64 + (b.saved.map fun x => sectionSize width x.2.1 x.2.2).sum
  let clk := (s.die (coreDie core)).clock
  let half (c : Nat) (second : Bool) : List (Nat × Warp) :=
    s.reseat b a width p (s.usedSlots c) ((s.placeBack c b second).getD [])
  let warps := half core false ++ (if p.e = 0 then [] else half (core + 1) true)
  let tiles := smSets b.tiles ((List.range (p.acc * 1024)).map fun k => (k, w32 (s.farNat (sh + p.shk * 1024 + 4 * k) 4)))
  let b' : Block := { b with
    core := some core, lastCore := core, warps := warps.foldl (fun m w => smSet m w.1 w.2) []
    shared := memWrite [] 0 (s.farBytes sh (p.shk * 1024)), tiles := tiles
    save := none, saved := [], outReason := none, resStart := clk, quantumOver := false, idleSince := none
    sheaves := b.sheaves.map fun (x : Sheaf) => { x with since := clk - x.since } }
  let given (x : Block) : Block := if x.roomFor = some blk then { x with roomFor := none } else x
  let back : State := { s with blocks := (smSet s.blocks blk b').map fun x => (x.1, given x.2) }
  ((back.reapLoft b.lastCore).reapLoft (b.lastCore + 1)).bump

/-- The base overlay of a grid stays pinned on the cores where its blocks run, those that a swap-in brings there among them
(R86). (DESIGN CHOICE, log 39) -/
def State.pinBase (s : State) (p : Packet) (core gid : Nat) : State :=
  match smGet s.grids gid with
  | none => s
  | some g => (p.cores core).foldl (fun s c => s.loadBase c g) s

/-- SWAP_IN (R34, R89, R405): overlays first; an older block able to run goes before. It waits where its save area cannot be
reached (R423, R426). -/
def execSwapIn (blk core : Nat) (s : State) : Res :=
  let s := s.unfocus
  match smGet s.blocks blk with
  | none => .next s
  | some b =>
    match b.save with
    | none => .next s
    | some a =>
      if !s.able blk b || !s.roomBack core b || s.waiterFor ((s.pktOf b).cores core) (some b.adm) then .next s
      else
        let p := s.pktOf b
        let ready := (p.cores core).all fun c => (0 :: b.overlays).all fun o => s.overlayOn c b o
        if ready then
          .next (if s.areaCut b.homeDie a (s.saveSize b b.saved) then s else (s.pinBase p core b.grid).bringBack blk b core a)
        else .next ((p.cores core).foldl (fun s c => s.reloadOn c blk b) s)

/-! ### Retiring and ending grids (R32, R111, R378, R402) -/

/-- Nothing of a grid is still on its way: far accesses, host writes of its own and of its copies, copies, engine operations, the loads of
overlays, plane operations (R402). -/
def State.gridQuiet (s : State) (gid : Nat) : Bool :=
  let mine (k : Nat) : Bool := match s.block? k with
    | some b => b.grid == gid
    | none => false
  let out := ((smGet s.grids gid).map (·.hostOut)).getD []
  (s.farQ.all fun x => x.grid != gid) && (s.hostQ.all fun q => !out.contains q.1) && (s.copies.all fun c => c.grid != gid) &&
  (s.engines.all fun t => t.2.all fun e => !mine e.blk) &&
  (s.loft.all fun e => !(e.2.grid == gid && e.2.st == .loading)) &&
  (match s.session with
    | some x => (x.upds.all fun u => !mine u.blk) && x.ops.all fun o => !mine o.blk
    | none => true)

/-- Add a value into a saturating 32-bit counter of the table, at a virtual address (R111); where the address lies outside the
57-bit space or does not translate for reading and writing, the add is lost, with no record. (DESIGN CHOICE, log 43) -/
def State.addCounter (s : State) (g : Grid) (va n : Nat) : State :=
  if !vaOk va then s
  else
    match s.reachVa g.home g.tenant 2 va with
    | .ok l =>
      let (id, t) := s.newId
      t.softWrite id l (leBytes 4 (min (s.farNat l 4 + n) (2 ^ 32 - 1)))
    | .bad _ _ => s

/-- The counters of a grid's areas with the addresses to which they are added: keys are 3 · identifier + counter (R111). -/
def Grid.counts (g : Grid) : List (Nat × Nat) :=
  if g.packet.cnta = 0 then []
  else g.dies.flatMap fun d => d.counters.map fun c => (g.packet.cnta + 16 * (c.1 / 3) + 4 * (c.1 % 3), c.2)

/-- A grid whose counters have been added. -/
def Grid.counted (g : Grid) : Grid := { g with dies := g.dies.map fun (d : GridDie) => { d with counters := [] } }

/-- The counter adds of a grid, one engine operation (R111); its last write waits for them (R378). -/
def State.addCounters (s : State) (g : Grid) : State :=
  let t := g.counts.foldl (fun s c => s.addCounter g c.1 c.2) s
  let ids := (t.hostQ.map (·.1)).filter fun n => decide (s.serial ≤ n)
  { t with grids := smSet t.grids g.id { g.counted with hostOut := ids ++ g.hostOut } }

/-- Write RETV to RETA (R378); a fault is recorded. -/
def State.writeReta (s : State) (g : Grid) : State :=
  let a := g.packet.reta
  if a = 0 then s
  else
    let bad (d l : Nat) : State :=
      s.record (engineRecord g.home 3 g.tenant 0 g.id { Held.zero with detail := d, loc := l, addr := a })
    if !vaOk a then bad 0 0
    else
      match s.translate g.home g.tenant 1 a with
      | .bad d l => bad d l
      | .ok l =>
        let (id, t) := s.newId
        t.softWrite id l (leBytes 8 g.packet.retv)

/-- A grid's record goes: its base overlays lose their pins, its parent a child, waiting commands answer. -/
def State.dropGrid (s : State) (g : Grid) : State :=
  let base (e : LoftEntry) : LoftEntry := { e with base := e.base.filter (· != g.id) }
  let s1 : State := { s with
    grids := smDel s.grids g.id
    loft := s.loft.map fun e => (e.1, base e.2) }
  let s2 := match g.parent with
    | none => s1
    | some (pg, pb) =>
      ({ s1 with grids := smMod s1.grids pg fun x => { x with children := x.children - 1 } } : State).modBlock pb fun b =>
        { b with launched := b.launched.filter fun c => c.1 != g.id }
  let s3 := (List.range 192).foldl (fun s c => s.reapLoft c) s2
  (s3.answerAll 0x21 g.id 0 []).closeSessions

/-- A grid that has been ended, its counts added: its blocks and save areas are freed, a kind 6 record written (R402); the
command that ended it answers then, or once the record has found room (R416). -/
def State.finishKill (s : State) (g : Grid) : State :=
  let keys := (s.blocks.filter fun b => b.2.grid == g.id).map (·.1)
  let s1 := keys.foldl (fun s k =>
    match smGet s.blocks k with
    | some b => s.blockGone k b.onCore
    | none => s) s
  let s2 := s1.record (engineRecord g.home 6 g.tenant 0 g.id Held.zero)
  (if (s2.die g.home).backlog.isEmpty then s2.answerAll 0x22 g.id 0 [] else s2).dropGrid g

/-- A grid is over but for its last writes: ended, or with every block and child of its own over (R32, R402). -/
def State.gridOver (s : State) (g : Grid) : Bool :=
  s.gridQuiet g.id && (g.ended || (g.blocksEnded == g.total && g.children == 0))

/-- What the controller of a grid accesses next at its end, as address, length and permission: its counters, and when they have
been added RETA, unless the grid has been ended (R111, R378). -/
def Grid.retireAt (g : Grid) : List (Nat × Nat × Nat) :=
  match g.counts with
  | [] => if g.ended || g.packet.reta == 0 then [] else [(g.packet.reta, 8, 1)]
  | cs => cs.map fun c => (c.1, 4, 2)

/-- GRID_RETIRE (R32, R111, R378, R402): the counters are added, and once those adds are performed RETV is written and the grid
goes; each waits where its lines cannot be reached now, and for an access that goes unanswered (R392). -/
def execGridRetire (grid : Nat) (s : State) : Res :=
  let s := s.unfocus
  match smGet s.grids grid with
  | none => .next s
  | some g =>
    if !s.gridOver g || !g.deadSince.isEmpty || g.retireAt.any fun a => s.rangeHeld g.home g.tenant a.2.2 a.1 a.2.1 then .next s
    else if !g.counts.isEmpty then .next (s.addCounters g)
    else if g.ended then .next (s.finishKill g)
    else .next ((s.writeReta g).dropGrid g)

/-- A grid descends from another, or is it. -/
def State.descends (s : State) (top : Nat) : Nat → Nat → Bool
  | 0, g => g == top
  | n + 1, g =>
    g == top || (match (smGet s.grids g).bind (·.parent) with
      | some p => s.descends top n p.1
      | none => false)

/-- A copy that no unit can accept any more, for its block is out and will not come back, and one side of it is the block's
shared memory. -/
def State.copyStuck (s : State) (c : Copy) : Bool :=
  !c.accepted && (c.walk.dsp == 0 || c.walk.ssp == 0) && (match s.block? c.blk with
    | some b => b.core.isNone
    | none => false)

/-- End a grid and its descendants (R402): their blocks stop issuing at once, and a copy that could not be accepted any more
is no copy in flight. (DEDUCED, log 43) -/
def State.killGrid (s : State) (gid : Nat) : State :=
  let hit (g : Nat) : Bool := s.descends gid 11 g
  { s with
    copies := s.copies.filter fun c => !(hit c.grid && s.copyStuck c)
    grids := s.grids.map fun g => (g.1, if hit g.1 then { g.2 with ended := true } else g.2)
    blocks := s.blocks.map fun b => (b.1, if hit b.2.grid then { b.2 with stopped := true } else b.2) }

/-- GKILL (R402): a grid that is not live is ignored. -/
def execGkill (die gid : Nat) (s : State) : Res :=
  let s := s.unfocus.modDie die fun d => d.ctlSet 0x98 (w32 gid)
  .next (if (smGet s.grids gid).isSome then s.killGrid gid else s)

end Sys2Proof.Machine
end

