-- ==== Sys2Proof/Machine/ControlEvents.lean ====
section
/-! DEFINITION. Writes to the control space that act, shootdown, migration, planes of the fabric, timeouts,
machine checks (R368, R391, R392, R397 to R402, R406 to R413). A step that is not enabled changes nothing. -/

namespace Sys2Proof.Machine

/-! ### The system timeout (R392) -/

/-- What the controllers of a grid access next: die, address, length, permission, and 1 for the last accesses of the grid. These
are WAITA; at its end the counters and RETA; the constant segment on a die where the grid is to start. -/
def State.gridAsks (s : State) (g : Grid) : List (Nat × Nat × Nat × Nat × Nat) :=
  if s.gridOver g then g.retireAt.map fun a => (g.home, a.1, a.2.1, a.2.2, 1)
  else if g.ended then []
  else if !g.depOk then [(g.home, g.packet.waita, 8, 0, 0)]
  else ((List.range 4).filter (s.gridDue g)).map fun d => (d, g.packet.csa, g.packet.cslen, 0, 0)

/-- Note the accesses of a grid's controllers that go unanswered, by die (R162, R392). -/
def State.noteGrid (s : State) (g : Grid) : Grid :=
  let asks := if s.anyDead then s.gridAsks g else []
  { g with deadSince := (List.range 4).filterMap fun d =>
      match smGet g.deadSince d with
      | some y => some (d, y)
      | none =>
        let mine := asks.filter (·.1 == d)
        let found := mine.flatMap fun a => s.deadLines d g.tenant a.2.2.2.1 a.2.1 a.2.2.1
        (s.noteSent none d ((mine.head?.map (·.2.2.2.2)).getD 0) found).map (d, ·) }

/-- The controller of a die gives up an access for a grid, with a record (R392, R399): a fault of WAITA leaves the grid pending,
one of the constant segment leaves it to start later; of one at its end, which may or may not have been performed, only
RETA has a record, and the grid goes on to retire. (DEDUCED, log 43) -/
def State.gridGiveUp (s : State) (gid die : Nat) : State :=
  match smGet s.grids gid with
  | none => s
  | some g0 =>
    match smGet g0.deadSince die with
    | none => s
    | some y =>
      if !s.timeUp die y.since then s
      else
        let g : Grid := { g0 with deadSince := smDel g0.deadSince die }
        let t : State := { s with grids := smSet s.grids gid g }
        let told (u : State) : State :=
          u.record (engineRecord die 3 g.tenant 0 gid { Held.zero with reason := 0x17, addr := y.addr })
        let done := s.choice 0 % 2 == 1
        if y.op = 0 then told t
        else if !g.counts.isEmpty then
          (if done then t.addCounters g else { t with grids := smSet t.grids gid g.counted }).bump
        else (((told (if done then t.writeReta g else t)).dropGrid g)).bump

/-- The controller of a die judges this packet next (R376). -/
def State.judged (s : State) (i : Inbound) : Bool :=
  (s.inbound.find? fun x => x.die == i.die) == some i && decide (s.pendingOn i.die < 64)

/-- The packet that the controller of a die judges next, where its read has gone unanswered for the system timeout, is
turned away for a read that faults (R375, R392). (DEDUCED, log 43) -/
def State.inboundGiveUp (s : State) (die : Nat) : State :=
  match s.inbound.find? fun i => i.die == die with
  | none => s
  | some i =>
    if s.sentLate die i.deadSince then
      let t : State := { s with inbound := s.inbound.erase i }
      match i.rpc with
      | some (tok, seq) => t.answer tok seq 1 []
      | none => t
    else s

/-- A load whose read has gone unanswered for the system timeout ends as one whose image cannot be read: status 3 (R79,
R392). (DEDUCED, log 43) -/
def State.loadGiveUp (s : State) (core n : Nat) : State :=
  match smGet s.loft (loftKey core n) with
  | none => s
  | some e =>
    if s.sentLate (coreDie core) e.deadSince then (s.freeEntry core n).wakeAll (loftKey core n) 3 e.waiters else s

/-- A line access has gone unanswered for the system timeout, and nothing keeps its registers from being written (R296, R392). -/
def State.accLate (s : State) (x : FarAcc) : Bool :=
  !x.acked && (x.born.map (s.timeUp (coreDie x.core))) == some true && !s.regsHeld x.blk

/-- SYSTEM_TIMEOUT (R392): a line access (kind 0), the beats of a copy (1), the accesses of a plane engine (2, by 4 times the die
plus the engine), of a grid's controller on a die (3, by 4 times the grid plus the die), of a controller that reads a host's
packet (4), or of an overlay load (5) have gone unanswered for TMS microseconds and are given up. (DESIGN CHOICE, log 36) -/
def execSystemTimeout (kind id : Nat) (s : State) : Res :=
  let s := s.unfocus
  if kind = 0 then
    match s.farQ.find? fun x => x.id == id with
    | some x => if s.accLate x then .next (s.giveUp x) else .next s
    | none => .next s
  else if kind = 1 then
    match s.copy? id with
    | some c => if s.copyLate c then .next (s.copyGiveUp c) else .next s
    | none => .next s
  else if kind = 2 then .next (s.engineGiveUp id)
  else if kind = 3 then .next (s.gridGiveUp (id / 4) (id % 4))
  else if kind = 4 then .next (s.inboundGiveUp id)
  else .next (s.loadGiveUp (id / 256) (id % 256))

/-! ### Machine checks (R399) -/

/-- A machine check of a block: it stops at once, and a kind 4 record is written. Which warp read the error
and where it stood, the manual leaves open. (DESIGN CHOICE, log 11) -/
def State.checkBlock (s : State) (blk : Nat) : State :=
  match smGet s.blocks blk with
  | none => s
  | some b =>
    match b.core with
    | none => s
    | some c =>
      if b.stopped then s
      else
        let h : Held := { Held.zero with wid := s.choice 0 % 2 ^ 16, pc := s.undef 0, mask := s.choice 1 % 2 ^ 64 }
        let t := s.modBlock blk fun b => { b with stopped := true }
        (t.record { engineRecord (coreDie c) 4 b.tenant c b.grid h with block := b.idx }).bump

/-- A core fails (R426): every block on it stops as after a machine check. (DEDUCED, log 27) -/
def State.failCore (s : State) (core : Nat) : State :=
  if 192 ≤ core ∨ s.failedCores.contains core = true then s
  else
    let hit := (s.blocks.filter fun b => s.runsOn b.2 core).map (·.1)
    hit.foldl (fun s b => s.checkBlock b) { s with failedCores := s.failedCores ++ [core] }

/-- MACHINE_CHECK (R399, R426): an instruction of the block has read an uncorrectable error (place 0); from now on byte
`place - 1` of its shared memory has one; or, with 2^32 + core, the core has failed. `ev` is 2^33 times the block's key
plus the place. (DESIGN CHOICE, log 36) (DESIGN CHOICE, log 11) -/
def execMachineCheck (ev : Nat) (s : State) : Res :=
  let s := s.unfocus
  let blk := ev / 2 ^ 33
  let place := ev % 2 ^ 33
  .next (if place = 0 then s.checkBlock blk
    else if place < 2 ^ 32 then { s with badChip := s.badChip ++ [(sharedTag blk, place - 1)] }
    else s.failCore (place - 2 ^ 32))

/-! ### Shootdown (R397) -/

/-- A kept translation overlaps a range (R397); `len` 0 is the whole space. -/
def TlbEntry.overlaps (t : TlbEntry) (va len : Nat) : Bool :=
  len == 0 || (decide (t.va < va + len) && decide (va < t.va + t.size))

/-- The tenant of a grid. -/
def State.tenantOf (s : State) (gid : Nat) : Option Nat := (smGet s.grids gid).map (·.tenant)

/-- The accesses of a die made with translations that a shootdown drops: the unanswered line accesses of the
tenant, its copies with far elements on their way, and those whose stamp slot was translated in a dropped page; the reads and
writes of engines and copies that go unanswered since then are found by their times. (DEDUCED, log 16) -/
def State.shootWaits (s : State) (x : Shoot) (tenant : Nat) : List Nat :=
  let far := s.farQ.filter fun y => coreDie y.core == x.die && s.tenantOf y.grid == some tenant && !y.acked
  let held (c : Copy) : Bool := (c.walk.dsp == 2 && !c.out.isEmpty) || (c.walk.stsp == 2 && x.covers c.walk.stampa)
  far.map (·.id) ++ (s.copies.filter fun c => c.die == x.die && c.tenant == tenant && c.accepted && held c).map (·.id)

/-- Start the shootdown of TSHV, TSHN and TSLOT on a die (R397). -/
def State.startShoot (s : State) (die : Nat) : State :=
  let d := s.die die
  let slot := d.ctlField 0x4C 0 4
  let va := d.ctl64 0x40 / 2 ^ 16 * 2 ^ 16
  let len := d.ctlNat 0x48 * 2 ^ 16
  let (drop, rest) := s.tlb.partition fun t => t.die == die && t.slot == slot && t.overlaps va len
  let x : Shoot :=
    { die := die, slot := slot, va := va, len := len, pages := drop.map fun t => (t.va, t.size), waits := [], since := d.ref }
  { s.modDie die fun d => (d.ctlPut 0x4C 31 1 1).ctlPut 0x4C 30 1 0 with
    tlb := rest
    shoots := s.shoots ++ [{ x with waits := s.shootWaits x (d.tenTid slot) }] }

/-- A shootdown of the die is running. -/
abbrev Die.shooting (d : Die) : Bool := bit (d.ctlNat 0x4C) 31

/-- SHOOTDOWN (R391, R397): a write to TSHCTL; one while a shootdown runs is ignored. (DEDUCED, log 15) -/
def execShootdown (die value : Nat) (s : State) : Res :=
  let s := s.unfocus
  if (s.die die).shooting then .next s
  else
    let t := s.modDie die fun d => d.ctlWrite 0x4C value
    .next (if bit value 31 then t.startShoot die else t)

/-- Every access a shootdown waits for has been performed at its home (R397). -/
def State.shootOver (s : State) (x : Shoot) : Bool :=
  (s.farQ.all fun y => !x.waits.contains y.id || decide (1 ≤ y.stage)) && !s.sentOut x &&
  s.copies.all fun c => !x.awaits c && !(x.waits.contains c.id && c.walk.stsp == 2 && x.covers c.walk.stampa)

/-- Shootdowns whose accesses are all answered hold nothing any more. -/
def State.purgeShoots (s : State) : State :=
  let gone (x : Shoot) : Bool := !(s.die x.die).shooting && !s.sentOut x && s.farQ.all fun y => !x.waits.contains y.id || y.acked
  { s with shoots := s.shoots.filter fun x => !gone x }

/-- SHOOTDOWN_DONE (R397): DONE is set; with DONE on all four dies the page commands of hosts answer (R416). -/
def execShootdownDone (die : Nat) (s : State) : Res :=
  let s := s.unfocus
  if (s.die die).shooting && (s.shoots.filter fun x => x.die == die).all s.shootOver then
    let t := (s.modDie die fun d => (d.ctlPut 0x4C 31 1 0).ctlPut 0x4C 30 1 1).purgeShoots
    .next (if (List.range 4).any fun d => (t.die d).shooting then t else t.answerAll 0x11 0 0 [])
  else .next s

/-! ### Migration (R188, R406, R407) -/

/-- Bytes of a page of MCTL's SZ. -/
def migrationSize (sz : Nat) : Nat := if sz = 1 then 2 ^ 21 else if sz = 2 then 2 ^ 30 else 2 ^ 16

/-- A migration locator is malformed (R394): as a leaf entry for the page size would be, with KIND and bits
[15:0] zero. -/
def locatorBad (sz l : Nat) : Bool :=
  field l 60 2 != 0 || field l 0 16 != 0 || pteBad (if sz = 1 then 1 else if sz = 2 then 2 else 0) (l + 2 ^ 61)

/-- The physical home a locator names. -/
def State.locatorHome (s : State) (l : Nat) : Nat := s.locator (field l 58 2) (field l 47 11) (field l 12 35 * 4096)

/-- Set MCTL's outcome: GO clear, DONE set, MST. -/
def Die.migrated (d : Die) (mst : Nat) : Die := ((d.ctlPut 0x88 31 1 0).ctlPut 0x88 30 1 1).ctlPut 0x88 16 8 mst

/-- MIGRATION (R406): a write to MCTL. With GO it starts a migration, unless one runs; the last one's old home
stops forwarding (R407). A malformed locator ends it at once. (DEDUCED, log 15) -/
def execMigration (die value : Nat) (s : State) : Res :=
  let s := s.unfocus
  let d := s.die die
  if bit (d.ctlNat 0x88) 31 then .next s
  else
    let t := s.modDie die fun d => d.ctlWrite 0x88 value
    if !bit value 31 then .next t
    else
      let sz := value % 4
      let a := d.ctl64 0x78
      let b := d.ctl64 0x80
      if locatorBad sz a || locatorBad sz b then .next (t.modDie die fun d => d.migrated 1)
      else
        let m : Migration :=
          { die := die, src := s.locatorHome a, dst := s.locatorHome b, size := migrationSize sz, switched := false
            gone := [], held := [], ended := false }
        .next { t.modDie die fun d => ((d.ctlPut 0x88 31 1 1).ctlPut 0x88 30 1 0).ctlPut 0x88 16 8 0 with
          moves := (t.moves.filter fun x => x.die != die) ++ [m] }

/-- Move the bytes of a range to another: what stood at the new place goes. -/
def moveBytes (m : Mem) (src dst n : Nat) : Mem :=
  (m.filter fun c => decide (src ≤ c.1) && decide (c.1 < src + n)).foldl (fun x c => smSet x (dst + (c.1 - src)) c.2)
    (smCut m dst n)

/-- Change the migration that a die runs. -/
def State.modMove (s : State) (die : Nat) (f : Migration → Migration) : State :=
  { s with moves := s.moves.map fun m => if m.die = die ∧ m.ended = false then f m else m }

/-- Line `k` of a page, frozen till now, has been copied and switches over to its new home (R188, R406). -/
def State.switchLine (s : State) (m : Migration) (k : Nat) : State :=
  let a := m.src + 64 * k
  let b := m.dst + 64 * k
  let moved := moveBytes s.far a b 64
  let t := s.modMove m.die fun m => { m with gone := m.gone ++ [k], held := m.held.filter (· != k) }
  let told (o : Orders) (i : Nat) : Orders :=
    o.give [byteKey farTag (b + i), byteKey hostTag (b + i)] (o.handed [byteKey farTag (a + i), byteKey hostTag (a + i)])
  { t with
    order := (List.range 64).foldl told s.order
    far := moved
    hostView := if locHost b then
        (moved.filter fun c => decide (b ≤ c.1) && decide (c.1 < b + 64)).foldl (fun x c => smSet x c.1 c.2)
          (smCut s.hostView b 64)
      else s.hostView }

/-- A line of a page has an uncorrectable error. -/
def State.badAt (s : State) (m : Migration) (k : Nat) : Bool := s.badLines.contains (lineOf m.src + k)

/-- Line `k` of a page cannot be copied now: its old or its new place cannot be reached from the die that moves it (R409, R423,
R426), or the host endpoint still holds an accepted write of it, which comes before the copy (R179, R188). -/
def State.lineWaits (s : State) (m : Migration) (k : Nat) : Bool :=
  s.shut m.die (m.src + 64 * k) || s.shut m.die (m.dst + 64 * k) || s.awaitsHost (m.src + 64 * k)

/-- A migration ends with an outcome: what has not switched over stays, unfrozen (R406). -/
def State.endMove (s : State) (die mst : Nat) : State :=
  let closed (m : Migration) : Migration :=
    if mst = 0 then { m with switched := true, gone := [], held := [], ended := true } else { m with held := [], ended := true }
  (s.modMove die closed).modDie die fun d => d.migrated mst

/-- MIGRATION_DONE (R188, R406): every line has switched over (mst 0), or the migration ends with MST 2 or 3. Before that
its lines are frozen, one by one and in no fixed order (256 + 2·line), and switch over (257 + 2·line), as they can be reached.
(DESIGN CHOICE, log 17) -/
def execMigrationDone (die mst : Nat) (s : State) : Res :=
  let s := s.unfocus
  match s.moves.find? fun x => x.die == die && decide (die < 4) && !x.ended with
  | none => .next s
  | some m =>
    let n := m.size / 64
    let k := (mst - 256) / 2
    let reachable := locHere m.src && locHere m.dst && !s.anyDead
    .next (if 256 ≤ mst then
        if n ≤ k || s.lineWaits m k then s
        else if mst % 2 = 1 then (if m.held.contains k then s.switchLine m k else s)
        else if m.gone.contains k || m.held.contains k || s.badAt m k then s
        else s.modMove die fun m => { m with held := m.held ++ [k] }
      else if mst = 0 ∧ m.gone.length = n then s.endMove die 0
      else if mst = 2 ∧ (List.range n).any (fun k => s.badAt m k && !m.gone.contains k) = true then s.endMove die 2
      else if mst = 3 ∧ reachable = false then s.endMove die 3
      else s)

/-! ### Planes of the fabric (R409) -/

/-- A line access of a die has left its unit and is unanswered, in a plane: of a far instruction; of an engine, a controller, a
Loft, a copy's reads, a LAUNCH or a WAITST.far; a copy's beat, or its write that a host endpoint holds at .sys (R314, R391). -/
def State.planeBusy (s : State) (die p : Nat) : Bool :=
  (s.sents.any fun y => y.2.lines.any fun l => l.1 == die && planeOf l.2 == p) ||
  (s.farQ.any fun x => coreDie x.core == die && planeOf x.loc == p && x.born.isSome && !x.acked) ||
  s.copies.any fun c => c.die == die &&
    ((c.walk.dsp == 2 && c.out.any fun q => planeOf q.loc == p) ||
      (c.scope == 5 && c.hostAcks.any fun n => s.hostQ.any fun q => q.1 == n.1 && planeOf q.2.1 == p))

/-- The QUIET bits of a die (R391). -/
def State.quietBits (s : State) (die : Nat) : Nat := bitsOf ((List.range 8).filter fun p => !s.planeBusy die p)

/-- Show the QUIET bits. -/
def State.showQuiet (s : State) (die : Nat) : State :=
  let q := s.quietBits die
  s.modDie die fun d => if d.ctlField 0x74 8 8 = q then d else d.ctlPut 0x74 8 8 q

/-- PLANE_DRAIN (R391, R409): a write to PCTL. -/
def execPlaneDrain (die value : Nat) (s : State) : Res :=
  .next ((s.unfocus.modDie die fun d => d.ctlWrite 0x74 value).showQuiet die)

/-- PLANE_MAP_WRITE (R391, R409): a write to PMAP. -/
def execPlaneMapWrite (die value : Nat) (s : State) : Res := .next (s.unfocus.modDie die fun d => d.ctlWrite 0x70 value)

/-- SWITCH_PLANE_FAILURE (R162): nothing in the switch plane is answered any more. -/
def execSwitchPlaneFailure (plane : Nat) (s : State) : Res :=
  let s := s.unfocus
  .next (if plane < 8 ∧ s.deadPlanes.contains plane = false then { s with deadPlanes := s.deadPlanes ++ [plane] } else s)

/-! ### Resuming (R401) -/

/-- RESUMEA (R399, R401): one with address 0 restarts a stopped update unit and Pacer. -/
def execResumea (die addr : Nat) (s : State) : Res :=
  let s := s.unfocus.modDie die fun d => d.ctlSet64 0x90 addr
  if addr = 0 then
    .next { s with session := s.session.map fun (x : Session) => { x with stopped := x.stopped.filter (· != die) } }
  else
    let free (b : Block) : Block := if b.homeDie = die ∧ b.save = some addr then { b with held := [] } else b
    .next { s with blocks := s.blocks.map fun b => (b.1, free b.2) }

/-! ### Leadership, rings, plain registers (R368, R400, R410 to R413) -/

/-- A write to LEADER, and whether it was a claim that took effect (R412). -/
def State.claim (s : State) (die value : Nat) : State × Bool :=
  let cur := (s.die die).ctlField 0xB8 2 16
  if bit value 31 && field value 2 16 == (cur + 1) % 2 ^ 16 then
    (s.modDie die fun d => { d.ctlSet 0xB8 (w32 (value &&& 0x8003FFFF)) with beatSince := d.ref }, true)
  else (s, false)

/-- LEADER_CLAIM (R412, R414): where another pair comes to lead by it, that pair goes on from the journal. -/
def execLeaderClaim (die value : Nat) (s : State) : Res :=
  let t := s.unfocus.claim die value
  .next (if t.2 && t.1.leader.isSome && t.1.leader != s.unfocus.leader then t.1.takeOver else t.1)

/-- A pair claims an epoch on the dies of a list, up to the first that ignores it (R412). (DEDUCED, log 26) -/
def State.claimAll (s : State) (value : Nat) : List Nat → State
  | [] => s
  | d :: r =>
    if (s.die d).isolated then s.claimAll value r
    else
      match s.claim d value with
      | (t, true) => t.claimAll value r
      | (t, false) => t

/-- The claim of a pair for the epoch after its die's own. -/
def State.claimNext (s : State) (die : Nat) : State :=
  let e := ((s.die die).ctlField 0xB8 2 16 + 1) % 2 ^ 16
  s.claimAll (2 ^ 31 + e * 4 + die % 4) (List.range 4)

/-- FAULT_RING_HEAD_WRITE (R400): records that waited for room are written. -/
def execFaultRingHeadWrite (die value : Nat) (s : State) : Res :=
  .next ((s.unfocus.modDie die fun d => d.ctlWrite 0x5C value).flushDie die)

/-- REQUEST_RING_HEAD_WRITE (R410, R414): only past slots whose calls the journal holds as committed. -/
def execRequestRingHeadWrite (die value : Nat) (s : State) : Res :=
  .next (s.unfocus.modDie die fun d =>
    if (value + 2 ^ 17 - d.ctlNat 0xAC) % 2 ^ 17 ≤ (d.svcDone + 2 ^ 17 - d.ctlNat 0xAC) % 2 ^ 17 then d.ctlWrite 0xAC value
    else d)

/-- A register whose write acts, and has an event of its own. -/
def ctlActs (off : Nat) : Bool :=
  [0x4C, 0x5C, 0x70, 0x74, 0x88, 0x90, 0x98, 0x9C, 0xAC, 0xB8].contains off || (decide (0x1000 ≤ off) && decide (off < 0x1C00))

/-- Where a physical address of the service cores falls in the control space of a die: its number and the offset
(R410). -/
def ctlAt (addr : Nat) : Option (Nat × Nat) :=
  if 0xF000000000 ≤ addr ∧ addr < 0xF000000000 + 4 * 0x1000000 then
    some ((addr - 0xF000000000) / 0x1000000, addr % 0x1000000)
  else none

/-- The leader's write of IDENT, the same on all four dies (R411). -/
def State.writeIdent (s : State) (value : Nat) : State :=
  (List.range 4).foldl (fun s d => s.modDie d fun x => x.ctlWrite 0xBC value) s

/-- IDENT may be written: no grid is live and no plane session exists (R411). -/
def State.identFree (s : State) : Bool := s.grids.isEmpty && s.session.isNone

/-- A write to a register that acts: what the event of that register does (R391, R410 to R412). -/
def State.ctlAct (s : State) (d o value : Nat) : State :=
  let r : Res :=
    if o = 0x4C then execShootdown d value s
    else if o = 0x5C then execFaultRingHeadWrite d value s
    else if o = 0x70 then execPlaneMapWrite d value s
    else if o = 0x74 then execPlaneDrain d value s
    else if o = 0x88 then execMigration d value s
    else if o = 0x90 then execResumea d (value % 2 ^ 32 + 2 ^ 32 * (s.die d).ctlNat 0x94) s
    else if o = 0x98 then execGkill d value s
    else if o = 0x9C then execCubectlRst d value s
    else if o = 0xAC then execRequestRingHeadWrite d value s
    else if o = 0xB8 then execLeaderClaim d value s
    else execLoftQuotaWrite d ((o - 0x1000) / 64) ((o - 0x1000) % 64 / 4) value s
  match r with
  | .next t => t
  | _ => s

/-- CONTROL_REGISTER_WRITE (R368): HBEAT notes when it changed (R413), IDENT goes to all four dies (R411), a register that
acts does so, and any other just takes the value. With a die number of 4 or more the offset is a physical address of a
service core (R410). -/
def execControlRegisterWrite (die off value : Nat) (s : State) : Res :=
  let s := s.unfocus
  .next (match (if die < 4 then some (die, off) else ctlAt off) with
    | none => s
    | some (d, o) =>
      if ctlActs o then s.ctlAct d o value
      else if o = 0xBC then (if s.identFree then s.writeIdent value else s)
      else
        s.modDie d fun x =>
          let y := x.ctlWrite o value
          if o = 0xB4 ∧ y.ctlNat 0xB4 ≠ x.ctlNat 0xB4 then { y with beatSince := x.ref } else y)

/-- HEARTBEAT_TIMEOUT (R412 to R414): the pair of a follower that runs, and whose HBEAT has not changed for 10 ms, claims
after 2·d ms more; it reads the journal. -/
def execHeartbeatTimeout (die : Nat) (s : State) : Res :=
  let s := s.unfocus
  let d := s.die die
  let leads := bit (d.ctlNat 0xB8) 31 && d.ctlField 0xB8 0 2 == die
  if decide (4 ≤ die) || d.isolated || d.pairFailed || d.running.isNone || leads || decide (d.ref < d.beatSince + 1200000 * (10 + 2 * die)) then
    .next s
  else
    let t := s.claimNext die
    .next (if t.leader = some die then t.takeOver else t)

/-- LOCK_STEP_MISMATCH (R413): the pair stops; its die runs on. -/
def execLockStepMismatch (die : Nat) (s : State) : Res :=
  .next (s.unfocus.modDie die fun d => { d with pairFailed := true })

end Sys2Proof.Machine
end

