-- ==== Sys2Proof/Machine/HealthEvents.lean ====
section
/-! DEFINITION. Reset, boot, repair, sag, isolation, spares, the slow links (R368, R413, R419, R421 to R426).
A step that is not enabled changes nothing. -/

namespace Sys2Proof.Machine

/-! ### Firmware images (R421) -/

/-- The image may run: its checks hold against the fused counter. -/
def Image.runs (i : Image) (fused : Nat) : Bool := i.valid && decide (fused ≤ i.rollback)

/-- The image the pair runs: the valid one of higher version, A on a tie. -/
def State.bootImage (s : State) : Option Nat :=
  let ok (k : Nat) : Option Image := (s.images[k]?).filter fun i => i.runs s.fusedRollback
  match ok 0, ok 1 with
  | some a, some b => some (if a.version < b.version then 1 else 0)
  | some _, none => some 0
  | none, some _ => some 1
  | none, none => none

/-- PACKAGE_RESET (R63, R368, R376): control registers at their Reset values, clocks at zero, nothing running.
What the stacks hold after it, the manual leaves open; memory outside the package, flash, fuses and the measurement
log stay, the journal's sessions, and the spares: a core that a spare has replaced stays replaced, and the spare stays used
up (R9). (DESIGN CHOICE, log 18) -/
def execPackageReset (s : State) : Res :=
  let s := s.unfocus
  let keep (r : Rpc) : Rpc := { r with openCmds := r.openCmds.filter fun o => o.2.1 == 0x60 }
  let copy (j : Journal) : Journal := { j with rpcs := j.rpcs.map keep }
  let die (d : Die) : Die :=
    { Die.reset with journal := d.journal.map copy, keyed := d.keyed, baseUp := d.baseUp, sparesUsed := d.sparesUsed }
  .next { State.reset with
    fresh := s.fresh + 1, serial := s.serial
    dies := s.dies.map die
    far := s.far.filter fun c => !locHere c.1
    hostView := s.hostView, hostStores := s.hostStores
    rpcs := s.rpcs.map keep, outcomes := s.outcomes
    deadPlanes := s.deadPlanes, failedCores := s.failedCores
    images := s.images, fusedRollback := s.fusedRollback, measureLog := s.measureLog
    badLines := s.badLines, laneSets := s.laneSets, flashIdent := s.flashIdent, certs := s.certs, outbox := s.outbox }

/-- The leader writes IDENT as the configuration in flash gives it (R411). -/
def State.identBoot (s : State) (die : Nat) : State :=
  if s.leader = some die ∧ s.identFree = true then s.writeIdent s.flashIdent else s

/-- COLD_BOOT (R411 to R413, R421, R422): a pair validates the images, measures and runs one, and claims epoch 1
2·d ms after reset; the die derives its identity key at its first boot. An activation that waited for the reset is over,
and the fused counter goes up to the active image's. -/
def execColdBoot (die : Nat) (s : State) : Res :=
  let s := s.unfocus
  let d := s.die die
  if decide (4 ≤ die) || d.pairFailed || d.isolated || d.running.isSome || decide (d.ref < 2 * die * 1200000) then .next s
  else
    match s.bootImage with
    | none => .next s
    | some k =>
      let img := s.images[k]?
      let waits := s.rpcs.any fun r => r.openCmds.any fun o => o.2.1 == 0x60
      let s1 := s.modDie die fun d => { d with running := some k, keyed := true }
      let s2 : State := { s1 with
        measureLog := s.measureLog ++ [((img.map (·.hash)).getD [])]
        fusedRollback := if waits then max s.fusedRollback ((img.map (·.rollback)).getD 0) else s.fusedRollback }
      let s3 := (s2.claimAll (2 ^ 31 + 4 + die) (List.range 4)).identBoot die
      .next (if s3.leader = some die then (s3.takeOver).answerAll 0x60 0 0 [] else s3)

/-! ### Stacks (R423, R424) -/

/-- The lanes' results that a training finds. (DESIGN CHOICE, log 4) -/
def State.laneResults (s : State) : List Nat := (List.range 64).map fun i => s.choice i % 2 ^ 32

/-- The CRC-32C of a set of lanes' results (R109, R423). -/
def laneCrc (xs : List Nat) : Nat := crc32c (xs.flatMap (leBytes 4))

/-- LINK_TRAINING_COMPLETE (R423): accesses to the stack proceed. With `restored` 0 a full training has ended, and its
results are saved in flash; with 1 the saved set is restored, or discarded where its CRC fails; with 2 the eye check of the
restored set fails, and it is discarded. A set that has been discarded leaves the stack to a full training.
(DEDUCED, log 23) -/
def execLinkTrainingComplete (stack restored : Nat) (s : State) : Res :=
  let s := s.unfocus
  let up (s : State) : State := { s with trained := listMod s.trained stack fun _ => true }
  let lost : State := { s with laneSets := smDel s.laneSets stack }
  let xs := s.laneResults
  .next (if 8 ≤ stack then s
    else if restored = 0 then (up { s with laneSets := smSet s.laneSets stack (xs, laneCrc xs) }).bump
    else if restored = 2 then lost
    else
      match smGet s.laneSets stack with
      | some x => if laneCrc x.1 = x.2 then up s else lost
      | none => s)

/-- PATROL_SCRUB (R424): it corrects correctable errors in place, which no reader sees; `ev / 8` is 0, or one more than a
line found with an uncorrectable error, and `ev % 8` the stack. (DEDUCED, log 23) -/
def execPatrolScrub (ev : Nat) (s : State) : Res :=
  let s := s.unfocus
  let bad := ev / 8
  .next (if bad = 0 ∨ s.badLines.contains (bad - 1) = true then s else { s with badLines := s.badLines ++ [bad - 1] })

/-- ROW_REPAIR (R188, R424): phase 0 freezes a line, any other phase lets it go. Repairs stand under die 4. -/
def execRowRepair (line phase : Nat) (s : State) : Res :=
  let s := s.unfocus
  let rest := s.moves.filter fun x => !(x.die == 4 && x.src == 64 * line)
  let hold : Migration :=
    { die := 4, src := 64 * line, dst := 64 * line, size := 64, switched := false
      gone := [], held := [0], ended := false }
  .next { s with moves := if phase = 0 then rest ++ [hold] else rest }

/-! ### Supply sag (R425) -/

/-- SUPPLY_SAG_TRIP (R425). -/
def execSupplySagTrip (die : Nat) (s : State) : Res :=
  .next (s.unfocus.modDie die fun d => if d.sag.isNone then { d with sag := some (0, false) } else d)

/-- SUPPLY_RECOVERY (R425): not before 64 clocks at half rate. -/
def execSupplyRecovery (die : Nat) (s : State) : Res :=
  .next (s.unfocus.modDie die fun d =>
    match d.sag with
    | some (n, _) => if 64 ≤ n then { d with sag := none } else d
    | none => d)

/-- One tick of full-rate time on a die: at half rate every other tick passes no clock (R425). -/
def Die.tick (d : Die) : Die :=
  match d.sag with
  | none => { d.latch with ref := d.ref + 1, clock := d.clock + 1 }
  | some (n, skip) =>
    if skip then { d.latch with ref := d.ref + 1, clock := d.clock + 1, sag := some (n + 1, false) }
    else { d with ref := d.ref + 1, sag := some (n, true) }

/-! ### Isolation and spares (R426) -/

/-- DIE_ISOLATION (R8, R426): a die whose pair and cores have failed; its grids are ended. Each of its two stacks answers
from then on only if its own base die does: `ev` is the die, with 4 added if the first stack's does and 8 if the second's.
(DESIGN CHOICE, log 36) -/
def execDieIsolation (ev : Nat) (s : State) : Res :=
  let s := s.unfocus
  let die := ev % 4
  let cores := (List.range 48).map (48 * die + ·)
  if !(s.die die).pairFailed || !cores.all s.failedCores.contains then .next s
  else
    let t := s.modDie die fun d => { d with isolated := true, baseUp := [bit ev 2, bit ev 3] }
    let mine := (t.grids.filter fun g => g.2.home == die || g.2.dies.any (·.die == die)).map (·.1)
    .next (mine.foldl (fun s g => s.killGrid g) t)

/-- Spare cores of a die (R9). -/
def sparesPerDie : Nat := 4

/-- SPARE_CORE_REPLACEMENT (R10, R426): of a failed core, and only with OFF set, no block resident and none that still has to return. The
spare comes with an empty Loft and an idle engine. (DEDUCED, log 27) -/
def execSpareCoreReplacement (core : Nat) (s : State) : Res :=
  let s := s.unfocus
  let d := coreDie core
  let used := s.blocks.any fun b => s.runsOn b.2 core || (b.2.core.isNone && (b.2.lastCore == core ||
    ((s.pktOf b.2).e != 0 && b.2.lastCore + 1 == core)))
  if !s.failedCores.contains core || !(s.die d).coreOff (core % 48) || used || decide (sparesPerDie ≤ (s.die d).sparesUsed) then .next s
  else
    .next { s.modDie d fun x => { x with sparesUsed := x.sparesUsed + 1 } with
      failedCores := s.failedCores.filter (· != core)
      loft := s.loft.filter fun e => e.1 / 256 != core
      engines := smDel s.engines core }

/-! ### Slow links (R419) -/

/-- SLOW_LINK_DATAGRAM (R419): its tag is checked under the session's key, then the segment record (kind 0) or the manifest
is taken. -/
def execSlowLinkDatagram (kind : Nat) (bytes tag : List Nat) (s : State) : Res :=
  let s := s.unfocus
  .next (match s.session with
    | none => s
    | some x => if tag ≠ gcmTag x.key bytes then s else if kind = 0 then s.takeSegment bytes else s.takeManifest bytes)

end Sys2Proof.Machine
end

