-- ==== Sys2Proof/Machine/PageEvents.lean ====
section
/-! DEFINITION. The leader, the commands of an RPC session, and MAP and UNMAP (R393 to R398, R412 to R416, R427).
A step that is not enabled changes nothing. -/

namespace Sys2Proof.Machine

/-! ### Commands (R412 to R416) -/

/-- A session's journalled reply to a command (R414). -/
def Rpc.reply (r : Rpc) (seq : Nat) : Option (Nat × Nat × List Nat) := r.journal.find? fun j => j.1 == seq

/-- Take a command of a session, with its code, by the header that it opens with: the next in sequence starts, its entry committed
first, unless it has to wait; a committed one gets its journalled reply again, and does nothing more (R414 to R416). A message
that opens with no header of R415 is no command. -/
def State.command (s : State) (code : Nat) (hdr : List Nat) (wait : Bool) (run : Nat → Nat → State → Rpc → State) : State :=
  let s := s.unfocus
  match s.leader, readHeader hdr with
  | some _, some (c, token, seq) =>
    (match s.rpcs.find? fun r => r.token == token with
      | none => s
      | some r =>
        if c ≠ code then s
        else
          match r.reply seq with
          | some j => s.sendReply token seq j.2.1 j.2.2
          | none =>
            if wait = false ∧ seq = r.seq + 1 ∧ r.closing = none then
              run token seq (s.setRpc token fun x => { x with seq := seq, codes := smSet x.codes seq code }) r
            else s)
  | _, _ => s

/-- A status other than 0: which, the manual leaves open. (DESIGN CHOICE, log 21) -/
def State.failStatus (s : State) : Nat := 1 + s.choice 0 % 65535

/-- Answer a command that cannot be done. -/
def State.failCmd (s : State) (token seq : Nat) : State := (s.answer token seq s.failStatus []).bump

/-- The session may act for a tenant (R415). (DESIGN CHOICE, log 21) -/
def Rpc.serves (r : Rpc) (tenant : Nat) : Bool := r.owner || r.tenant == tenant

/-! ### Page tables as the firmware writes them (R393, R394, R427) -/

/-- Entries of a table at a level. -/
def tableSize (level : Nat) : Nat := if level = 0 then 32 else 512

/-- The address of a table entry. -/
def entryAt (table level va : Nat) : Nat := table + 8 * (va / 2 ^ levelShift level % tableSize level)

/-- The entry of a table. -/
def tableEntry (ad : Nat) : Nat := 2 ^ 60 + ad

/-- The first page, of 4 KiB, that the firmware keeps for its page tables, and their count: where they lie is not visible.
(DESIGN CHOICE, log 20) -/
def tablePool : Nat × Nat := (Config.freeNat (2 ^ 71) % 2 ^ 26, 2 ^ 20)

/-- Far frames meet the pages that the firmware keeps. -/
def meetsPool (at' n : Nat) : Bool :=
  decide (at' < 4096 * (tablePool.1 + tablePool.2)) && decide (4096 * tablePool.1 < at' + n)

/-- The die whose pair reaches the page tables for the firmware: the leader's. -/
def State.fwDie (s : State) : Nat := s.leader.getD 0

/-- A page that the firmware keeps holds no table, does not move, and can be reached (R423, R426). -/
def State.blankPage (s : State) (p : Nat) : Bool :=
  !(s.far.any fun c => decide (4096 * p ≤ c.1) && decide (c.1 < 4096 * (p + 1))) &&
  !(s.moves.any fun m => m.has (4096 * p)) && !s.areaHeld s.fwDie (4096 * p) 4096

/-- The first blank one of `n` pages from `p` up. -/
def State.freePage (s : State) : Nat → Nat → Option Nat
  | 0, _ => none
  | n + 1, p => if s.blankPage p then some p else s.freePage n (p + 1)

/-- A new table of the firmware's, in a page that it keeps and that holds none; there may be no such page left. (DESIGN
CHOICE, log 20) -/
def State.newTable (s : State) (level : Nat) (entries : Nat → Nat) : Option (Nat × State) :=
  (s.freePage tablePool.2 tablePool.1).map fun p =>
    (4096 * p, (s.farPut (4096 * p) ((List.range (tableSize level)).flatMap fun i => leBytes 8 (entries i))).bump)

/-- A page of the firmware's is given back: nothing stands in it. -/
def State.giveBack (s : State) (table : Nat) : State :=
  if meetsPool table 4096 then
    { s with far := (List.range 64).foldl (fun m i => smCut m (s.home (table + 64 * i)) 64) s.far }
  else s

/-- Give back the table that an entry at a level names, and those under it; an entry that names none gives back nothing. -/
def State.dropTables (s : State) : Nat → Nat → State
  | 0, _ => s
  | level + 1, e =>
    if field e 60 2 = 1 then
      let table := field e 12 35 * 4096
      (((List.range (tableSize level)).map fun i => s.farNat (table + 8 * i) 8).foldl (fun s e => s.dropTables level e) s).giveBack table
    else s

/-- The lower leaves that map the same frames as a larger leaf at `level + 1` (R427). -/
def splitLeaf (level e i : Nat) : Nat := e + i * 2 ^ levelShift level

/-- Descend to the entry of a page at level `stop`, splitting larger leaves and building tables where none stand;
`build` says whether absent tables are built. Answers the entry's address, if there is one, unless a table has no room. -/
def State.descend (s : State) (stop va : Nat) (build : Bool) : Nat → Nat → Option (Option Nat × State)
  | 0, _ => some (none, s)
  | level + 1, table =>
    let at' := entryAt table level va
    if level ≤ stop then some (some at', s)
    else
      let e := s.farNat at' 8
      let kind := field e 60 2
      let under (entries : Nat → Nat) : Option (Option Nat × State) :=
        match s.newTable (level - 1) entries with
        | some (t, s1) => (s1.farPut at' (leBytes 8 (tableEntry t))).descend stop va build level t
        | none => none
      if kind = 1 then s.descend stop va build level (field e 12 35 * 4096)
      else if kind = 2 then under (splitLeaf (level - 1) e)
      else if build then under fun _ => 0
      else some (none, s)

/-- A tenant's root table, built where its space is not enabled, and written on all four dies (R393). -/
def State.rootFor (s : State) (slot : Nat) : Option (Nat × State) :=
  match (s.die 0).root slot with
  | some r => some (r, s)
  | none =>
    (s.newTable 4 fun _ => 0).map fun x =>
      (x.1, (List.range 4).foldl (fun s d => s.modDie d fun y => y.ctlSet64 (0x4800 + 16 * slot) (x.1 + 1)) x.2)

/-- The entry of a page at a level, with the tables that lead to it; with no root table and none to build, there is none. -/
def State.leafPlace (s : State) (slot stop va : Nat) (build : Bool) : Option (Option Nat × State) :=
  if (s.die 0).root slot = none ∧ build = false then some (none, s)
  else (s.rootFor slot).bind fun x => x.2.descend stop va build 5 x.1

/-- Put an entry at a page's place; the tables that it replaces are given back. -/
def State.putPage (s : State) (slot stop va e : Nat) (build : Bool) : Option State :=
  (s.leafPlace slot stop va build).map fun x =>
    match x.1 with
    | some a => (x.2.dropTables stop (x.2.farNat a 8)).farPut a (leBytes 8 e)
    | none => x.2

/-- Map `n` pages of a level one after another, all of them or none. -/
def State.mapPages (s : State) (slot level va tier node frame perm : Nat) : Nat → Option State
  | 0 => some s
  | n + 1 =>
    let e := 2 ^ 61 + tier * 2 ^ 58 + node * 2 ^ 47 + frame + perm * 32
    (s.putPage slot level va e true).bind fun t => t.mapPages slot level (va + 2 ^ levelShift level) tier node
      (frame + 2 ^ levelShift level) perm n

/-- Unmap `n` pages of a level, all of them or none. -/
def State.unmapPages (s : State) (slot level va : Nat) : Nat → Option State
  | 0 => some s
  | n + 1 => (s.putPage slot level va 0 false).bind fun t => t.unmapPages slot level (va + 2 ^ levelShift level) n

/-- Some of `k` lines from an address up cannot be reached from a die now, or are frozen. -/
def State.linesStop (s : State) (d a k : Nat) : Bool := (List.range k).any fun i => s.shut d (a + 64 * i) || s.frozen (a + 64 * i)

/-- Giving back the table that an entry at a level names, and those under it, meets such a line. -/
def State.dropStops (s : State) (d : Nat) : Nat → Nat → Bool
  | 0, _ => false
  | level + 1, e =>
    let table := field e 12 35 * 4096
    field e 60 2 == 1 && (s.linesStop d table (tableSize level / 8) ||
      (List.range (tableSize level)).any fun i => s.dropStops d level (s.farNat (table + 8 * i) 8))

/-- Writing the entry of a page at level `stop`, from a table down, meets such a line: of an entry that is read or written, or
of a table that is given back. -/
def State.putStops (s : State) (d stop va : Nat) : Nat → Nat → Bool
  | 0, _ => false
  | level + 1, table =>
    let at' := entryAt table level va
    let e := s.farNat at' 8
    s.shut d at' ||
    (if level ≤ stop then s.frozen at' || s.dropStops d stop e
    else if field e 60 2 = 1 then s.putStops d stop va level (field e 12 35 * 4096)
    else s.frozen at')

/-- The page tables over `count` pages of a level cannot be read and written now (R188, R409, R423, R424, R426). -/
def State.tablesCut (s : State) (slot level va count : Nat) : Bool :=
  match (s.die 0).root slot with
  | some r => (List.range count).any fun i => s.putStops s.fwDie level (va + i * 2 ^ levelShift level) 5 r
  | none => false

/-- Start the shootdown of a range on every die (R398). -/
def State.shootAll (s : State) (slot va bytes : Nat) : State :=
  let pages := (bytes + va % 2 ^ 16 + 65535) / 2 ^ 16
  let npg := if pages < 2 ^ 20 then pages else 0
  (List.range 4).foldl (fun s d =>
    (s.modDie d fun x => ((x.ctlSet64 0x40 (va / 2 ^ 16 * 2 ^ 16)).ctlSet 0x48 (w32 npg)).ctlPut 0x4C 0 4 slot).startShoot d) s

/-- Some die runs a shootdown: the firmware waits before it starts another. -/
def State.anyShooting (s : State) : Bool := (List.range 4).any fun d => (s.die d).shooting

/-- A range of pages is well placed. -/
def rangeOk (slot va size count : Nat) : Bool :=
  decide (slot < 16) && decide (size < 3) && va % 2 ^ levelShift size == 0 && decide (1 ≤ count) &&
  decide (va + count * 2 ^ levelShift size ≤ 2 ^ 57)

/-- MAP (R416, R427): leaves of page size `size` (0 64 KiB, 1 2 MiB, 2 1 GiB) over `count` pages from `va`, then the
shootdown; the command is complete when all four dies show DONE. It waits while the tables cannot be reached, and fails
as a whole where the firmware has no page left for a table. (DESIGN CHOICE, log 20) -/
def execMap (lo hi : List Nat) (slot va size count tier node frame perm : Nat) (s : State) : Res :=
  .next (s.command 0x11 (lo ++ hi) (s.anyShooting || s.unfocus.tablesCut slot size va count) fun token seq s r =>
    let leaf := 2 ^ 61 + tier * 2 ^ 58 + node * 2 ^ 47 + frame + perm * 32
    if rangeOk slot va size count && r.serves ((s.die 0).tenTid slot) && decide (perm < 8) && decide (tier < 3) &&
        decide (node < 2048) && decide (frame + count * 2 ^ levelShift size ≤ 2 ^ 47) && !pteBad size leaf &&
        !meetsPool (s.locator tier node frame) (count * 2 ^ levelShift size) then
      match s.mapPages slot size va tier node frame perm count with
      | some t => (t.shootAll slot va (count * 2 ^ levelShift size)).pendCmd token seq 0x11 0
      | none => s.failCmd token seq
    else s.failCmd token seq)

/-- UNMAP (R416, R427): it waits, and fails, as MAP does. -/
def execUnmap (lo hi : List Nat) (slot va size count : Nat) (s : State) : Res :=
  .next (s.command 0x11 (lo ++ hi) (s.anyShooting || s.unfocus.tablesCut slot size va count) fun token seq s r =>
    if rangeOk slot va size count && r.serves ((s.die 0).tenTid slot) then
      match s.unmapPages slot size va count with
      | some t => (t.shootAll slot va (count * 2 ^ levelShift size)).pendCmd token seq 0x11 0
      | none => s.failCmd token seq
    else s.failCmd token seq)

/-! ### Virtual memory as system software reaches it -/

/-- Write bytes under a tenant's translation, up to the first that faults; whether all were written. Writes to host
memory are performed there at once (R169), and what they touch of a live session's planes is undefined (R145). -/
def State.vaWrite (s : State) (die tenant va : Nat) : List Byte → State × Bool
  | [] => (s, true)
  | b :: r =>
    if !vaOk va then (s, false)
    else
      match s.translate die tenant 1 va with
      | .bad _ _ => (s, false)
      | .ok l =>
        let t := s.farPut l [b]
        let t : State := if locHost (s.home l) then { t with hostView := memWrite t.hostView (s.home l) [b] } else t
        (t.blankAny (s.planeCells l 1)).vaWrite die tenant (va + 1) r

/-- Every byte of a range can be written under a tenant's translation. -/
def State.vaCanWrite (s : State) (die tenant va n : Nat) : Bool :=
  (List.range n).all fun i =>
    vaOk (va + i) && (match s.translate die tenant 1 (va + i) with
      | .ok _ => true
      | .bad _ _ => false)

end Sys2Proof.Machine
end

