-- ==== Sys2Proof/Machine/ServiceEvents.lean ====
section
/-! DEFINITION. Service calls: the service's side and the resumption of the warp (R348 to R352, R360, R418).
A step that is not enabled changes nothing. -/

namespace Sys2Proof.Machine

/-- SVC_RESUME (R350): every calling lane's reply is counted and the block is resident. -/
def execSvcResume (blk wid : Nat) (s : State) : Res :=
  let s := s.unfocus
  match (s.block? blk).map (·.core), (s.warp? blk wid).bind (·.parked) with
  | some (some _), some p =>
    match s.calls.find? fun c => c.id == p.id && c.blk == blk with
    | none => .next s
    | some c =>
      if c.replies.length + 1 != c.slots then .next s
      else
        let put (s : State) (x : Nat × List Word) : State :=
          s.putRegs blk wid x.1 ((List.range 8).map fun i => (p.va + i, x.2.getD i 0))
        let t := c.replies.foldl put s
        let back (l : Lane) : Lane := if bit p.mask l.id then l.next else l
        let t := t.modWarp blk wid fun w => { w with parked := none, lanes := w.lanes.map back }
        .next { t with calls := t.calls.filter fun x => !(x.id == c.id && x.blk == blk) }
  | _, _ => .next s

/-- The numbers of a reply's words. -/
def words8 (xs : List Nat) : List Word := (List.range 8).map fun i => w32 (xs.getD i 0)

/-- A page of 64 KiB as service 7 finds it: of host memory already, open, or taken by something else. -/
def State.bufferPage (s : State) (tenant va : Nat) : Option Bool :=
  match s.translate 0 tenant 2 va, s.translate 0 tenant 0 va with
  | .ok l, _ => if locHost l then some true else none
  | .bad _ _, .ok _ => none
  | .bad _ _, .bad _ _ => some false

/-- Every open page of a list is mapped to host frames (R360): frames that follow one another. -/
def State.mapBuffer (s : State) (slot tenant node frame : Nat) : List Nat → Option State
  | [] => some s
  | va :: r =>
    (if s.bufferPage tenant va = some false then s.mapPages slot 0 va 2 node frame 7 1 else some s).bind fun t =>
      t.mapBuffer slot tenant node (frame + 65536) r

/-- The bytes of a granted buffer are undefined (R7, R360). -/
def State.blankBuffer (s : State) (tenant addr size : Nat) (pages : List Nat) : State :=
  pages.foldl (fun s p =>
    let lo := max addr p
    match s.translate 0 tenant 1 lo with
    | .ok l =>
      let n := min (addr + size) (p + 65536) - lo
      { s with far := smCut s.far (s.home l) n, hostView := smCut s.hostView l n }
    | .bad _ _ => s) s

/-- A page holds part of a live buffer of a tenant. -/
def State.buffered (s : State) (tenant p : Nat) : Bool := s.buffers.any fun b => b.tenant == tenant && b.pages.contains p

/-- Buffers end: their pages that hold no part of another buffer are unmapped, with a shootdown of their tenants' spaces
(R360, R398). (DESIGN CHOICE, log 22) -/
def State.dropBuffers (s : State) (pick : Buffer → Bool) : State :=
  let out := s.buffers.filter pick
  let t : State := { s with buffers := s.buffers.filter fun b => !pick b }
  let t := out.foldl (fun s b =>
    match (s.die 0).tenSlot b.tenant with
    | some slot => b.pages.foldl (fun s p => if s.buffered b.tenant p then s else (s.unmapPages slot 0 p 1).getD s) s
    | none => s) t
  ((out.map (·.tenant)).eraseDups.filterMap fun k => (t.die 0).tenSlot k).foldl (fun s slot => s.shootAll slot 0 (2 ^ 57)) t

/-- Buffers cannot be unmapped now: a shootdown runs, or the page tables cannot be reached (R398, R423, R426). -/
def State.buffersHeld (s : State) (pick : Buffer → Bool) : Bool :=
  (s.buffers.filter pick).any fun b => s.anyShooting || match (s.die 0).tenSlot b.tenant with
    | some slot => b.pages.any fun p => s.tablesCut slot 0 p 1
    | none => false

/-- The launch session that a buffer belongs to has come to its end: it closes or is gone, and its grids are over (R360, R416). -/
def State.bufferOver (s : State) (b : Buffer) : Bool :=
  match b.session with
  | some k => (s.rpcs.all fun r => r.token != k || r.closing.isSome) && !s.busyRpc k
  | none => false

/-- Buffers of launch sessions that have come to their end go, once they can, and those sessions close (R360, R416). -/
def State.dropOver (s : State) : State :=
  if s.leader.isNone || !(s.buffers.any s.bufferOver) || s.buffersHeld s.bufferOver then s
  else (s.dropBuffers s.bufferOver).closeSessions

/-- The RPC session of the grid that made a call. -/
def State.callSession (s : State) (c : SvcCall) : Option Nat :=
  ((s.block? c.blk).bind fun b => smGet s.grids b.grid).bind (·.session)

/-- Service 7 for one lane (R360). The answer is grant, address, host endpoint, frame of the first page.
(DESIGN CHOICE, log 22) -/
def State.bufferService (s : State) (c : SvcCall) (args : List Word) (ans : List Nat) : List Word × State :=
  let a (i : Nat) : Nat := (args.getD i 0).toNat
  let size := a 0
  if size < 4096 ∨ 1048576 < size ∨ size % 4096 ≠ 0 ∨ a 1 < 12 ∨ 30 < a 1 ∨ 2 ≤ a 3 ∨
      a 4 ≠ 0 ∨ a 5 ≠ 0 ∨ a 6 ≠ 0 ∨ a 7 ≠ 0 then (words8 [0, 0, 2, 0], s)
  else
    let addr := ans.getD 1 0
    match (s.die c.die).tenSlot c.tenant with
    | none => (words8 [0, 0, 1, 0], s)
    | some slot =>
      let base := addr / 65536 * 65536
      let pages := (List.range ((addr + size - base + 65535) / 65536)).map fun i => base + 65536 * i
      if ans.getD 0 0 = 0 ∨ addr % 2 ^ a 1 ≠ 0 ∨ addr = 0 ∨ 2 ^ 57 < addr + size ∨
          pages.any (fun p => (s.bufferPage c.tenant p).isNone) = true then (words8 [0, 0, 1, 0], s)
      else
        match s.mapBuffer slot c.tenant (ans.getD 2 0 % 2048) (ans.getD 3 0 % 2 ^ 31 * 65536) pages with
        | none => (words8 [0, 0, 1, 0], s)
        | some t =>
          let b : Buffer :=
            { tenant := c.tenant, session := s.callSession c
              pages := pages.filter fun p => s.bufferPage c.tenant p == some false || s.buffered c.tenant p }
          let t : State := { t with buffers := t.buffers ++ [b] }
          let u := if a 3 = 1 then (t.vaWrite c.die c.tenant addr (List.replicate size 0)).1
            else t.blankBuffer c.tenant addr size pages
          (words8 [addr % 2 ^ 32, addr / 2 ^ 32, 0, size], u)

/-- Service 8 for one lane (R418). The answer is 0 done, 1 slot not the tenant's, 3 NVMe error; then the NVMe status,
then the bytes read. (DESIGN CHOICE, log 22) -/
def State.storageService (s : State) (c : SvcCall) (args : List Word) (ans : List Nat) : List Word × State :=
  let a (i : Nat) : Nat := (args.getD i 0).toNat
  let dest := a 5 + 2 ^ 32 * a 6
  let n := a 4
  if 64 ≤ a 0 ∨ n = 0 ∨ 256 < n ∨ dest % 4096 ≠ 0 ∨ a 7 ≠ 0 then (words8 [2, 0, 0], s)
  else if ans.getD 0 0 = 1 then (words8 [1, 0, 0], s)
  else if ans.getD 0 0 ≠ 0 then (words8 [3, ans.getD 1 0, 0], s)
  else
    let bytes := (List.range (4096 * n)).map fun i => BitVec.ofNat 8 (ans.getD (2 + i) 0)
    match s.vaWrite c.die c.tenant dest bytes with
    | (t, true) => (words8 [0, ans.getD 1 0, n], t)
    | (t, false) => (words8 [2, 0, 0], t)

/-- The answer to one lane of a call. -/
def State.serve (s : State) (c : SvcCall) (known : Bool) (args : List Word) (ans : List Nat) : List Word × State :=
  if !known then (List.replicate 8 0xFFFFFFFF, s)
  else if c.num = 7 then s.bufferService c args ans
  else if c.num = 8 then s.storageService c args ans
  else (words8 ans, s)

/-- The parking record of a call (R349). -/
def parkingOf (die id : Nat) : Nat := Config.parkingAddr (4 * id + die) % 2 ^ 57

/-- Answer the lanes of a call: each reply goes to the parking record, and then the count goes up (R350).
(DESIGN CHOICE, log 22) -/
def State.serveAll (s : State) (c : SvcCall) (known : Bool) : List ((Nat × List Word) × List Nat) → Nat → State × List (Nat × List Word)
  | [], _ => (s, [])
  | ((lane, args), ans) :: r, k =>
    let (rep, t) := s.serve c known args ans
    let rec' := parkingOf c.die c.id
    let t1 := (t.farPut (rec' + 64 + 32 * lane) (rep.flatMap fun w => leBytes 4 w.toNat)).farPut rec' (leBytes 4 (k + 1))
    let (u, rs) := t1.serveAll c known r (k + 1)
    (u, (lane, rep) :: rs)

/-- Service 7 cannot answer a lane now: the tables of a page that it maps cannot be reached (R423, R426), or a line of the buffer
is frozen or waits in a host endpoint for a write that comes before the buffer's own contents (R178, R179, R188). -/
def State.bufferHeld (s : State) (c : SvcCall) (args : List Word) (ans : List Nat) : Bool :=
  let addr := ans.getD 1 0
  let size := (args.getD 0 0).toNat
  let base := addr / 65536 * 65536
  let pages := (List.range ((addr + min size 1048576 - base + 65535) / 65536)).map fun i => base + 65536 * i
  let t := (s.bufferService c args ans).2
  (match (s.die c.die).tenSlot c.tenant with
    | some slot => pages.any fun p => s.bufferPage c.tenant p == some false && s.tablesCut slot 0 p 1
    | none => false) ||
  (decide (s.buffers.length < t.buffers.length) && (List.range (size / 64)).any fun i =>
    match t.translate c.die c.tenant 1 (addr + 64 * i) with
    | .ok l => t.awaitsHost l || t.frozen l
    | .bad _ _ => false)

/-- The parking record, or what services 7 and 8 would write, lies where it cannot be reached now (R188, R409, R423, R424, R426),
or a lane of a defined service would be answered with the eight words of R352. -/
def State.serveStops (s : State) (c : SvcCall) (known : Bool) (args : List Word) (ans : List Nat) : Bool :=
  let a (i : Nat) : Nat := (args.getD i 0).toNat
  s.areaHeld c.die (parkingOf c.die c.id) 2112 || known && (if c.num = 8 then s.rangeHeld c.die c.tenant 1 (a 5 + 2 ^ 32 * a 6) (4096 * min (a 4) 256)
    else if c.num = 7 then s.bufferHeld c args ans
    else words8 ans == List.replicate 8 0xFFFFFFFF)

/-- SERVICE_CALL (R350, R352): the leader's service takes the first call of a die that it has not consumed and answers
every calling lane; the call of a block that is gone, or that has been stopped for good (R399, R402), is passed over. The call is committed, and SRHEAD may pass its slots (R414). `known` is 1 where the firmware has the
service and the tenant may use it; `answers` are what the outside contributes, lane by lane. -/
def execServiceCall (die known : Nat) (answers : List (List Nat)) (s : State) : Res :=
  let s := s.unfocus
  match s.leader, s.calls.find? fun c => c.die == die && !c.consumed with
  | some _, some c =>
    let lanes := if (s.block? c.blk).any (!·.stopped) then c.args.zip (answers ++ List.replicate 64 []) else []
    if lanes.any fun x => s.serveStops c (known == 1) x.1.2 x.2 then .next s
    else
      let (t, reps) := s.serveAll c (known == 1) lanes 0
      let done (x : SvcCall) : SvcCall := if x.id = c.id ∧ x.die = die then { x with consumed := true, replies := reps } else x
      let u : State := { t with calls := (t.calls.map done).filter fun x => !x.consumed || (t.block? x.blk).isSome }
      .next ((u.modDie die fun d => { d with svcDone := (d.svcDone + c.slots) % 2 ^ 17 }).commit)
  | _, _ => .next s

end Sys2Proof.Machine
end

