-- ==== Sys2Proof/Machine/HostEvents.lean ====
section
/-! DEFINITION. Host commands and host processors (R174, R187, R370, R371, R374, R390, R402, R411, R415 to R422).
A step that is not enabled changes nothing. -/

namespace Sys2Proof.Machine

/-! ### Sessions (R415 to R417) -/

/-- SESSION.OPEN (R415 to R417): under a certificate (2·tenant, and 1 more for the package's owner) that is enrolled, it answers a token, and the offer AND the device's supported word. It is the first command of its session: sequence
numbers go from 1, one per command; the token of its header says nothing yet. (DEDUCED, log 21) -/
def execSessionOpen (hdr : List Nat) (cert offer : Nat) (s : State) : Res :=
  let s := s.unfocus
  let tenant := cert / 2
  let owner := cert % 2 == 1
  if s.leader.isNone || (readHeader hdr).map (fun h => (h.1, h.2.2)) != some (1, 1) || !s.certs.contains (tenant, owner) then .next s
  else
    let (tok, t) := s.newId
    let word := offer &&& supportedWord
    let r : Rpc :=
      { token := tok, tenant := tenant, owner := owner, word := word, seq := 1, journal := [], openCmds := []
        closing := none, codes := [(1, 1)] }
    .next (({ t with rpcs := t.rpcs ++ [r] } : State).answer tok 1 0 (leNums 8 tok ++ leNums 4 word))

/-- The grids of a session (R416). -/
def State.gridsOf (s : State) (token : Nat) : List Nat := (s.grids.filter fun g => g.2.session == some token).map (·.1)

/-- A session ends: its grids are ended, and its packets that no controller has taken yet are turned away (R416). -/
def State.endSession (s : State) (token : Nat) : State :=
  let mine (i : Inbound) : Bool := (i.rpc.map (·.1)) == some token
  let t := (s.gridsOf token).foldl (fun s g => s.killGrid g) s
  let t : State := { t with inbound := t.inbound.filter fun i => !mine i }
  (s.inbound.filter mine).foldl (fun t i => t.answer token ((i.rpc.map (·.2)).getD 0) s.failStatus []) t

/-- SESSION.CLOSE (R416): the session ends; the command is complete when no grid of it is left, and its buffers have gone then
(R360). -/
def execSessionClose (lo hi : List Nat) (s : State) : Res :=
  .next (s.command 0x02 (lo ++ hi) false fun token seq s _ =>
    ((s.endSession token).setRpc token fun x => { x with closing := some seq }).closeSessions.dropOver)

/-- CERTIFICATE_REVOCATION (R415, R416): the certificate of a session, `ev` twice its token, is revoked, and every session
that was opened under it ends with its grids; with `ev` 4·tenant + 2·owner + 1 system software enrols a certificate. A
certificate is known by its tenant and whether it is the owner's. (DESIGN CHOICE, log 36) -/
def execCertificateRevocation (ev : Nat) (s : State) : Res :=
  let s := s.unfocus
  if s.leader.isNone then .next s
  else if ev % 2 = 1 then
    let cert := (ev / 4, ev / 2 % 2 == 1)
    .next (if s.certs.contains cert then s else { s with certs := s.certs ++ [cert] })
  else
    match s.rpcs.find? fun r => r.token == ev / 2 with
    | none => .next s
    | some x =>
      let under (r : Rpc) : Bool := r.tenant == x.tenant && r.owner == x.owner
      let toks := (s.rpcs.filter under).map (·.token)
      let t := toks.foldl (fun s k => s.endSession k) s
      .next ({ t with
        certs := t.certs.filter fun c => c != (x.tenant, x.owner), rpcs := t.rpcs.filter fun r => !under r } : State).commit.dropOver

/-- RPC_RECONNECT (R416): the session is as it was; the commands sent again are events of their own.
(DEDUCED, log 23) -/
def execRpcReconnect (_token : Nat) (s : State) : Res := .next s.unfocus

/-! ### Tenants and the island (R370, R371, R411) -/

/-- The quota writes of a TENANT.SET: core, LQ entry, value. -/
def State.setQuotas (s : State) : List Nat → State
  | c :: j :: v :: r => (s.setQuota (coreDie c) (c % 48) j v).setQuotas r
  | _ => s

/-- Write words from an offset up in the control space of a die. -/
def Die.ctlWrites (d : Die) (off : Nat) : List Nat → Die
  | [] => d
  | v :: r => (d.ctlWrite off v).ctlWrites (off + 4) r

/-- TENANT.SET (R370, R371, R416): the entry's eight words on all dies, and quotas. Only the owner's session sets
them. -/
def execTenantSet (lo hi : List Nat) (n : Nat) (entry quotas : List Nat) (s : State) : Res :=
  .next (s.command 0x10 (lo ++ hi) false fun token seq s r =>
    if r.owner && decide (n < 16) && entry.length == 8 then
      let t := (List.range 4).foldl (fun s d => s.modDie d fun x => x.ctlWrites (0x4000 + 32 * n) entry) s
      (t.setQuotas quotas).answer token seq 0 []
    else s.failCmd token seq)

/-- ISLAND.SET (R411, R416): status 0x0002 while a grid is live or a plane session exists. -/
def execIslandSet (lo hi : List Nat) (isl dev : Nat) (s : State) : Res :=
  .next (s.command 0x12 (lo ++ hi) false fun token seq s r =>
    if !r.owner then s.failCmd token seq
    else if !s.identFree then s.answer token seq 2 []
    else (s.writeIdent (isl % 2 ^ 16 * 2 ^ 16 + dev % 2 ^ 11)).answer token seq 0 [])

/-! ### Grids (R374, R378, R402) -/

/-- LAUNCH (R374, R416): the packet goes to the home die's controller, which answers it. With no header
system software launches it outside any session (R417). (DESIGN CHOICE, log 36) -/
def execHostLaunch (lo hi : List Nat) (addr tenant home : Nat) (s : State) : Res :=
  let i (rpc : Option (Nat × Nat)) : Inbound :=
    { die := home, addr := addr, tenant := tenant, parent := none, rpc := rpc, deadSince := none }
  .next (if lo ++ hi = [] then
      (if s.unfocus.leader.isSome && decide (home < 4) then { s.unfocus with inbound := s.unfocus.inbound ++ [i none] }
       else s.unfocus)
    else s.command 0x20 (lo ++ hi) false fun token seq s r =>
      if r.serves tenant && decide (home < 4) then
        ({ s with inbound := s.inbound ++ [i (some (token, seq))] } : State).pendCmd token seq 0x20 0
      else s.failCmd token seq)

/-- The session may name a grid: one that is not live, or one of a tenant it serves. (DESIGN CHOICE, log 21) -/
def State.mayName (s : State) (r : Rpc) (gid : Nat) : Bool :=
  match smGet s.grids gid with
  | some g => r.serves g.tenant
  | none => true

/-- GRID.WAIT (R416): complete when the grid has retired. -/
def execGridWait (lo hi : List Nat) (gid : Nat) (s : State) : Res :=
  .next (s.command 0x21 (lo ++ hi) false fun token seq s r =>
    if !s.mayName r gid then s.failCmd token seq
    else if (smGet s.grids gid).isSome then s.pendCmd token seq 0x21 gid
    else s.answer token seq 0 [])

/-- GRID.KILL (R402, R416): complete when the kind 6 record is written. For a grid that is not live none is. -/
def execGridKill (lo hi : List Nat) (gid : Nat) (s : State) : Res :=
  .next (s.command 0x22 (lo ++ hi) false fun token seq s r =>
    if s.mayName r gid && (smGet s.grids gid).isSome then (s.killGrid gid).pendCmd token seq 0x22 gid
    else s.failCmd token seq)

/-! ### Memory (R416) -/

/-- MEM.READ (R416, R424): bytes of a tenant's space; status 0x13 where one has an uncorrectable error. It waits for lines
that cannot be reached (R409, R423). -/
def execMemRead (lo hi : List Nat) (slot va n : Nat) (s : State) : Res :=
  .next (s.command 0x30 (lo ++ hi) (s.unfocus.rangeHeld 0 ((s.die 0).tenTid slot) 0 va n) fun token seq s r =>
    let t := (s.die 0).tenTid slot
    if !r.serves t || !(s.die 0).tenVal slot then s.failCmd token seq
    else
      match s.vaBytes 0 t 0 va n with
      | some bs => s.answer token seq 0 (bs.map (·.toNat))
      | none => if s.vaSpoilt 0 t 0 va n then s.answer token seq 0x13 [] else s.failCmd token seq)

/-- MEM.WRITE (R416): performed as if completed at .sys; it waits for lines that cannot be reached or are frozen (R188, R409,
R423). -/
def execMemWrite (lo hi : List Nat) (slot va : Nat) (bytes : List Nat) (s : State) : Res :=
  .next (s.command 0x31 (lo ++ hi) (s.unfocus.rangeHeld 0 ((s.die 0).tenTid slot) 1 va bytes.length) fun token seq s r =>
    let t := (s.die 0).tenTid slot
    if r.serves t && (s.die 0).tenVal slot && s.vaCanWrite 0 t va bytes.length then
      ((s.vaWrite 0 t va (bytes.map (BitVec.ofNat 8))).1).answer token seq 0 []
    else s.failCmd token seq)

/-! ### Plane sessions (R143, R144, R146, R390, R399, R420) -/

/-- A tensor-group record as system software writes it: LR, B1, OMB1, B2, OMB2, EPS, WD, OLR, OMU. P1 and P2 start at
1.0, %dnorm at +0.0 and %dthr at +∞ (R146). -/
def groupOf (ws : List Nat) : Group :=
  let a (i : Nat) : Word := w32 (ws.getD i 0)
  { lr := a 0, b1 := a 1, omb1 := a 2, b2 := a 3, omb2 := a 4, eps := a 5, wd := a 6, olr := a 7, omu := a 8
    p1 := 0x3F800000, p2 := 0x3F800000, bc1 := 0, bc2 := 0, dnorm := 0, dthr := 0x7F800000, pv := false, div := false }

/-- A plane-table entry: BASE, NEL, HDIE, GRP, and VAL, which is 1 where it is not given. -/
def tensorOf (ws : List Nat) : Tensor :=
  { val := ws.getD 4 1 == 1, base := ws.getD 0 0, nel := ws.getD 1 0, hdie := ws.getD 2 0, grp := ws.getD 3 0 }

/-- An entry is within the limits of R144. -/
def Tensor.ok (t : Tensor) : Bool :=
  t.base % 65536 == 0 && decide (1 ≤ t.nel) && decide (t.nel < 2 ^ 31) && decide (t.hdie < 4) && decide (t.grp < 16)

/-- A group record is written again: what the engine keeps of it stays (R146). -/
def Group.rewrite (g : Group) (ws : List Nat) : Group :=
  let n := groupOf ws
  { g with lr := n.lr, b1 := n.b1, omb1 := n.omb1, b2 := n.b2, omb2 := n.omb2, eps := n.eps, wd := n.wd, olr := n.olr, omu := n.omu }

/-- A live grid has joined the session. -/
def State.joinedLive (s : State) : Bool := s.grids.any fun g => g.2.joined

/-- What system software writes into a session that stands (R145, R390): entries that are added or made valid, never one
that is valid; and group records, while no joined grid is live. -/
def State.planeChange (s : State) (x : Session) (ts : List (Nat × Tensor)) (groups : List (List Nat)) : Option Session :=
  if (ts.any fun t => (x.tensor? t.1).isSome) || !(groups.isEmpty || (groups.length == 16 && !s.joinedLive)) then none
  else some { x with
    tensors := smSets x.tensors ts
    groups := if groups.isEmpty then x.groups else (x.groups.zip groups).map fun g => g.1.rewrite g.2 }

/-- PLANE.CREATE (R390): the owning tenant, LS, N, LSMIN, LSMAX, seed, first round number, inter-island key and trust list
(`scale`), the plane table (identifier and entry) and the 16 group records, with the step closed; only when the package
holds no session. For the tenant's session that stands it writes further entries, or the group records. (DESIGN CHOICE,
log 36) -/
def execPlaneCreate (lo hi : List Nat) (tenant : Nat) (scale : List Nat) (tensors groups : List (List Nat)) (s : State) : Res :=
  .next (s.command 0x40 (lo ++ hi) false fun token seq s r =>
    let ts := tensors.map fun x => (x.headD 0, tensorOf x.tail)
    if !r.serves tenant || !(ts.all fun t => decide (t.1 < 4096) && t.2.ok) then s.failCmd token seq
    else if let some x := s.session then
      match (if x.tenant = tenant then s.planeChange x ts groups else none) with
      | some y => ({ s with session := some y } : State).answer token seq 0 []
      | none => s.failCmd token seq
    else if groups.length == 16 then
      let x : Session :=
        { tenant := tenant, seed := scale.getD 4 0, ls := w32 (scale.getD 0 0), n := scale.getD 1 0
          lsmin := w32 (scale.getD 2 0), lsmax := w32 (scale.getD 3 0), clean := 0, step := .closed, ovf := false
          tensors := smSets [] ts, groups := groups.map groupOf, upds := [], ops := [], stopped := [], deadSince := []
          nextRound := scale.getD 5 0, round := none, key := scale.getD 6 0, trust := scale.drop 7 }
      ({ s with session := some x } : State).answer token seq 0 []
    else s.failCmd token seq)

/-- The bytes of a tensor's plane block become undefined, page by page. -/
def State.losePlanes (s : State) (tenant : Nat) (t : Tensor) : State :=
  (List.range ((28 * (32768 * ((t.nel + 32767) / 32768)) + 65535) / 65536)).foldl (fun s i =>
    match s.translate t.hdie tenant 1 (t.base + 65536 * i) with
    | .ok l => { s with far := smCut s.far (s.home l) 65536 }
    | .bad _ _ => s) s

/-- The busy flags of a session's instructions clear with status 0x0042 (R399). -/
def State.clearPlaneFlags (s : State) (x : Session) : State :=
  let s1 := x.upds.foldl (fun s u => s.complete u.blk u.wid u.op 0x42) s
  x.ops.foldl (fun s o => s.complete o.blk o.wid o.op 0x42) s1

/-- PLANE.DESTROY (R360, R390, R399): while no joined grid is live, or after an engine fault, which leaves the session's
planes undefined. (DEDUCED, log 19) -/
def execPlaneDestroy (lo hi : List Nat) (s : State) : Res :=
  .next (s.command 0x40 (lo ++ hi) (s.unfocus.buffersHeld fun b => (s.session.map (·.tenant)) == some b.tenant) fun token seq s r =>
    match s.session with
    | none => s.failCmd token seq
    | some x =>
      if !r.serves x.tenant || (s.joinedLive && x.stopped.isEmpty) then s.failCmd token seq
      else
        let t := (s.clearPlaneFlags x)
        let u := if x.stopped.isEmpty then t else (x.tensors.map (·.2)).foldl (fun s k => s.losePlanes x.tenant k) t
        (({ u with session := none } : State).dropBuffers fun b => b.tenant == x.tenant).answer token seq 0 [])

/-- Write words into a plane of a tensor, from element 0. -/
def State.planeFill (s : State) (tenant : Nat) (t : Tensor) (p : Nat) : Nat → List Nat → State
  | _, [] => s
  | e, v :: r => (s.planePut tenant t p e (w32 v)).planeFill tenant t p (e + 1) r

/-- Put a carried plane into every tensor of a list of groups: pending (first half) or outer momentum. -/
def State.syncFill (s : State) (x : Session) (carried : List (List Nat)) (p : Nat) (gs : List Nat) : State :=
  carried.foldl (fun s c =>
    match x.tensor? (c.headD 0) with
    | some t =>
      if gs.contains t.grp then
        s.planeFill x.tenant t p 0 (if p = 3 then c.tail.take t.nel else (c.tail.drop t.nel).take t.nel)
      else s
    | none => s) s

/-- The island accepts the manifest of a round next; another that is under way is given up (R420). (DEDUCED, log 31) -/
def State.expectRound (s : State) (r : Nat) : State :=
  { s with session := s.session.map fun (x : Session) =>
      { x with nextRound := r, round := x.round.filter fun rd => rd.r == r } }

/-- How the planes of the tensors of some groups can be reached. -/
def State.syncReach (s : State) (x : Session) (ts : List Tensor) : Reach × Nat × Nat :=
  if x.allRun 1 ts then s.tensorsReach x.tenant [0, 1, 2, 3, 6] ts else (.hold, 0, 0)

/-- The command carries both planes of every tensor of some groups. -/
def Session.carriesAll (x : Session) (gs : List Nat) (tensors : List (List Nat)) : Bool :=
  x.valid.all fun t => !gs.contains t.2.grp || tensors.any fun c => c.headD 0 == t.1 && decide (2 * t.2.nel < c.length)

/-- ANCHOR.SYNC waits where a line of the planes cannot be reached now. -/
def State.syncWaits (s : State) (mask : Nat) : Bool :=
  match s.session with
  | none => false
  | some x =>
    match s.syncReach x (((List.range 16).filter (bit mask)).flatMap x.ofGroup) with
    | (.hold, _) => true
    | _ => false

/-- ANCHOR.SYNC (R420): the round r that the planes have folded, and for each tensor of the mask's groups, its
identifier, anchor plane and outer-momentum plane. Refused while a joined grid is live or the step is open. -/
def execAnchorSync (lo hi : List Nat) (mask r : Nat) (tensors : List (List Nat)) (s : State) : Res :=
  .next (s.command 0x41 (lo ++ hi) (s.unfocus.syncWaits mask) fun token seq s0 p =>
    match s0.session with
    | none => s0.failCmd token seq
    | some x =>
      let gs := (List.range 16).filter (bit mask)
      let ts := gs.flatMap x.ofGroup
      if !p.serves x.tenant || s0.joinedLive || x.step != .closed || !x.carriesAll gs tensors then s0.failCmd token seq
      else
        match s0.syncReach x ts with
        | (.hold, _) => s0.failCmd token seq
        | (.bad st d l, a, die) => (s0.planeFault x.tenant die d l st a).failCmd token seq
        | (.ok _ _, _) =>
          let s1 := s0.syncFill x tensors 3 gs
          let (s2, _) := s1.mergeGroups x gs
          ((s2.syncFill x tensors 6 gs).expectRound (r + 1)).answer token seq 0 [])

/-! ### Attestation, firmware, telemetry (R416, R421, R422) -/

/-- The first 176 bytes of an attestation report (R422). -/
def State.report (s : State) (leader : Nat) (nonce : List Nat) : List Nat :=
  let d := s.die leader
  let img := d.running.bind fun k => s.images[k]?
  let fit (xs : List Nat) : List Nat := (List.range 32).map fun i => xs.getD i 0 % 256
  let log := sha256 (s.measureLog.flatten.map (BitVec.ofNat 8))
  let isolated := bitsOf ((List.range 4).filter fun k => (s.die k).isolated)
  fit nonce ++ (List.range 32).map (fun i => (Config.bootRomHash i).toNat) ++ fit ((img.map (·.hash)).getD []) ++
  fit (log.map (·.toNat)) ++ leNums 4 ((img.map (·.rollback)).getD 0) ++
  leNums 4 supportedWord ++ leNums 4 (d.ctlField 0xB8 2 16) ++ leNums 4 isolated ++ List.replicate 32 0

/-- ATTEST (R422): the report, signed by the leader die's identity key, and the key's certificate chain. -/
def execAttest (lo hi nonce : List Nat) (s : State) : Res :=
  .next (s.command 0x50 (lo ++ hi) false fun token seq s _ =>
    match s.leader with
    | none => s
    | some l =>
      let rep := s.report l nonce
      let sig := (List.range 64).map fun i => (Config.ecdsaSign l rep i).toNat
      s.answer token seq 0 (rep ++ sig ++ Config.certChain l))

/-- A firmware image as its header and its checks give it (R421). -/
def parseImage (image : List Nat) : Image :=
  let bs := image.map (BitVec.ofNat 8)
  let body := (bs.drop 128).take (numAt bs 12 4)
  let hash := (bs.drop 16).take 32
  { version := numAt bs 4 4, rollback := numAt bs 8 4, hash := hash.map (·.toNat)
    valid := decide (128 ≤ bs.length) && numAt bs 0 4 == 0x57464741 && ((bs.drop 112).take 16).all (· == 0) &&
      body.length == numAt bs 12 4 && sha256 body == hash &&
      Config.ecdsaValid 0 (image.take 48) ((image.drop 48).take 64) }

/-- The flash slot that a staged image takes: the one that does not run, A where none does. (DEDUCED, log 24) -/
def State.stageSlot (s : State) : Nat :=
  match (List.range 4).findSome? fun d => (s.die d).running with
  | some k => 1 - k
  | none => 0

/-- Put an image into a flash slot; a slot that was empty before it holds no valid image. -/
def State.putImage (s : State) (k : Nat) (i : Image) : State :=
  let none' : Image := { version := 0, rollback := 0, hash := [], valid := false }
  { s with images := (List.range 2).map fun j => if j = k then i else (s.images[j]?).getD none' }

/-- Every pair stays in boot ROM, for want of a valid image, and answers only FW.STAGE over a recovery session (R421). -/
def State.recovers (s : State) : Bool := s.bootImage.isNone && s.dies.all fun d => d.running.isNone

/-- FW.STAGE (R416, R421): the image is verified and stands in flash. -/
def execFwStage (lo hi image : List Nat) (s : State) : Res :=
  let i := parseImage image
  let s := s.unfocus
  .next (if s.recovers then
      match readHeader (lo ++ hi) with
      | some (0x60, token, seq) =>
        let t := if i.runs s.fusedRollback then s.putImage s.stageSlot i else s
        { t with outbox := t.outbox ++ [(2, rpcReply 0x60 (if i.runs s.fusedRollback then 0 else s.failStatus) token seq [])] }.bump
      | _ => s
    else
      s.command 0x60 (lo ++ hi) false fun token seq s r =>
        if r.owner && i.runs s.fusedRollback then (s.putImage s.stageSlot i).answer token seq 0 [] else s.failCmd token seq)

/-- FW.ACTIVATE (R416, R421): complete at the next reset (COLD_BOOT). -/
def execFwActivate (lo hi : List Nat) (s : State) : Res :=
  .next (s.command 0x60 (lo ++ hi) false fun token seq s r => if r.owner then s.pendCmd token seq 0x60 0 else s.failCmd token seq)

/-- TELEMETRY (R416). -/
def execTelemetry (lo hi : List Nat) (s : State) : Res :=
  .next (s.command 0x70 (lo ++ hi) false fun token seq s _ => (s.answer token seq 0 (Config.telemetryBytes s.fresh)).bump)

/-- The command codes of R416. -/
def commandCodes : List Nat :=
  [0x01, 0x02, 0x10, 0x11, 0x12, 0x20, 0x21, 0x22, 0x30, 0x31, 0x40, 0x41, 0x50, 0x60, 0x70]

/-- UNKNOWN_COMMAND (R416): status 0x0001, and nothing else. -/
def execUnknownCommand (lo hi _payload : List Nat) (s : State) : Res :=
  .next (match readHeader (lo ++ hi) with
    | some (code, _, _) =>
      if commandCodes.contains code then s.unfocus else s.command code (lo ++ hi) false fun token seq s _ => s.answer token seq 1 []
    | none => s.unfocus)

/-! ### Host processors (R174, R187) -/

/-- The bytes of a word as host processors see it, as keys of `Orders`. -/
def State.hostKeys (s : State) (loc : Nat) : List Nat :=
  let h := s.home loc
  if locHost h then (List.range 4).map fun i => byteKey hostTag (h + i) else s.locKeys loc 4

/-- Write a word of host memory as a host processor, at its home (R188, R406): a byte that an endpoint still holds keeps the
endpoint's value for the island, which is performed later (R187). What it touches of a live session's planes is undefined
(R145). -/
def State.hostPut (s : State) (loc v : Nat) (clk : SMap Nat) : State :=
  let h := s.home loc
  let held (a : Nat) : Bool := s.hostQ.any fun q => decide (q.2.1 ≤ a) && decide (a < q.2.1 + q.2.2.length)
  let put (s : State) (c : Byte × Nat) : State :=
    let t : State := if locHost h then { s with hostView := memWrite s.hostView (h + c.2) [c.1] } else s
    if held (h + c.2) then t else t.farPut (loc + c.2) [c.1]
  let t := ((leBytes 4 v).zipIdx.foldl put s).blankAny (s.planeCells loc 4)
  { t with order := (t.order.give (s.locKeys loc 4) clk).give (s.hostKeys loc) clk }

/-- The endpoint holds the write of a device atomic to a word, not yet performed in host memory: nothing comes between its
read and its write (R174, R180). -/
def State.atomHeld (s : State) (loc : Nat) : Bool :=
  let h := s.home loc
  s.hostQ.any fun q => decide (q.2.1 < h + 4) && decide (h < q.2.1 + q.2.2.length) &&
    s.farQ.any fun x => x.id == q.1 && x.kind == 4

/-- The word stands in a stack of this package, to which it has moved, and that does not answer or is not trained (R406, R423,
R426). -/
def State.hostCut (s : State) (loc : Nat) : Bool :=
  let h := s.home loc
  s.silent h || (locHere h && !(s.trained.getD (stackOf h) true))

/-- A host processor's write to a word waits (R174, R188). -/
def State.hostWaits (s : State) (loc : Nat) : Bool := s.atomHeld loc || s.frozen loc || s.hostCut loc

/-- The word of host memory as host processors see it, at its home (R406). (DEDUCED, log 25) -/
def State.hostGet (s : State) (loc : Nat) : Nat :=
  if locHost (s.home loc) then memNat s.hostView farTag (s.home loc) 4 else s.farNat loc 4

/-- A host processor has read a word: all that it does later comes after (R187). -/
def State.hostHears (s : State) (host loc : Nat) : State :=
  { s with order := s.order.learn [hostParty host] (s.order.handed (s.hostKeys loc)) true }

/-- The oldest buffered store of a host leaves its buffer, unless it waits. -/
def State.hostDrain (s : State) (host : Nat) : State :=
  match s.hostStores.find? fun x => x.host == host with
  | none => s
  | some x => if s.hostWaits x.loc then s else ({ s with hostStores := s.hostStores.erase x } : State).hostPut x.loc x.value x.clk

/-- Every buffered store of a host leaves, oldest first. -/
def State.hostFlush (s : State) (host : Nat) : Nat → State
  | 0 => s
  | n + 1 => (s.hostDrain host).hostFlush host n

/-- A device atomic on a host line without coherent host atomics is on its way (R174, R417). -/
def State.atomRace (s : State) (loc : Nat) : Bool :=
  s.farQ.any fun x => x.kind == 4 && lineOf (s.home x.loc) == lineOf (s.home loc) &&
    !bit (((smGet s.grids x.grid).map (·.word)).getD 0) 2

/-- The bytes of a line become undefined; the writes of it that an endpoint held are over (R174). -/
def State.loseLine (s : State) (loc : Nat) : State :=
  let base := lineOf (s.home loc) * 64
  let hostQ := s.hostQ.filter fun q => lineOf q.2.1 != lineOf (s.home loc)
  let ended (x : FarAcc) : FarAcc := if x.stage = 1 ∧ (hostQ.all fun q => q.1 != x.id) = true then { x with stage := 2 } else x
  ({ s with
    far := smCut s.far base 64, hostView := smCut s.hostView base 64
    hostQ := hostQ, farQ := s.farQ.map ended } : State).sweep

/-- HOST_ACCESS (R174, R187): a host processor loads (kind 0), stores into its buffer (1), lets its oldest store
leave (2), fences (3), or performs an atomic (4 + operation of R301) on a word of host memory; a write waits while an endpoint
holds a device atomic on its word, or its line is frozen, and any access while the word's new home cannot be reached. What a
load or an atomic finds goes to the outbox.
(DEDUCED, log 25) -/
def execHostAccess (host kind addr value cmp : Nat) (s : State) : Res :=
  let s := s.unfocus
  let loc := 2 ^ 59 + addr % 2 ^ 58 / 4 * 4
  let mine := s.hostStores.filter fun x => x.host == host
  let seen := match mine.reverse.find? fun x => x.loc == loc with
    | some x => x.value
    | none => s.hostGet loc
  .next (if kind = 0 then
      (if (mine.all fun x => x.loc != loc) && s.hostCut loc then s
       else { s.hostHears host loc with outbox := s.outbox ++ [(3, [host, loc, seen])] })
    else if kind = 1 then
      let x : HostStore := { host := host, loc := loc, value := value % 2 ^ 32, clk := s.order.pastOf (hostParty host) }
      { s with hostStores := s.hostStores ++ [x] }
    else if kind = 2 then s.hostDrain host
    else if mine.any fun x => s.hostWaits x.loc then s
    else
      let t := s.hostFlush host mine.length
      if kind = 3 then t
      else if s.frozen loc || s.hostCut loc || (s.atomHeld loc && !s.atomRace loc) then s
      else
        let old := t.hostGet loc
        let t := t.hostHears host loc
        let u := t.hostPut loc (atomOp (kind - 4) 0 old (value % 2 ^ 32) (cmp % 2 ^ 32)) (t.order.pastOf (hostParty host))
        let u := if t.atomRace loc then u.loseLine loc else u
        { u with outbox := u.outbox ++ [(3, [host, loc, old])] })

end Sys2Proof.Machine
end

