-- ==== Sys2Proof/Machine/Dispatch.lean ====
section
/-! DEFINITION. One arm for each constructor of `Instr`: the words of the encoding first, the steps of the machine
after them. -/

namespace Sys2Proof.Machine

def exec (i : Instr) (s : State) : Host.Outcome State Fault Refusal :=
  match i with
  | .clauseHeader wait seta setb len yld rcv => Sys2Proof.Machine.execClauseHeader wait seta setb len yld rcv s
  | .bra off g => Sys2Proof.Machine.execBra off g s
  | .bru off g => Sys2Proof.Machine.execBru off g s
  | .call off g => Sys2Proof.Machine.execCall off g s
  | .loopn sa off g => Sys2Proof.Machine.execLoopn sa off g s
  | .reform va off g => Sys2Proof.Machine.execReform va off g s
  | .callo sa ent => Sys2Proof.Machine.execCallo sa ent s
  | .waitf msk g => Sys2Proof.Machine.execWaitf msk g s
  | .waitl msk g => Sys2Proof.Machine.execWaitl msk g s
  | .ret g => Sys2Proof.Machine.execRet g s
  | .exit g => Sys2Proof.Machine.execExit g s
  | .join g => Sys2Proof.Machine.execJoin g s
  | .launch sa g => Sys2Proof.Machine.execLaunch sa g s
  | .sadd sd sa sb x => Sys2Proof.Machine.execSadd sd sa sb x s
  | .ssub sd sa sb x => Sys2Proof.Machine.execSsub sd sa sb x s
  | .sand sd sa sb x => Sys2Proof.Machine.execSand sd sa sb x s
  | .sor sd sa sb x => Sys2Proof.Machine.execSor sd sa sb x s
  | .sxor sd sa sb x => Sys2Proof.Machine.execSxor sd sa sb x s
  | .scmp sa sb u cc k => Sys2Proof.Machine.execScmp sa sb u cc k s
  | .smov sd sa => Sys2Proof.Machine.execSmov sd sa s
  | .smovi sd imm => Sys2Proof.Machine.execSmovi sd imm s
  | .smul sd sa x => Sys2Proof.Machine.execSmul sd sa x s
  | .sshl sd sa x => Sys2Proof.Machine.execSshl sd sa x s
  | .sshr sd sa x => Sys2Proof.Machine.execSshr sd sa x s
  | .sshrI32 sd sa x => Sys2Proof.Machine.execSshrI32 sd sa x s
  | .movs sd code => Sys2Proof.Machine.execMovs sd code s
  | .wrs code sa => Sys2Proof.Machine.execWrs code sa s
  | .rdlane sd va lane => Sys2Proof.Machine.execRdlane sd va lane s
  | .setpI32 pd pe va vb cc => Sys2Proof.Machine.execSetpI32 pd pe va vb cc s
  | .setpN32 pd pe va vb cc => Sys2Proof.Machine.execSetpN32 pd pe va vb cc s
  | .setpF32 pd pe va vb cc => Sys2Proof.Machine.execSetpF32 pd pe va vb cc s
  | .pand pd pa pb na nb g => Sys2Proof.Machine.execPand pd pa pb na nb g s
  | .por pd pa pb na nb g => Sys2Proof.Machine.execPor pd pa pb na nb g s
  | .pxor pd pa pb na nb g => Sys2Proof.Machine.execPxor pd pa pb na nb g s
  | .pnot pd pa na g => Sys2Proof.Machine.execPnot pd pa na g s
  | .pmov pd pa na g => Sys2Proof.Machine.execPmov pd pa na g s
  | .ppop sd pa g => Sys2Proof.Machine.execPpop sd pa g s
  | .voteAny pa pd g => Sys2Proof.Machine.execVoteAny pa pd g s
  | .voteAll pa pd g => Sys2Proof.Machine.execVoteAll pa pd g s
  | .voteBallot sd pa g => Sys2Proof.Machine.execVoteBallot sd pa g s
  | .shflIdx vd va vb g => Sys2Proof.Machine.execShflIdx vd va vb g s
  | .shflUp vd va d g => Sys2Proof.Machine.execShflUp vd va d g s
  | .shflDown vd va d g => Sys2Proof.Machine.execShflDown vd va d g s
  | .shflXor vd va m g => Sys2Proof.Machine.execShflXor vd va m g s
  | .bcast vd va sb g => Sys2Proof.Machine.execBcast vd va sb g s
  | .scan vd va excl op g => Sys2Proof.Machine.execScan vd va excl op g s
  | .segscanIncl vd va ps op g => Sys2Proof.Machine.execSegscanIncl vd va ps op g s
  | .segscanExcl vd va ps op g => Sys2Proof.Machine.execSegscanExcl vd va ps op g s
  | .red vd va op g => Sys2Proof.Machine.execRed vd va op g s
  | .glean vd pd sa g => Sys2Proof.Machine.execGlean vd pd sa g s
  | .iadd vd va vb g => Sys2Proof.Machine.execIadd vd va vb g s
  | .isub vd va vb g => Sys2Proof.Machine.execIsub vd va vb g s
  | .imul vd va vb g => Sys2Proof.Machine.execImul vd va vb g s
  | .imad vd va vb g => Sys2Proof.Machine.execImad vd va vb g s
  | .and vd va vb g => Sys2Proof.Machine.execAnd vd va vb g s
  | .or vd va vb g => Sys2Proof.Machine.execOr vd va vb g s
  | .xor vd va vb g => Sys2Proof.Machine.execXor vd va vb g s
  | .shl vd va vb g => Sys2Proof.Machine.execShl vd va vb g s
  | .shr vd va vb g => Sys2Proof.Machine.execShr vd va vb g s
  | .sar vd va vb g => Sys2Proof.Machine.execSar vd va vb g s
  | .sel vd va vb pn => Sys2Proof.Machine.execSel vd va vb pn s
  | .lea vd va vb g => Sys2Proof.Machine.execLea vd va vb g s
  | .iaddImm vd va imm g => Sys2Proof.Machine.execIaddImm vd va imm g s
  | .andImm vd va imm g => Sys2Proof.Machine.execAndImm vd va imm g s
  | .movi vd imm g => Sys2Proof.Machine.execMovi vd imm g s
  | .mov vd va g => Sys2Proof.Machine.execMov vd va g s
  | .not vd va g => Sys2Proof.Machine.execNot vd va g s
  | .iabsI32 vd va g => Sys2Proof.Machine.execIabsI32 vd va g s
  | .inegI32 vd va g => Sys2Proof.Machine.execInegI32 vd va g s
  | .popc vd va g => Sys2Proof.Machine.execPopc vd va g s
  | .clz vd va g => Sys2Proof.Machine.execClz vd va g s
  | .brev vd va g => Sys2Proof.Machine.execBrev vd va g s
  | .movSpecial vd code g => Sys2Proof.Machine.execMovSpecial vd code g s
  | .imulhI32 vd va g => Sys2Proof.Machine.execImulhI32 vd va g s
  | .imulhN32 vd va g => Sys2Proof.Machine.execImulhN32 vd va g s
  | .iminI32 vd va g => Sys2Proof.Machine.execIminI32 vd va g s
  | .iminN32 vd va g => Sys2Proof.Machine.execIminN32 vd va g s
  | .imaxI32 vd va g => Sys2Proof.Machine.execImaxI32 vd va g s
  | .imaxN32 vd va g => Sys2Proof.Machine.execImaxN32 vd va g s
  | .rotl vd va g => Sys2Proof.Machine.execRotl vd va g s
  | .bfxI32 vd va g => Sys2Proof.Machine.execBfxI32 vd va g s
  | .bfxN32 vd va g => Sys2Proof.Machine.execBfxN32 vd va g s
  | .bfi vd va g => Sys2Proof.Machine.execBfi vd va g s
  | .iaddI32Sat vd va g => Sys2Proof.Machine.execIaddI32Sat vd va g s
  | .iaddN32Sat vd va g => Sys2Proof.Machine.execIaddN32Sat vd va g s
  | .isubI32Sat vd va g => Sys2Proof.Machine.execIsubI32Sat vd va g s
  | .isubN32Sat vd va g => Sys2Proof.Machine.execIsubN32Sat vd va g s
  | .faddF32 vd va vb g => Sys2Proof.Machine.execFaddF32 vd va vb g s
  | .fsubF32 vd va vb g => Sys2Proof.Machine.execFsubF32 vd va vb g s
  | .fmulF32 vd va vb g => Sys2Proof.Machine.execFmulF32 vd va vb g s
  | .ffmaF32 vd va vb g => Sys2Proof.Machine.execFfmaF32 vd va vb g s
  | .faddF16x2 vd va vb g => Sys2Proof.Machine.execFaddF16x2 vd va vb g s
  | .fmulF16x2 vd va vb g => Sys2Proof.Machine.execFmulF16x2 vd va vb g s
  | .ffmaF16x2 vd va vb g => Sys2Proof.Machine.execFfmaF16x2 vd va vb g s
  | .faddBf16x2 vd va vb g => Sys2Proof.Machine.execFaddBf16x2 vd va vb g s
  | .fmulBf16x2 vd va vb g => Sys2Proof.Machine.execFmulBf16x2 vd va vb g s
  | .ffmaBf16x2 vd va vb g => Sys2Proof.Machine.execFfmaBf16x2 vd va vb g s
  | .frnd vd va ty g => Sys2Proof.Machine.execFrnd vd va ty g s
  | .frcp vd va ty g => Sys2Proof.Machine.execFrcp vd va ty g s
  | .frsq vd va ty g => Sys2Proof.Machine.execFrsq vd va ty g s
  | .fsqrt vd va ty g => Sys2Proof.Machine.execFsqrt vd va ty g s
  | .fexp2 vd va ty g => Sys2Proof.Machine.execFexp2 vd va ty g s
  | .flog2 vd va ty g => Sys2Proof.Machine.execFlog2 vd va ty g s
  | .fsin vd va ty g => Sys2Proof.Machine.execFsin vd va ty g s
  | .fcos vd va ty g => Sys2Proof.Machine.execFcos vd va ty g s
  | .fmin vd va ty g => Sys2Proof.Machine.execFmin vd va ty g s
  | .fmax vd va ty g => Sys2Proof.Machine.execFmax vd va ty g s
  | .fsubTwoAddress vd va ty g => Sys2Proof.Machine.execFsubTwoAddress vd va ty g s
  | .hadd vd va vb g => Sys2Proof.Machine.execHadd vd va vb g s
  | .hsub vd va vb g => Sys2Proof.Machine.execHsub vd va vb g s
  | .hmad vd va vb g => Sys2Proof.Machine.execHmad vd va vb g s
  | .hacs vd va vb g => Sys2Proof.Machine.execHacs vd va vb g s
  | .hmul vd va g => Sys2Proof.Machine.execHmul vd va g s
  | .haddsI16x2 vd va g => Sys2Proof.Machine.execHaddsI16x2 vd va g s
  | .haddsN16x2 vd va g => Sys2Proof.Machine.execHaddsN16x2 vd va g s
  | .hsubsI16x2 vd va g => Sys2Proof.Machine.execHsubsI16x2 vd va g s
  | .hsubsN16x2 vd va g => Sys2Proof.Machine.execHsubsN16x2 vd va g s
  | .hminI16x2 vd va g => Sys2Proof.Machine.execHminI16x2 vd va g s
  | .hminN16x2 vd va g => Sys2Proof.Machine.execHminN16x2 vd va g s
  | .hmaxI16x2 vd va g => Sys2Proof.Machine.execHmaxI16x2 vd va g s
  | .hmaxN16x2 vd va g => Sys2Proof.Machine.execHmaxN16x2 vd va g s
  | .hshl vd va g => Sys2Proof.Machine.execHshl vd va g s
  | .hshrN16x2 vd va g => Sys2Proof.Machine.execHshrN16x2 vd va g s
  | .hshrI16x2 vd va g => Sys2Proof.Machine.execHshrI16x2 vd va g s
  | .hsel vd va g => Sys2Proof.Machine.execHsel vd va g s
  | .hpack vd va g => Sys2Proof.Machine.execHpack vd va g s
  | .pxavg vd va g => Sys2Proof.Machine.execPxavg vd va g s
  | .pxsad vd va g => Sys2Proof.Machine.execPxsad vd va g s
  | .pxclamp vd va g => Sys2Proof.Machine.execPxclamp vd va g s
  | .pxpack vd va g => Sys2Proof.Machine.execPxpack vd va g s
  | .hunpackLoI16 vd va g => Sys2Proof.Machine.execHunpackLoI16 vd va g s
  | .hunpackHiI16 vd va g => Sys2Proof.Machine.execHunpackHiI16 vd va g s
  | .hunpackLoN16 vd va g => Sys2Proof.Machine.execHunpackLoN16 vd va g s
  | .hunpackHiN16 vd va g => Sys2Proof.Machine.execHunpackHiN16 vd va g s
  | .pxexpLo vd va g => Sys2Proof.Machine.execPxexpLo vd va g s
  | .pxexpHi vd va g => Sys2Proof.Machine.execPxexpHi vd va g s
  | .cvtSrcLow vd va dst src g => Sys2Proof.Machine.execCvtSrcLow vd va dst src g s
  | .cvtSrcHigh vd va dst src g => Sys2Proof.Machine.execCvtSrcHigh vd va dst src g s
  | .rndt vd va fmt g => Sys2Proof.Machine.execRndt vd va fmt g s
  | .cvtTrl sa sb sub fs k => Sys2Proof.Machine.execCvtTrl sa sb sub fs k s
  | .cvtChk sa sub fs k => Sys2Proof.Machine.execCvtChk sa sub fs k s
  | .dot4I8 vd va vb g => Sys2Proof.Machine.execDot4I8 vd va vb g s
  | .dot4N8 vd va vb g => Sys2Proof.Machine.execDot4N8 vd va vb g s
  | .dot8I4 vd va vb g => Sys2Proof.Machine.execDot8I4 vd va vb g s
  | .dot8N4 vd va vb g => Sys2Proof.Machine.execDot8N4 vd va vb g s
  | .dot4E4m3 vd va bs g => Sys2Proof.Machine.execDot4E4m3 vd va bs g s
  | .dot4E5m2 vd va bs g => Sys2Proof.Machine.execDot4E5m2 vd va bs g s
  | .dot8E2m1 vd va bs g => Sys2Proof.Machine.execDot8E2m1 vd va bs g s
  | .ldsB32 vd va off g => Sys2Proof.Machine.execLdsB32 vd va off g s
  | .ldsB64 vd va off g => Sys2Proof.Machine.execLdsB64 vd va off g s
  | .stsB32 vs va off g => Sys2Proof.Machine.execStsB32 vs va off g s
  | .stsB64 vs va off g => Sys2Proof.Machine.execStsB64 vs va off g s
  | .ldgB32 vd va off g => Sys2Proof.Machine.execLdgB32 vd va off g s
  | .ldgB64 vd va off g => Sys2Proof.Machine.execLdgB64 vd va off g s
  | .stgB32 vs va off g => Sys2Proof.Machine.execStgB32 vs va off g s
  | .stgB64 vs va off g => Sys2Proof.Machine.execStgB64 vs va off g s
  | .ldk vd va off g => Sys2Proof.Machine.execLdk vd va off g s
  | .stk vs va off g => Sys2Proof.Machine.execStk vs va off g s
  | .atom vd va op sp ty g => Sys2Proof.Machine.execAtom vd va op sp ty g s
  | .fld vd va cls scope fs sz => Sys2Proof.Machine.execFld vd va cls scope fs sz s
  | .fst vs va cls scope fs sz => Sys2Proof.Machine.execFst vs va cls scope fs sz s
  | .fldacq vd va cls scope fs sz => Sys2Proof.Machine.execFldacq vd va cls scope fs sz s
  | .fstrel vs va cls scope fs set => Sys2Proof.Machine.execFstrel vs va cls scope fs set s
  | .fatom vd va cls scope fs op ty => Sys2Proof.Machine.execFatom vd va cls scope fs op ty s
  | .sld sd sa imm => Sys2Proof.Machine.execSld sd sa imm s
  | .hurdleArrive va count g => Sys2Proof.Machine.execHurdleArrive va count g s
  | .hurdleWait va sb g => Sys2Proof.Machine.execHurdleWait va sb g s
  | .waitst va sb g => Sys2Proof.Machine.execWaitst va sb g s
  | .waitstGranary va sb g => Sys2Proof.Machine.execWaitstGranary va sb g s
  | .waitstFar va sb g => Sys2Proof.Machine.execWaitstFar va sb g s
  | .barb g => Sys2Proof.Machine.execBarb g s
  | .cpy sa cls scope fs => Sys2Proof.Machine.execCpy sa cls scope fs s
  | .cpyt sa cls scope fs => Sys2Proof.Machine.execCpyt sa cls scope fs s
  | .cpyq sa cls scope fs => Sys2Proof.Machine.execCpyq sa cls scope fs s
  | .land sa => Sys2Proof.Machine.execLand sa s
  | .fnc set scope => Sys2Proof.Machine.execFnc set scope s
  | .batonArm b w0 c g => Sys2Proof.Machine.execBatonArm b w0 c g s
  | .sign b g => Sys2Proof.Machine.execSign b g s
  | .cube sa mode fmt fs b => Sys2Proof.Machine.execCube sa mode fmt fs b s
  | .cubestn sa fs => Sys2Proof.Machine.execCubestn sa fs s
  | .cubestw sa fs => Sys2Proof.Machine.execCubestw sa fs s
  | .oprdy => Sys2Proof.Machine.execOprdy s
  | .accld acc va fs => Sys2Proof.Machine.execAccld acc va fs s
  | .accst acc va fs => Sys2Proof.Machine.execAccst acc va fs s
  | .accz acc fs => Sys2Proof.Machine.execAccz acc fs s
  | .stepOpen g => Sys2Proof.Machine.execStepOpen g s
  | .stepClose m fs g => Sys2Proof.Machine.execStepClose m fs g s
  | .upd sa fs g => Sys2Proof.Machine.execUpd sa fs g s
  | .merge fs g => Sys2Proof.Machine.execMerge fs g s
  | .ovldImm sa idx fs => Sys2Proof.Machine.execOvldImm sa idx fs s
  | .ovldReg sa sb fs => Sys2Proof.Machine.execOvldReg sa sb fs s
  | .ovpin sa fs => Sys2Proof.Machine.execOvpin sa fs s
  | .ovunpin sa fs => Sys2Proof.Machine.execOvunpin sa fs s
  | .ovev sa => Sys2Proof.Machine.execOvev sa s
  | .ovq sd st => Sys2Proof.Machine.execOvq sd st s
  | .svc va num g => Sys2Proof.Machine.execSvc va num g s
  | .nop g => Sys2Proof.Machine.execNop g s
  | .trap code g => Sys2Proof.Machine.execTrap code g s
  | .bkpt g => Sys2Proof.Machine.execBkpt g s
  | .eret g => Sys2Proof.Machine.execEret g s
  | .hintImm imm => Sys2Proof.Machine.execHintImm imm s
  | .hintXv mp mn rm vc zi sat => Sys2Proof.Machine.execHintXv mp mn rm vc zi sat s
  | .hintUwin k1 k2 k3 => Sys2Proof.Machine.execHintUwin k1 k2 k3 s
  | .hintSched act => Sys2Proof.Machine.execHintSched act s
  | .storeQueueDrain blk wid n => Sys2Proof.Machine.execStoreQueueDrain blk wid n s
  | .reconvergenceRelease blk wid => Sys2Proof.Machine.execReconvergenceRelease blk wid s
  | .lateLaneArrival blk wid => Sys2Proof.Machine.execLateLaneArrival blk wid s
  | .barrierOpen blk => Sys2Proof.Machine.execBarrierOpen blk s
  | .sheafIssue blk => Sys2Proof.Machine.execSheafIssue blk s
  | .sheafAgeLimit blk n => Sys2Proof.Machine.execSheafAgeLimit blk n s
  | .warpFree blk wid => Sys2Proof.Machine.execWarpFree blk wid s
  | .lineAccessPerform id => Sys2Proof.Machine.execLineAccessPerform id s
  | .farReply id => Sys2Proof.Machine.execFarReply id s
  | .farAcknowledgement id => Sys2Proof.Machine.execFarAcknowledgement id s
  | .systemTimeout kind id => Sys2Proof.Machine.execSystemTimeout kind id s
  | .copyAccept id => Sys2Proof.Machine.execCopyAccept id s
  | .copyElement ev => Sys2Proof.Machine.execCopyElement ev s
  | .copyStampWrite id => Sys2Proof.Machine.execCopyStampWrite id s
  | .overlayLoadComplete core entry => Sys2Proof.Machine.execOverlayLoadComplete core entry s
  | .cubeAccept blk b => Sys2Proof.Machine.execCubeAccept blk b s
  | .enginePass core => Sys2Proof.Machine.execEnginePass core s
  | .entryStarvation core id => Sys2Proof.Machine.execEntryStarvation core id s
  | .cubeComplete core id => Sys2Proof.Machine.execCubeComplete core id s
  | .stationLoadComplete core id => Sys2Proof.Machine.execStationLoadComplete core id s
  | .accumulatorOpComplete core id => Sys2Proof.Machine.execAccumulatorOpComplete core id s
  | .cubeHangTimeout core => Sys2Proof.Machine.execCubeHangTimeout core s
  | .updSliceApply die => Sys2Proof.Machine.execUpdSliceApply die s
  | .divergenceTrap blk wid => Sys2Proof.Machine.execDivergenceTrap blk wid s
  | .pacerBlock tensor block => Sys2Proof.Machine.execPacerBlock tensor block s
  | .svcResume blk wid => Sys2Proof.Machine.execSvcResume blk wid s
  | .gridAccept die => Sys2Proof.Machine.execGridAccept die s
  | .waitaPoll grid => Sys2Proof.Machine.execWaitaPoll grid s
  | .gridStart grid die => Sys2Proof.Machine.execGridStart grid die s
  | .blockClaim core => Sys2Proof.Machine.execBlockClaim core s
  | .claimStarvation grid die => Sys2Proof.Machine.execClaimStarvation grid die s
  | .blockAdmit core => Sys2Proof.Machine.execBlockAdmit core s
  | .quantumEnd blk => Sys2Proof.Machine.execQuantumEnd blk s
  | .idleSwap blk => Sys2Proof.Machine.execIdleSwap blk s
  | .waitingForCore blk => Sys2Proof.Machine.execWaitingForCore blk s
  | .swapOut blk ask => Sys2Proof.Machine.execSwapOut blk ask s
  | .swapIn blk core => Sys2Proof.Machine.execSwapIn blk core s
  | .gridRetire grid => Sys2Proof.Machine.execGridRetire grid s
  | .shootdownDone die => Sys2Proof.Machine.execShootdownDone die s
  | .migrationDone die mst => Sys2Proof.Machine.execMigrationDone die mst s
  | .dropNotice id => Sys2Proof.Machine.execDropNotice id s
  | .reservationWindowExpiry id => Sys2Proof.Machine.execReservationWindowExpiry id s
  | .engineInternalError core => Sys2Proof.Machine.execEngineInternalError core s
  | .stepCloseComplete => Sys2Proof.Machine.execStepCloseComplete s
  | .mergePoint => Sys2Proof.Machine.execMergePoint s
  | .segmentRecord bytes => Sys2Proof.Machine.execSegmentRecord bytes s
  | .roundManifest bytes => Sys2Proof.Machine.execRoundManifest bytes s
  | .roundAbandon => Sys2Proof.Machine.execRoundAbandon s
  | .fold => Sys2Proof.Machine.execFold s
  | .serviceCall die known answers => Sys2Proof.Machine.execServiceCall die known answers s
  | .machineCheck ev => Sys2Proof.Machine.execMachineCheck ev s
  | .shootdown die value => Sys2Proof.Machine.execShootdown die value s
  | .migration die value => Sys2Proof.Machine.execMigration die value s
  | .planeDrain die value => Sys2Proof.Machine.execPlaneDrain die value s
  | .planeMapWrite die value => Sys2Proof.Machine.execPlaneMapWrite die value s
  | .resumea die addr => Sys2Proof.Machine.execResumea die addr s
  | .gkill die gid => Sys2Proof.Machine.execGkill die gid s
  | .cubectlRst die value => Sys2Proof.Machine.execCubectlRst die value s
  | .loftQuotaWrite die idx j value => Sys2Proof.Machine.execLoftQuotaWrite die idx j value s
  | .leaderClaim die value => Sys2Proof.Machine.execLeaderClaim die value s
  | .faultRingHeadWrite die value => Sys2Proof.Machine.execFaultRingHeadWrite die value s
  | .requestRingHeadWrite die value => Sys2Proof.Machine.execRequestRingHeadWrite die value s
  | .controlRegisterWrite die off value => Sys2Proof.Machine.execControlRegisterWrite die off value s
  | .heartbeatTimeout die => Sys2Proof.Machine.execHeartbeatTimeout die s
  | .lockStepMismatch die => Sys2Proof.Machine.execLockStepMismatch die s
  | .packageReset => Sys2Proof.Machine.execPackageReset s
  | .coldBoot die => Sys2Proof.Machine.execColdBoot die s
  | .patrolScrub ev => Sys2Proof.Machine.execPatrolScrub ev s
  | .rowRepair line phase => Sys2Proof.Machine.execRowRepair line phase s
  | .supplySagTrip die => Sys2Proof.Machine.execSupplySagTrip die s
  | .supplyRecovery die => Sys2Proof.Machine.execSupplyRecovery die s
  | .dieIsolation ev => Sys2Proof.Machine.execDieIsolation ev s
  | .slowLinkDatagram kind bytes tag => Sys2Proof.Machine.execSlowLinkDatagram kind bytes tag s
  | .sessionOpen hdr cert offer => Sys2Proof.Machine.execSessionOpen hdr cert offer s
  | .sessionClose lo hi => Sys2Proof.Machine.execSessionClose lo hi s
  | .tenantSet lo hi n entry quotas => Sys2Proof.Machine.execTenantSet lo hi n entry quotas s
  | .map lo hi slot va size count tier node frame perm => Sys2Proof.Machine.execMap lo hi slot va size count tier node frame perm s
  | .unmap lo hi slot va size count => Sys2Proof.Machine.execUnmap lo hi slot va size count s
  | .islandSet lo hi isl dev => Sys2Proof.Machine.execIslandSet lo hi isl dev s
  | .hostLaunch lo hi addr tenant home => Sys2Proof.Machine.execHostLaunch lo hi addr tenant home s
  | .gridWait lo hi gid => Sys2Proof.Machine.execGridWait lo hi gid s
  | .gridKill lo hi gid => Sys2Proof.Machine.execGridKill lo hi gid s
  | .memRead lo hi slot va n => Sys2Proof.Machine.execMemRead lo hi slot va n s
  | .memWrite lo hi slot va bytes => Sys2Proof.Machine.execMemWrite lo hi slot va bytes s
  | .planeCreate lo hi tenant scale tensors groups => Sys2Proof.Machine.execPlaneCreate lo hi tenant scale tensors groups s
  | .planeDestroy lo hi => Sys2Proof.Machine.execPlaneDestroy lo hi s
  | .anchorSync lo hi mask r tensors => Sys2Proof.Machine.execAnchorSync lo hi mask r tensors s
  | .attest lo hi nonce => Sys2Proof.Machine.execAttest lo hi nonce s
  | .fwStage lo hi image => Sys2Proof.Machine.execFwStage lo hi image s
  | .fwActivate lo hi => Sys2Proof.Machine.execFwActivate lo hi s
  | .telemetry lo hi => Sys2Proof.Machine.execTelemetry lo hi s
  | .unknownCommand lo hi payload => Sys2Proof.Machine.execUnknownCommand lo hi payload s
  | .hostAccess host kind addr value cmp => Sys2Proof.Machine.execHostAccess host kind addr value cmp s
  | .switchPlaneFailure plane => Sys2Proof.Machine.execSwitchPlaneFailure plane s
  | .linkTrainingComplete stack restored => Sys2Proof.Machine.execLinkTrainingComplete stack restored s
  | .spareCoreReplacement core => Sys2Proof.Machine.execSpareCoreReplacement core s
  | .certificateRevocation ev => Sys2Proof.Machine.execCertificateRevocation ev s
  | .rpcReconnect token => Sys2Proof.Machine.execRpcReconnect token s

end Sys2Proof.Machine
end

