-- ==== Sys2Proof/Machine/Select.lean ====
section
/-! DEFINITION. Fetching and issuing a word, and the choice of warp and path for an issue slot (R37 to R44, R55,
R56, R76, R215, R217, R228, R243). -/

namespace Sys2Proof.Machine

/-! ### One word -/

/-- The focused warp with the lanes of a mask issuing. -/
def State.at (s : State) (b w mask : Nat) : State := { s.focus b w with im := mask }

/-- Issue a word at which a clause begins, and which waits for the flags of the header's WAIT mask: another path may have marked one
since the header was passed (R44, R215, R408). -/
def State.issueFirst (t : State) (i : Instr) (wait : Nat) : Res :=
  if t.accTrap wait then .next { t.takeAccTrap with stalled := false }
  else if !t.w.seen.flagsClear wait then .next { t with stalled := true }
  else exec i { t with w := t.w.closeWindows wait, order := t.flagsHeard t.issuing wait }

/-- Issue the word at the PC of the issuing path: past the overlay's end is a Loft-range trap (R76); an undefined word,
and a word after a clause that is no header, are illegal (R217, R241). -/
def State.issueWord (t : State) : Res :=
  match t.lead with
  | none => .next { t with stalled := true }
  | some l =>
    match t.fetch l.pc with
    | .absent => .next { t with stalled := true }
    | .past => .next { t.sysTrap { cause := 0x14 } with stalled := false }
    | .word w =>
      match decode w with
      | none => .next { t.sysTrap { cause := 0x10 } with stalled := false }
      | some i =>
        if l.clause.isNone && !isHeader w then .next { t.sysTrap { cause := 0x10 } with stalled := false }
        else
          match (l.clause.map (·.wait)).getD 0 with
          | 0 => exec i t
          | wait => t.issueFirst i wait

/-- The state a word leaves, and whether it issued: a word that stalls, or stops, took no effect of its own. -/
def ranWord (t : State) : State × Bool :=
  match t.issueWord with
  | .next u => ({ u with stalled := false }, !u.stalled)
  | _ => (t, false)

/-! ### The order of the warps (R55, R56, R228) -/

/-- A warp that could issue in a slot. -/
structure Cand where
  blk : Nat
  wid : Nat
  age : Nat
  slot : Nat
  /-- the lanes whose boosted target is ready -/
  boosted : Nat
  deferred : Bool
  deriving DecidableEq, Repr

/-- Lists of numbers in lexicographic order. -/
def lexLt : List Nat → List Nat → Bool
  | a :: r, b :: q => decide (a < b) || (a == b && lexLt r q)
  | _, _ => false

/-- Where a warp stands in the choice of a slot: one that holds the choice already; boosted warps first and deferred ones
last; then GTO's greedy warp and the oldest, or RR's next slot. (DEDUCED, log 8) -/
def Cand.key (c : Cand) (st : IssueState) (rr : Bool) : List Nat :=
  let hint := if c.boosted ≠ 0 then 0 else if c.deferred then 2 else 1
  let turn := if st.turn = some (c.blk, c.wid) then 0 else 1
  if rr then
    [turn, hint, (match st.last with
      | none => c.slot
      | some _ => if st.slot < c.slot then c.slot - st.slot else 256 + c.slot), 0]
  else [turn, hint, if st.standing && st.last == some (c.blk, c.wid) then 0 else 1, c.age, c.wid]

/-- Put a warp into its place. Where R55's ties run out, for warps of equal position and %warpid that REFORM has built in two
blocks of a core in one clock, the block of the lower key comes first. (DESIGN CHOICE, log 9) -/
def putCand (st : IssueState) (rr : Bool) (c : Cand) : List Cand → List Cand
  | [] => [c]
  | d :: r => if lexLt (c.key st rr) (d.key st rr) then c :: d :: r else d :: putCand st rr c r

/-- The next word of the issuing path is a hint. -/
def State.atHint (t : State) : Bool :=
  match t.fetch t.pc with
  | .word w => decide (0x70 ≤ w / 2 ^ 25) && decide (w / 2 ^ 25 ≤ 0x73)
  | _ => false

/-- The ready warps of a partition or half, unordered; a boosted one is ready to issue the target of a hint whose boost
stands (R228), and one that has yielded in this clock is none of them (R357). -/
def State.readyWarps (s : State) (core part half : Nat) : List Cand :=
  (s.warpsOn core part half).filterMap fun x =>
    let t := s.focus x.1 x.2
    let ps := t.readyPaths
    if ps.isEmpty || (s.issueOf core part half).given == some x then none
    else
      let target (p : Path) : Bool :=
        let u : State := { t with im := p.mask }
        u.hint.sched == some 1 && !u.atHint
      let hot := (ps.filter fun p => p.mask &&& t.w.boost != 0 && target p).map (·.mask)
      some { blk := x.1, wid := x.2, age := t.w.age, slot := t.w.slot, boosted := hot.foldl (· ||| ·) 0
             deferred := t.w.defer }

/-- The ready warps in the order in which the policy tries them. -/
def State.candidates (s : State) (core part half : Nat) : List Cand :=
  (s.readyWarps core part half).foldl (fun a c => putCand (s.issueOf core part half) (s.coreRR core) c a) []

/-! ### Issuing from a slot -/

/-- The path stands at a clause header, which takes no issue slot (R215). -/
def State.atHeader (t : State) : Bool :=
  match t.lead with
  | some l => l.clause.isNone
  | none => false

/-- The body word a path is about to issue, with the SETA and SETB fields of its clause. -/
def State.bodyWord (t : State) : Option (Instr × Nat × Nat) :=
  match t.lead with
  | none => none
  | some l =>
    match l.clause, t.fetch l.pc with
    | some c, .word w => (decode w).map fun i => (i, c.seta, c.setb)
    | none, .word h =>
      (match decode h, t.fetch (l.pc + 4) with
        | some (.clauseHeader _ a b _ _ _), .word w => (decode w).map fun i => (i, a, b)
        | _, _ => none)
    | _, _ => none

/-- The flag a word sets. -/
def flagSet (sh : Shape) (a b : Nat) : Option Nat :=
  match sh.fs with
  | none => none
  | some fs => if (if fs = 0 then a else b) < 12 then some (if fs = 0 then a else b) else none

/-- Two paths may issue in one clock: what R41 asks of their words. -/
def State.mayPair (t : State) (m1 m2 : Nat) : Bool :=
  let t1 : State := { t with im := m1 }
  let t2 : State := { t with im := m2 }
  match t1.bodyWord, t2.bodyWord with
  | some (i, a, b), some (j, c, d) =>
    let x := shapeOf t.W i
    let y := shapeOf t.W j
    x.cls != 1 && y.cls != 1 && !(x.cls == y.cls && x.cls != 0) &&
    ((uniR t1 x true).all fun r => !(uniR t2 y true).contains r) &&
    (match flagSet x a b, flagSet y c d with
      | some f, some g => f != g
      | _, _ => true)
  | _, _ => false

/-- The path after one in a list. -/
def pathAfter (m : Nat) : List Path → Option Path
  | [] => none
  | p :: r => if p.mask = m then r.head? else pathAfter m r

/-- The slot is in the second pass of a word (R42). -/
def State.busySlot (s : State) (sl : SlotRef) (half : Nat) : Bool :=
  decide ((s.die (coreDie sl.core)).clock < (s.issueOf sl.core sl.part half).busyTill)

/-- The lanes that slot B issues beside a path of slot A, 0 for none: those of the second path, when it is ready and R41
allows the pair. (DEDUCED, log 7) -/
def State.partner (t : State) (m : Nat) : Nat :=
  if t.W = 16 ∨ t.busySlot ⟨t.core, t.w.part, 1⟩ 1 = true then 0
  else
    match pathAfter m t.w.paths with
    | none => 0
    | some p => if t.readyPaths.contains p && t.mayPair m p.mask then p.mask else 0

/-- The live lanes of a warp that are in the handler. -/
def Warp.handling (w : Warp) : Nat := maskOf (w.lanes.filter fun l => l.live && l.h)

/-- What stands at this clock, as slot B's word is to read it (R243). -/
def State.viewNow (s : State) : View :=
  { s := s.w.s, flags := s.w.flags, handling := s.w.handling, dthr := s.dthrs }

/-- Slot A is about to issue a word of path `m`. Where slot B issues beside it, its path passes its clause header in this
clock, and what its word is to read is kept (R41, R215, R243). A header of slot B does not yield. -/
def State.beside (s : State) (m : Nat) : State :=
  let p := s.partner m
  if p = 0 ∨ s.atHeader = true then s
  else
    let t : State := { s with im := p, w := { s.w with second := p, view := some s.viewNow } }
    let u := if t.atHeader then (ranWord t).1 else t
    if u.atHeader then s else { u with im := m }

/-- A warp gave the slot away at its clause header (R56). -/
def State.gaveWay (t s : State) : Bool :=
  (t.issueOf t.core t.w.part t.w.half).given.isSome && (s.issueOf t.core t.w.part t.w.half).given.isNone

/-- Try ready paths in order (R38, R41): the state, and the mask of the one that issued. (DEDUCED, log 7) -/
def State.tryPaths (s : State) (b w : Nat) : List Path → State × Option Nat
  | [] => (s, none)
  | p :: r =>
    match ranWord (s.at b w p.mask) with
    | (_, true) => ((ranWord ((s.at b w p.mask).beside p.mask)).1, some p.mask)
    | (t, false) => if t.gaveWay s then (t.unfocus, none) else t.unfocus.tryPaths b w r

/-- Try warps in order: the state, and the block, warp and mask that issued. -/
def State.tryWarps (s : State) : List Cand → State × Option (Nat × Nat × Nat)
  | [] => (s, none)
  | c :: r =>
    match s.tryPaths c.blk c.wid (s.focus c.blk c.wid).readyPaths with
    | (t, some m) => (t, some (c.blk, c.wid, m))
    | (t, none) => t.tryWarps r

/-- An instruction takes two passes (R42). -/
def twoPass (m : Nat) : Bool := m % 2 ^ 32 != 0 && m / 2 ^ 32 != 0

/-- The clock before which the slot takes nothing new once the issuing path's word has issued at `clk`: a hint takes one
clock, whatever the lanes (R42, R353). -/
def State.slotTill (t : State) (clk : Nat) : Nat := if twoPass t.im && !t.atHint then clk + 2 else 0

/-- The hints of a choice are used up by it: a boost whose target is ready, and the deferral of every warp of the
partition or half (R228); a header that is passed is no choice. (DEDUCED, log 8) -/
def State.useHints (s : State) (all : List (Nat × Nat)) : List Cand → State
  | [] => all.foldl (fun s x => s.modWarp x.1 x.2 fun w => { w with defer := false }) s
  | c :: r =>
    (if c.boosted = 0 then s
      else s.modWarp c.blk c.wid fun w => { w with boost := offMask w.boost c.boosted }).useHints all r

/-- The hints that stood in a state stand: no word has issued that would have used them up (R228). -/
def State.keepHints (t s : State) (all : List (Nat × Nat)) : State :=
  all.foldl (fun t x => match s.warp? x.1 x.2 with
    | some o => t.modWarp x.1 x.2 fun w => { w with boost := o.boost, defer := o.defer }
    | none => t) t

/-- No word has issued from a slot in this clock; a trap that a header or a fetch took in it stays noted (R341). -/
def State.passSlot (s : State) (core part half : Nat) : State :=
  { s with issue := smMod s.issue (issueKey core part half) fun x =>
      { x with turn := none, given := none, trapped := x.turn.isSome && x.trapped } }

/-- A word ended in a trap: of the system (R345), or into the handler (R341). -/
def tookTrap (s t : State) : Bool :=
  decide (s.blk.held.length < t.blk.held.length) || (s.w.lanes.zip t.w.lanes).any fun x => x.2.h && !x.1.h

/-- Slot A of the partition took a trap in this clock, so that a trap of slot B waits (R341). -/
def State.trapWaits (s : State) (sl : SlotRef) (half : Nat) (before after : State) : Bool :=
  half == 1 && (s.issueOf sl.core sl.part 0).trapped && tookTrap before after

/-- Offer a slot to the warps of a partition, or of a half at W = 16. A clause header leaves the slot free, and its warp
holds the choice; another word takes it, and in slot A it fixes what slot B issues (R41, R55, R215). -/
def State.offer (s : State) (sl : SlotRef) (half : Nat) : State :=
  if s.busySlot sl half then s
  else
    let cs := s.candidates sl.core sl.part half
    let idle := s.unfocus.passSlot sl.core sl.part half
    if cs.isEmpty then idle
    else
      let all := s.warpsOn sl.core sl.part half
      match (s.useHints all cs).tryWarps cs with
      | (t, none) => (t.unfocus.keepHints s all).passSlot sl.core sl.part half
      | (t, some (b, w, m)) =>
        let before := s.at b w m
        let old := s.issueOf sl.core sl.part half
        let trapped := (old.turn.isSome && old.trapped) || tookTrap before t
        let clk := (s.die (coreDie sl.core)).clock
        let hit := some (b, clk)
        if s.trapWaits sl half before t then idle
        else if before.atHeader then
          let t := t.unfocus.keepHints s all
          let u := t.setIssue sl.core sl.part half
            { t.issueOf sl.core sl.part half with turn := some (b, w), trapped := trapped, hit := hit }
          { u with slots := sl :: u.slots }
        else
          let st : IssueState :=
            { last := some (b, w), slot := before.w.slot, standing := !t.w.defer, turn := none, given := none
              trapped := trapped, busyTill := before.slotTill clk, hit := hit }
          (t.setIssue sl.core sl.part half st).unfocus

/-- The second path of the warp that issued in slot A issues in slot B, and reads what stood before slot A's word
(R41, R243). Where slot A's word trapped, a trap of this one is not taken (R341). A word that a hint defers takes the
greedy standing of its warp with it (R228). -/
def State.offerSecond (s : State) (sl : SlotRef) : State :=
  match (s.issueOf sl.core sl.part 0).last with
  | none => s
  | some (b, w) =>
    let t := s.focus b w
    let m := t.w.second
    let done (x : State) : State := (x.modWarp b w fun y => { y with second := 0, view := none }).unfocus
    if m = 0 then done t
    else
      let before : State := { t with im := m }
      match ranWord before with
      | (u, false) => done u
      | (u, true) =>
        if s.trapWaits sl 1 before u then done t
        else
          let clk := (s.die (coreDie sl.core)).clock
          let a := s.issueOf sl.core sl.part 0
          let st : IssueState :=
            { s.issueOf sl.core sl.part 1 with busyTill := before.slotTill clk, hit := some (b, clk) }
          let v := u.setIssue sl.core sl.part 1 st
          done (if before.hint.sched = some 2 then v.setIssue sl.core sl.part 0 { a with standing := false } else v)

/-- The warps of a partition are 16 lanes wide (R18, R43). -/
def State.narrow (s : State) (core : Nat) : Bool :=
  s.blocks.any fun b => s.runsOn b.2 core && (s.pktOf b.2).wc == 0

/-- Use one issue slot: at W = 16 each slot serves a half, otherwise slot A the partition and slot B the second path. -/
def State.issueSlot (s : State) (sl : SlotRef) : State :=
  let s := s.unfocus
  if s.narrow sl.core then s.offer sl sl.slot
  else if sl.slot = 0 then s.offer sl 0
  else s.offerSecond sl

end Sys2Proof.Machine
end

