-- ==== Sys2Proof/Machine/Clock.lean ====
section
/-! DEFINITION. A tick: the clocks, what a clock brings about by itself, and the events and issue slots of the clock
(R47, R63, R129, R388, R391, R392, R425). Which of several enabled events comes first, and how soon, the manual leaves
open; the order here is the model's own. -/

namespace Sys2Proof.Machine

/-! ### What a clock notes -/

/-- A lane that has reached a header whose RCV bit is set, with a lane of its warp behind (R47). It is asked at every tick,
for a lane that stands there still, held by the WAIT mask or just released, waits again when another comes to stand
behind. (DEDUCED, log 7) -/
def State.reaches (t : State) (l : Lane) : Bool :=
  l.onPath && !t.w.calling l && l.clause.isNone && t.w.anyBehind l.depth l.pc &&
  (match t.fetch l.pc with
    | .word w => (match decode w with
        | some (.clauseHeader _ _ _ _ _ rcv) => rcv == 1
        | _ => false)
    | _ => false)

/-- Lanes that have reached such a header wait there. -/
def State.waitAtMarkers (s : State) : List (Nat × Nat) → State
  | [] => s
  | (b, w) :: r =>
    let t := s.focus b w
    let hold (l : Lane) : Lane := if t.reaches l then { l with st := .waiting } else l
    (if t.quiet then t else t.mapLanes hold).unfocus.waitAtMarkers r

/-- Every resident warp. -/
def State.allWarps (s : State) : List (Nat × Nat) :=
  s.blocks.flatMap fun b => if b.2.core.isSome then b.2.warps.map fun w => (b.1, w.1) else []

/-- Since when each entry of a core's engine has been eligible (R408). -/
def State.noteEligible (s : State) (core : Nat) : State :=
  let clk := (s.die (coreDie core)).clock
  let ids := (s.eligible core).map (·.id)
  let mark (e : EngineEntry) : EngineEntry :=
    { e with eligSince := if ids.contains e.id then some (e.eligSince.getD clk) else none }
  { s with engines := smMod s.engines core fun t => t.map mark }

/-- A word of the block has issued at a clock or later. -/
def State.issuedSince (s : State) (k clk : Nat) : Bool :=
  s.issue.any fun x => match x.2.hit with
    | some h => h.1 == k && decide (clk ≤ h.2)
    | none => false

/-- Since when each resident block has been idle without a break (R388). -/
def State.noteIdle (s : State) : State :=
  let mark (k : Nat) (b : Block) : Block :=
    if b.core.isSome && s.isIdle k b then
      { b with idleSince := some ((b.idleSince.filter (!s.issuedSince k ·)).getD (s.die (coreDie b.onCore)).clock) }
    else { b with idleSince := none }
  { s with blocks := s.blocks.map fun b => (b.1, mark b.1 b.2) }

/-- A line access leaves its unit: nothing holds it back but a dead plane, and the accesses that go before it to its target in its
plane have left (R164, R392, R409). -/
def State.leaves (s : State) (x : FarAcc) : Bool :=
  x.stage == 0 && x.born.isNone && !s.barred (coreDie x.core) x.loc &&
  (s.farQ.all fun y => !x.heldBy y && !(x.inLine y && y.stage == 0 && y.born.isNone)) && s.mayRelease x

/-- Note when line accesses leave, the first of them first. -/
def State.noteBorn (s : State) : State :=
  (s.farQ.map (·.id)).foldl (fun s id =>
    match s.farQ.find? fun x => x.id == id with
    | some x => if s.leaves x then s.modAcc id fun y => { y with born := some (s.die (coreDie x.core)).ref } else s
    | none => s) s

/-- Note the accesses of the plane engines, the controllers of grids and of packets, the copies and the overlay loads that have
left and go unanswered (R162, R392). -/
def State.noteDead (s : State) : State :=
  if !s.anyDead then s
  else
    { s with
      session := s.session.map s.noteEngines
      grids := s.grids.map fun g => (g.1, s.noteGrid g.2)
      copies := s.copies.map fun (c : Copy) => { c with deadSince := s.noteSent c.deadSince c.die 0 (s.copyDead c) }
      inbound := s.inbound.map fun (i : Inbound) =>
        if s.judged i then { i with deadSince := s.noteSent i.deadSince i.die 0 (s.launchDead i) } else i
      loft := s.loft.map fun e =>
        let d := coreDie (e.1 / 256)
        (e.1, { e.2 with deadSince := s.noteSent e.2.deadSince d 0 (s.overlayDead d e.2) }) }

/-- The leader writes HBEAT of every live die, at least once per millisecond (R413). -/
def State.beat (s : State) : State :=
  let due (d : Die) : Bool := !d.isolated && decide (d.beatSince + 1200000 ≤ d.ref)
  if s.leader.isSome then
    { s with dies := s.dies.map fun d =>
        if due d then { d.ctlSet 0xB4 (w32 (d.ctlNat 0xB4 + 1)) with beatSince := d.ref } else d }
  else s

/-! ### Events that can happen by themselves -/

/-- Of a warp. -/
def warpEvents (b : Nat) (w : Nat × Warp) : List Instr :=
  (w.2.gloads.map fun _ => .storeQueueDrain b w.1 w.2.queue.length) ++
  (if w.2.queue.isEmpty then [] else [.storeQueueDrain b w.1 0]) ++
  (if w.2.lanes.any (·.st == .late) then [.lateLaneArrival b w.1] else []) ++
  (if w.2.divPend then [.divergenceTrap b w.1] else []) ++
  (if w.2.parked.isSome then [.svcResume b w.1] else []) ++
  (if w.2.over then [.warpFree b w.1] else [])

/-- The release of a warp's waiting lanes: after all that may put lanes at the marker in this clock (R47). -/
def markerEvents (b : Nat) (k : Block) : List Instr :=
  k.warps.flatMap fun w => if w.2.lanes.any (·.st == .waiting) then [.reconvergenceRelease b w.1] else []

/-- Of a block. -/
def blockEvents (k : Nat) (b : Block) : List Instr :=
  b.warps.flatMap (warpEvents k) ++
  (if b.warps.any fun w => w.2.lanes.any (·.arrived.isSome) then [.barrierOpen k] else []) ++
  (List.range b.sheaves.length).map (.sheafAgeLimit k ·) ++ b.sheaves.map (fun _ => .sheafIssue k) ++
  (b.batons.filterMap fun x => if x.2.agreed then some (.cubeAccept k x.1) else none)

/-- Of the far path and the copies. -/
def State.farEvents (s : State) : List Instr :=
  (s.farQ.map fun x => .lineAccessPerform x.id) ++
  ((s.hostQ.map (·.1)).eraseDups.map .lineAccessPerform) ++
  (s.farQ.flatMap fun x => if x.kind = 2 ∨ x.kind = 3 then [.farAcknowledgement x.id] else [.farReply x.id]) ++
  (s.copies.flatMap fun c => if c.accepted then
      [.copyElement (2 ^ 64 * c.id)] ++ ((List.range c.out.length).map fun k => .copyElement (2 ^ 64 * c.id + (c.out.length - k))) ++
        [.copyStampWrite c.id]
    else [.copyAccept c.id])

/-- Of the engines of a core. -/
def engineEvents (t : Nat × List EngineEntry) : List Instr :=
  t.2.map (fun e => .entryStarvation t.1 e.id) ++ [.enginePass t.1] ++
  (t.2.map fun e => if e.op.isCube then .cubeComplete t.1 e.id
    else if e.op.loads then .stationLoadComplete t.1 e.id else .accumulatorOpComplete t.1 e.id) ++ [.cubeHangTimeout t.1]

/-- The first block of a tensor that the Pacer has not sent. -/
def nextSend (rd : Round) (t : Nat × Tensor) : List Instr :=
  match (List.range ((t.2.nel + 31) / 32)).find? fun b => !rd.sent.contains (t.1, b) with
  | some b => if bit rd.mask t.2.grp then [.pacerBlock t.1 b] else []
  | none => []

/-- Of the planes. -/
def State.planeEvents (s : State) : List Instr :=
  match s.session with
  | none => []
  | some x =>
    (if x.upds.isEmpty then [] else (List.range 4).map .updSliceApply) ++
    (if x.ops.isEmpty then [] else [.stepCloseComplete, .mergePoint]) ++
    (match x.round with
      | some rd => x.valid.flatMap (nextSend rd) ++ [.fold, .roundAbandon]
      | none => [])

/-- Of the launch controllers and of scheduling. -/
def State.gridEvents (s : State) : List Instr :=
  (s.inbound.map fun i => .gridAccept i.die) ++
  (s.grids.flatMap fun g =>
    (if g.2.depOk then [] else [.waitaPoll g.1]) ++ ((List.range 4).map (.gridStart g.1 ·)) ++
    g.2.skipSince.map (fun x => .claimStarvation g.1 x.1)) ++
  (if s.grids.isEmpty then []
   else (List.range 192).flatMap fun c => if (s.startQueue c).isEmpty then [.blockClaim c] else [.blockAdmit c]) ++
  (s.blocks.map fun b => .quantumEnd b.1) ++
  (s.blocks.flatMap fun b =>
    if b.2.core.isSome then [.idleSwap b.1, .swapOut b.1 0]
    else [.waitingForCore b.1] ++ (List.range 48).map fun i => .swapIn b.1 (48 * b.2.homeDie + i)) ++
  (s.grids.map fun g => .gridRetire g.1)

/-- Of the control space, and the timeouts. -/
def State.controlEvents (s : State) : List Instr :=
  ((List.range 4).filter fun d => (s.die d).shooting).map .shootdownDone ++
  (s.moves.flatMap fun m =>
    if m.die < 4 ∧ m.ended = false then
      let k := ((List.range (m.gone.length + 1)).find? fun k => !m.gone.contains k).getD 0
      [.migrationDone m.die (256 + 2 * k), .migrationDone m.die (257 + 2 * k), .migrationDone m.die 0] ++
        (if s.badAt m k then [.migrationDone m.die 2] else [])
    else []) ++
  (s.farQ.filterMap fun x => if s.accLate x then some (.systemTimeout 0 x.id) else none) ++
  (s.copies.filterMap fun c => if s.copyLate c then some (.systemTimeout 1 c.id) else none) ++
  (match s.session with
    | some x => x.deadSince.filterMap fun d => if s.timeUp (d.1 / 4) d.2.since then some (.systemTimeout 2 d.1) else none
    | none => []) ++
  (s.grids.flatMap fun g => g.2.deadSince.filterMap fun d =>
    if s.timeUp d.1 d.2.since then some (.systemTimeout 3 (4 * g.1 + d.1)) else none) ++
  (s.inbound.filterMap fun i => if s.sentLate i.die i.deadSince then some (.systemTimeout 4 i.die) else none) ++
  s.loft.filterMap fun e => if s.sentLate (coreDie (e.1 / 256)) e.2.deadSince then some (.systemTimeout 5 e.1) else none

/-- The events of a clock: each is tried once, and one that is not enabled changes nothing. (DESIGN CHOICE, log 1) -/
def State.autoEvents (s : State) : List Instr :=
  (s.blocks.flatMap fun b => blockEvents b.1 b.2) ++ s.farEvents ++
  (s.loft.filterMap fun e => if e.2.st == .loading then some (.overlayLoadComplete (e.1 / 256) (e.1 % 256)) else none) ++
  s.engines.flatMap engineEvents ++ s.planeEvents ++ s.gridEvents ++ s.controlEvents ++
  s.blocks.flatMap fun b => markerEvents b.1 b.2

/-- The issue slots of a clock, of the dies whose clock has moved: slot A and slot B of every partition of a core with
a resident block, by core number, the order in which UPDs of one clock are taken (R334). -/
def State.clockSlots (s : State) (moved : Nat → Bool) : List SlotRef :=
  let busy := s.blocks.flatMap fun b =>
    match b.2.core with
    | some c => (s.pktOf b.2).cores c
    | none => []
  let cores := (List.range 192).filter busy.contains
  (cores.filter fun c => moved (coreDie c)).flatMap fun c =>
    (List.range 6).flatMap fun p => [⟨c, p, 0⟩, ⟨c, p, 1⟩]

/-- One tick of the reference clock. (DESIGN CHOICE, log 1) -/
def State.tick (s : State) : State :=
  let s := s.unfocus
  let s1 : State := { s with dies := s.dies.map Die.tick }
  let moved (d : Nat) : Bool := decide ((s.die d).clock < (s1.die d).clock)
  let s2 := (s1.waitAtMarkers s1.allWarps).noteBorn.noteDead.beat
  let s3 := (s2.engines.map (·.1)).foldl (fun s c => s.noteEligible c) s2
  let s4 := ((List.range 4).foldl (fun s d => s.showQuiet d) s3.noteIdle).shrinkStep.dropOver
  let s4 := (List.range 4).foldl (fun s d => if (s.die d).backlog.isEmpty then s else s.flushDie d) s4
  { s4 with agenda := s4.autoEvents, slots := s4.clockSlots moved }

end Sys2Proof.Machine
end

