-- ==== Sys2Proof/Machine/Place.lean ====
section
/-! DEFINITION. A word put where the next step issues it: on core 0, with a grid of one block of one warp that has code
for it. This stands for everything between reset and a kernel's first word: boot, host commands, launch, admission. -/

namespace Sys2Proof.Machine

/-- The number of the grid: no %gridid has it. -/
def placeGrid : Nat := 2 ^ 32

/-- A packet of one block of 32 threads, with every resource at its limit (R373). -/
def placePacket : Packet :=
  { Packet.zero with
    gx := 1, gy := 1, gz := 1, t := 32, wc := 1, vp := 128, ub := 1024, shk := 512, acc := 192, z := 8, spl := 64
    chunk := 1, diem := 1 }

/-- The grid, which runs on die 0. -/
def placedGrid : Grid :=
  { id := placeGrid, home := 0, parent := none, depth := 0, prio := 0, tenant := 0, packet := placePacket, miss := 0
    kernel := 0, dir := [⟨0, 0, 0, 0⟩], safe := [], live := [], joined := false, session := none, word := 0x3F
    depOk := true, dies := [⟨0, 0, []⟩], counter := 1, blocksEnded := 0, children := 0, skipSince := [], barring := []
    deadSince := [], ended := false, order := 0, hostOut := [] }

/-- An empty clause header: LEN 0, no flags. -/
def plainHeader : Nat := 0xF000FF00

/-- The grid's base overlay on core 0: a header, the word, and a header. -/
def placedCode (w : Nat) : LoftEntry :=
  { tenant := 0, hash := 0, ovx := 0, gen := 0, st := .resident, grid := placeGrid, cont := 0, dirE := ⟨0, 0, 0, 0⟩
    words := [plainHeader, w, plainHeader, 0xCE000000], entries := [0], safe := [], slots := 1, lastCall := 0, evictMark := false
    base := [placeGrid], waiters := [], forced := false, due := none, deadSince := none, clk := [] }

/-- A lane that stands at the word: in a clause whose last word it is, with flags 0 and 1 as SETA and SETB; a hint has
its target still to come; a header stands between clauses. -/
def placedLane (w i : Nat) : Lane :=
  { id := i, tid := i, st := .runnable, pc := 4, depth := 0, chain := [], v := [], p := 0, h := false, arr := 0xFFF
    lateMask := 0, arrived := none, join := none, spill := []
    clause := if isHeader w then none else some ⟨0, 1, if 0x70 ≤ w / 2 ^ 25 then 2 else 1, 0⟩
    hint := {}
    yielded := false }

/-- The warp. -/
def placedWarp (w : Nat) : Warp :=
  { Warp.empty with budget := 128, lanes := (List.range 32).map (placedLane w) }

/-- The block, resident on core 0. -/
def placedBlock (w : Nat) : Block :=
  { Block.empty with grid := placeGrid, core := some 0, warps := [(0, placedWarp w)] }

/-- The word stands where slot A of partition 0 of core 0, the next slot, takes it. (DESIGN CHOICE, log 2) -/
def State.place (s : State) (w : Nat) : State :=
  let t := s.unfocus
  { t with
    agenda := [], slots := [⟨0, 0, 0⟩]
    blocks := smSet t.blocks 0 (placedBlock w), grids := smSet t.grids placeGrid placedGrid
    loft := smSet t.loft 0 (placedCode w) }

end Sys2Proof.Machine
end

