-- ==== Sys2Proof/Machine/Step.lean ====
section
/-! DEFINITION. The step of the package. -/

namespace Sys2Proof.Machine

/-- One step: the next event of the agenda, or else the next issue slot of this clock, or else the next tick. -/
def step (s : State) : Host.Outcome State Fault Refusal :=
  match s.agenda with
  | e :: r => exec e { s with agenda := r }
  | [] =>
    match s.slots with
    | sl :: r => .next (State.issueSlot { s with slots := r } sl)
    | [] => .next s.tick

/-- The state with a word of `nbits` bits where the next step issues it. -/
def State.withFetchWord (s : State) (nbits w : Nat) : State := s.place (w % 2 ^ nbits % 2 ^ 32)

end Sys2Proof.Machine
end

