-- ==== Sys2Proof/Safety.lean ====
section
/-! DEFINITION. The terms of the claims: what a safe run is, when a word may issue, what a word leaves as it was. -/

namespace Sys2Proof.Machine

/-! ### Safe states and safe steps -/

/-- The agenda holds steps of the machine only: a word enters through an issue slot, never through the agenda. -/
def State.agendaOk (s : State) : Prop := ∀ e ∈ s.agenda, encode e = none

/-- What every step keeps: the agenda holds steps of the machine, the memories are in canonical form, the package has
four dies, and blocks, warps, grids, engines and start queues stand under rising keys. -/
structure State.Sound (s : State) : Prop where
  agenda : s.agendaOk
  memory : Memory.wf s.far = true ∧ Memory.wf s.hostView = true ∧ ∀ d ∈ s.dies, Memory.wf d.granary = true
  dies : s.dies.length = 4
  blocks : smWf s.blocks = true ∧ smWf s.blk.warps = true ∧ ∀ b ∈ s.blocks, smWf b.2.warps = true
  grids : smWf s.grids = true
  engines : smWf s.engines = true ∧ ∀ d ∈ s.dies, smWf d.startQ = true

/-- A step that goes on. -/
def Goes (r : Res) : Prop := ∃ t, r = .next t

/-- A step that goes on, to a state of which `P` holds. -/
def Gives (r : Res) (P : State → Prop) : Prop := ∃ t, r = .next t ∧ P t

/-! ### What stays as it was -/

/-- Everything outside the issuing warp and its block, but for the counters of free values and of numbers and the model's own
record of the order of accesses. -/
def State.others (s : State) : State :=
  { s with w := Warp.empty, blk := Block.empty, fresh := 0, serial := 0, stalled := false, order := {} }

/-- The issuing warp without its lanes, its uniform registers, its interlocks and its scheduling marks. -/
def Warp.rest (w : Warp) : Warp := { w with lanes := [], s := [], locks := [], boost := 0, defer := false }

/-- A lane without its registers, its PC, its clause and its hint run. -/
def Lane.rest (l : Lane) : Lane := { l with v := [], p := 0, pc := 0, clause := none, hint := {} }

/-- A block without what a write into a window of R124 makes undefined. -/
def Block.rest (b : Block) : Block := { b with spoiled := [], tiles := [] }

/-- A uniform register as stored. -/
def Warp.sraw (w : Warp) (n : Nat) : Word := (smGet w.s n).getD 0

/-- No byte of any memory reads differently: far memory as the island and as the hosts see it, the Granaries, the
block's shared memory, the spill windows of the warp. -/
def State.sameMem (s t : State) : Prop :=
  (∀ a, t.farByte a = s.farByte a) ∧ (∀ a, memByte t.hostView hostTag a = memByte s.hostView hostTag a) ∧
  ∀ sp a, t.rawByte sp a = s.rawByte sp a

/-- A lane keeps everything but its PC, its clause and hint run, the vector registers `vs` and the predicates `ps`. -/
def Lane.keeps (l m : Lane) (vs ps : List Nat) : Prop :=
  m.rest = l.rest ∧ (∀ n, n ∉ vs → m.vraw n = l.vraw n) ∧ ∀ n, n ∉ ps → m.pget n = l.pget n

/-- Lane by lane: an issuing lane changes as `P` says, any other not at all. -/
def LaneStep (s t : State) (P : Lane → Lane → Prop) : Prop :=
  t.w.lanes.length = s.w.lanes.length ∧
  ∀ (k : Nat) (l m : Lane), s.w.lanes[k]? = some l → t.w.lanes[k]? = some m → if s.issues l then P l m else m = l

/-- What a word of registers leaves: uniform registers `u` are written, the lanes change as `P` says, the block is `b`
(but for what a write into a window of R124 makes undefined), and nothing else changes. -/
structure RegStep (s t : State) (b : Block) (u : List (Nat × Word)) (P : Lane → Lane → Prop) : Prop where
  others : t.others = s.others
  serial : t.serial = s.serial
  memory : s.sameMem t
  block : t.blk.rest = b.rest
  whole : s.w.windows = [] → t.blk = b
  warp : t.w.rest = s.w.rest
  uniform : ∀ n, t.w.sraw n = (u.lookup n).getD (s.w.sraw n)
  lanes : LaneStep s t P

/-! ### What an issuing lane does -/

/-- It goes on to the next word with its registers as they were. -/
def Lane.went (l m : Lane) : Prop := m.pc = l.pc + 4 ∧ l.keeps m [] []

/-- It goes on, and vector registers `ds` are written as R244 gives: the values `f` in an active lane; with ZI zero in
another; otherwise the old ones. A register that a window of R124 covers may hold anything. -/
def State.wroteV (s : State) (g : Nat) (ds : List Nat) (f : Lane → List Word) (l m : Lane) : Prop :=
  m.pc = l.pc + 4 ∧ l.keeps m ds [] ∧
  ∀ x ∈ ds.zip (if s.active g l then f l else if s.zi then ds.map fun _ => 0 else ds.map l.vraw),
    (s.w.windows.any fun y => y.covers l.id x.1) = false → m.vraw x.1 = x.2

/-- It goes on, and predicates are written as R244 gives; a write to p0 is discarded (R59). -/
def State.wroteP (s : State) (g : Nat) (fs : List (Nat × (Lane → Bool))) (l m : Lane) : Prop :=
  m.pc = l.pc + 4 ∧ l.keeps m [] (fs.map (·.1)) ∧
  ∀ x ∈ fs, m.pget x.1 = if x.1 = 0 then true else if s.active g l then x.2 l else if s.zi then false else l.pget x.1

/-! ### Results of words -/

/-- A word that passes its shared checks completes with vector registers `ds` written. -/
def State.vec (s : State) (i : Instr) (g : Nat) (ds : List Nat) (f : Lane → List Word) : Prop :=
  Ready i s → Gives (exec i s) fun t => RegStep s t s.blk [] (s.wroteV g ds f)

/-- The focused block after an issue that takes generator words (R107). -/
def State.drawn (s : State) : Block :=
  { s.blk with seqs := smSet s.blk.seqs s.w.wid (w32 (s.seq + 1)) }

/-- A word of floats completes with `ds` written; under SR it draws words (R107, R272). -/
def State.vecF (s : State) (i : Instr) (g : Nat) (ds : List Nat) (f : Lane → List Word) : Prop :=
  Ready i s → Gives (exec i s) fun t =>
    RegStep s t (if s.rm = 5 then s.drawn else s.blk) [] (s.wroteV g ds f)

/-- A word completes with uniform registers written, and nothing else but the lanes going on. -/
def State.uni (s : State) (i : Instr) (u : List (Nat × Word)) : Prop :=
  Ready i s → Gives (exec i s) fun t => RegStep s t s.blk u Lane.went

/-- A word completes with predicates written. -/
def State.pred (s : State) (i : Instr) (g : Nat) (fs : List (Nat × (Lane → Bool))) : Prop :=
  Ready i s → Gives (exec i s) fun t => RegStep s t s.blk [] (s.wroteP g fs)

/-- A word completes, the issuing lanes change as `P` says, and nothing else changes. -/
def State.lanesOnly (s : State) (i : Instr) (P : Lane → Lane → Prop) : Prop :=
  Ready i s → Gives (exec i s) fun t => RegStep s t s.blk [] P

/-- A step takes a trap to system software: the block is held with it, the issuing path stands at its resumption point,
and nothing else has taken effect (R345, R346). -/
def Traps (s : State) (x : TrapInfo) (r : Res) : Prop :=
  Gives r fun t => t.others = s.others ∧ t.w.rest = s.w.rest ∧ t.w.s = s.w.s ∧ s.sameMem t ∧
    (∃ h : Held, h.cause = x.cause ∧ h.detail = x.detail ∧ h.reason = x.reason ∧ h.wid = s.w.wid ∧
      h.mask = x.mask.getD s.im ∧ h.addr = x.addr ∧ h.loc = x.loc ∧ h.recorded = false ∧ h.pc = t.pc ∧
      t.blk = { s.blk with held := s.blk.held ++ [h] }) ∧
    LaneStep s t fun l m => m = l.rewind

/-- The first condition of a list that fails gives its trap at the word `i`; where all of them hold, `P`. -/
def State.checked (s : State) (i : Instr) : List (Prop × TrapInfo) → Prop → Prop
  | [], P => P
  | (c, x) :: r, P => (¬ c → Traps s x (exec i s)) ∧ (c → s.checked i r P)

/-- A lane stands where it stood, its registers as they were but where a window of R124 covers them. -/
def State.stood (s : State) (l m : Lane) : Prop :=
  m.rest = l.rest ∧ m.pc = l.pc ∧ m.p = l.p ∧ ∀ n, (s.w.windows.any fun y => y.covers l.id n) = false → m.vraw n = l.vraw n

/-- A step reads an uncorrectable error of shared memory: its word has no effect, and the machine check of its block comes next
(R399). -/
def MachineChecks (s : State) (r : Res) : Prop :=
  Gives r fun t => RegStep { s with agenda := .machineCheck (2 ^ 33 * s.blk.key) :: s.agenda } t s.blk [] s.stood

/-- A step stalls: the word issues again later, and nothing of it has taken effect. -/
def Stalls (s : State) (r : Res) : Prop := r = .next { s with stalled := true }

end Sys2Proof.Machine
end

