-- ==== Sys2Proof/Certificates/Slice0/Obligations.lean ====
section
/-! DEFINITION. The statements about this model: encodings, single words, the events of the machine, whole-machine rules. -/

open Sys2Proof Sys2Proof.Machine

/-- R244, R274: the vector words of three registers: what each writes to its destination in the active lanes, for every
operand, with the immediate of HINT.IMM in place of vb where one is given, and that nothing else changes. R276: the
unary and two-address words of the integer family. R277, bit by bit: BFX moves the field of n bits at p down, and fills
with zeros or with copies of the field's top bit, where bits above 31 read 0 or bit 31; BFI puts the low bits of `a`
into the field at p, and keeps the rest. -/
def Obligations.IntegerWords : Prop :=
  (∀ (s : State) (vd va vb g : Nat),
  s.vec (.iadd vd va vb g) g [vd] (fun l => [s.vget l va + s.opB l vb]) ∧
  s.vec (.isub vd va vb g) g [vd] (fun l => [s.vget l va - s.opB l vb]) ∧
  s.vec (.imul vd va vb g) g [vd] (fun l => [BitVec.ofInt 32 ((s.vget l va).toInt * (s.opB l vb).toInt)]) ∧
  s.vec (.imad vd va vb g) g [vd] (fun l => [s.vget l va * s.opB l vb + s.opC l vd]) ∧
  s.vec (.and vd va vb g) g [vd] (fun l => [s.vget l va &&& s.opB l vb]) ∧
  s.vec (.or vd va vb g) g [vd] (fun l => [s.vget l va ||| s.opB l vb]) ∧
  s.vec (.xor vd va vb g) g [vd] (fun l => [s.vget l va ^^^ s.opB l vb]) ∧
  s.vec (.shl vd va vb g) g [vd] (fun l => [BitVec.ofNat 32 ((s.vget l va).toNat * 2 ^ (s.opB l vb).toNat)]) ∧
  s.vec (.shr vd va vb g) g [vd] (fun l => [BitVec.ofNat 32 ((s.vget l va).toNat / 2 ^ (s.opB l vb).toNat)]) ∧
  s.vec (.sar vd va vb g) g [vd] (fun l => [BitVec.ofInt 32 ((s.vget l va).toInt / 2 ^ (s.opB l vb).toNat)]) ∧
  s.vec (.sel vd va vb g) 0 [vd] (fun l => [if l.pget g then s.vget l va else s.opB l vb]) ∧
  s.vec (.lea vd va vb g) g [vd, vd + 1] (fun l =>
    let x := (((s.vpair l va : Int) + (s.opB l vb).toInt) % 2 ^ 64).toNat
    [BitVec.ofNat 32 x, BitVec.ofNat 32 (x / 2 ^ 32)])) ∧
  (∀ (s : State) (vd va g : Nat),
  s.vec (.mov vd va g) g [vd] (fun l => [s.vget l va]) ∧
  s.vec (.not vd va g) g [vd] (fun l => [~~~(s.vget l va)]) ∧
  s.vec (.iabsI32 vd va g) g [vd] (fun l => [BitVec.ofNat 32 (s.vget l va).toInt.natAbs]) ∧
  s.vec (.inegI32 vd va g) g [vd] (fun l => [BitVec.ofInt 32 (-(s.vget l va).toInt)]) ∧
  s.vec (.popc vd va g) g [vd] (fun l => [BitVec.ofNat 32 ((List.range 32).countP fun i => (s.vget l va).getLsbD i)]) ∧
  s.vec (.clz vd va g) g [vd] (fun l =>
    [BitVec.ofNat 32 (((List.range 32).find? fun i => (s.vget l va).getLsbD (31 - i)).getD 32)]) ∧
  s.vec (.brev vd va g) g [vd] (fun l => [(s.vget l va).reverse]) ∧
  s.vec (.movSpecial vd va g) g [vd] (fun l => [s.special l va]) ∧
  s.vec (.imulhI32 vd va g) g [vd] (fun l => [BitVec.ofInt 32 ((s.vget l vd).toInt * (s.vget l va).toInt / 2 ^ 32)]) ∧
  s.vec (.imulhN32 vd va g) g [vd] (fun l => [BitVec.ofNat 32 ((s.vget l vd).toNat * (s.vget l va).toNat / 2 ^ 32)]) ∧
  s.vec (.iminI32 vd va g) g [vd] (fun l => [BitVec.ofInt 32 (min (s.vget l vd).toInt (s.vget l va).toInt)]) ∧
  s.vec (.iminN32 vd va g) g [vd] (fun l => [BitVec.ofNat 32 (min (s.vget l vd).toNat (s.vget l va).toNat)]) ∧
  s.vec (.imaxI32 vd va g) g [vd] (fun l => [BitVec.ofInt 32 (max (s.vget l vd).toInt (s.vget l va).toInt)]) ∧
  s.vec (.imaxN32 vd va g) g [vd] (fun l => [BitVec.ofNat 32 (max (s.vget l vd).toNat (s.vget l va).toNat)]) ∧
  s.vec (.rotl vd va g) g [vd] (fun l => [(s.vget l vd).rotateLeft ((s.vget l va).toNat % 32)]) ∧
  s.vec (.bfxI32 vd va g) g [vd] (fun l => [bfx true (s.vget l vd) (s.vget l va)]) ∧
  s.vec (.bfxN32 vd va g) g [vd] (fun l => [bfx false (s.vget l vd) (s.vget l va)]) ∧
  s.vec (.bfi vd va g) g [vd] (fun l => [bfi (s.vget l vd) (s.vget l va) (s.opC l vd)]) ∧
  s.vec (.iaddI32Sat vd va g) g [vd] (fun l =>
    [BitVec.ofInt 32 (max (-2 ^ 31) (min (2 ^ 31 - 1) ((s.vget l vd).toInt + (s.vget l va).toInt)))]) ∧
  s.vec (.iaddN32Sat vd va g) g [vd] (fun l =>
    [BitVec.ofNat 32 (min (2 ^ 32 - 1) ((s.vget l vd).toNat + (s.vget l va).toNat))]) ∧
  s.vec (.isubI32Sat vd va g) g [vd] (fun l =>
    [BitVec.ofInt 32 (max (-2 ^ 31) (min (2 ^ 31 - 1) ((s.vget l vd).toInt - (s.vget l va).toInt)))]) ∧
  s.vec (.isubN32Sat vd va g) g [vd] (fun l => [BitVec.ofNat 32 ((s.vget l vd).toNat - (s.vget l va).toNat)])) ∧
  (∀ (x a f : Word) (i : Nat), i < 32 →
  let p := min (f.toNat % 256) 32
  let n := min (f.toNat / 256 % 256) 32
  (bfx false x f).getLsbD i = (decide (i < n) && x.getLsbD (p + i)) ∧
  (n ≠ 0 → (bfx true x f).getLsbD i = x.getLsbD (min 31 (p + min i (n - 1)))) ∧
  (n = 0 → bfx true x f = 0) ∧
  (bfi x a f).getLsbD i = if p ≤ i ∧ i < p + n then a.getLsbD (i - p) else x.getLsbD i)

/-- R275: the immediate forms. The 7-bit immediate is sign-extended, or widened to 32 bits by HINT.IMM. -/
def Obligations.ImmediateWords : Prop := ∀ (s : State) (vd va imm g : Nat),
  let b : Word := match s.hint.imm with
    | some p => BitVec.ofNat 32 (p * 128 + imm)
    | none => BitVec.ofInt 32 (if imm % 128 < 64 then (imm % 128 : Nat) else ((imm % 128 : Nat) : Int) - 128)
  s.vec (.iaddImm vd va imm g) g [vd] (fun l => [s.vget l va + b]) ∧
  s.vec (.andImm vd va imm g) g [vd] (fun l => [s.vget l va &&& b]) ∧
  s.vec (.movi vd imm g) g [vd] (fun _ => [b]) ∧
  encode (.iaddImm vd va imm g) = some (pack (0x2C * 2 ^ 25) [(vd, 18), (va, 11), (imm, 4), (g, 0)]) ∧
  encode (.andImm vd va imm g) = some (pack (0x2D * 2 ^ 25) [(vd, 18), (va, 11), (imm, 4), (g, 0)]) ∧
  encode (.movi vd imm g) = some (pack (0x2E * 2 ^ 25) [(vd, 18), (imm, 4), (g, 0)])

/-- R272, R278: the three-operand float words: each element of the format is the exact result rounded once, by the
prefix's mode and saturate bit, with the lane's own generator word under SR. The sum of an exact zero is −0 under RD.
R279: the words of the float family, element by element in format `t`. -/
def Obligations.FloatWords : Prop :=
  (∀ (s : State) (vd va vb g : Nat),
  let val (f : Nat) (w : Word) (e : Nat) : XR := decodeFmt f (w.toNat / 2 ^ (fmtBits f * e) % 2 ^ fmtBits f)
  let round (f : Nat) (r : Lane → Nat → XR) (l : Lane) : List Word :=
    let code (e : Nat) : Nat := rtf (r l e) f s.rm (genWord s.seed s.blk.idx 0 s.w.wid l.id e s.seq) s.sat % 2 ^ fmtBits f
    [BitVec.ofNat 32 (if f = 0 then code 0 else code 0 + 2 ^ 16 * code 1)]
  let sum (x y : XR) : XR := XR.add (s.rm == 4) x y
  s.vecF (.faddF32 vd va vb g) g [vd] (round 0 fun l e => sum (val 0 (s.vget l va) e) (val 0 (s.opB l vb) e)) ∧
  s.vecF (.fsubF32 vd va vb g) g [vd] (round 0 fun l e => sum (val 0 (s.vget l va) e) (val 0 (s.opB l vb) e).neg) ∧
  s.vecF (.fmulF32 vd va vb g) g [vd] (round 0 fun l e => XR.mul (val 0 (s.vget l va) e) (val 0 (s.opB l vb) e)) ∧
  s.vecF (.ffmaF32 vd va vb g) g [vd] (round 0 fun l e =>
    sum (XR.mul (val 0 (s.vget l va) e) (val 0 (s.opB l vb) e)) (val 0 (s.opC l vd) e)) ∧
  s.vecF (.faddF16x2 vd va vb g) g [vd] (round 1 fun l e => sum (val 1 (s.vget l va) e) (val 1 (s.opB l vb) e)) ∧
  s.vecF (.fmulF16x2 vd va vb g) g [vd] (round 1 fun l e => XR.mul (val 1 (s.vget l va) e) (val 1 (s.opB l vb) e)) ∧
  s.vecF (.ffmaF16x2 vd va vb g) g [vd] (round 1 fun l e =>
    sum (XR.mul (val 1 (s.vget l va) e) (val 1 (s.opB l vb) e)) (val 1 (s.opC l vd) e)) ∧
  s.vecF (.faddBf16x2 vd va vb g) g [vd] (round 2 fun l e => sum (val 2 (s.vget l va) e) (val 2 (s.opB l vb) e)) ∧
  s.vecF (.fmulBf16x2 vd va vb g) g [vd] (round 2 fun l e => XR.mul (val 2 (s.vget l va) e) (val 2 (s.opB l vb) e)) ∧
  s.vecF (.ffmaBf16x2 vd va vb g) g [vd] (round 2 fun l e =>
    sum (XR.mul (val 2 (s.vget l va) e) (val 2 (s.opB l vb) e)) (val 2 (s.opC l vd) e))) ∧
  (∀ (s : State) (vd va t g : Nat),
  let val (w : Word) (e : Nat) : XR := elemVal t e w
  let round (r : Lane → Nat → XR) (l : Lane) : List Word :=
    [byElem t fun e => rtf (r l e) t s.rm (s.word l e) s.sat]
  s.vecF (.frnd vd va t g) g [vd] (fun l =>
    [byElem t fun e => frndCode t (elemOf (fmtBits t) e (s.vget l va).toNat) s.rm (s.word l e)]) ∧
  s.vecF (.frcp vd va t g) g [vd] (round fun l e => xrRcp (val (s.vget l va) e)) ∧
  s.vecF (.frsq vd va t g) g [vd] (round fun l e => xrRsq (val (s.vget l va) e)) ∧
  s.vecF (.fsqrt vd va t g) g [vd] (round fun l e => xrSqrt (val (s.vget l va) e)) ∧
  s.vecF (.fexp2 vd va t g) g [vd] (round fun l e => xrExp2 (val (s.vget l va) e)) ∧
  s.vecF (.flog2 vd va t g) g [vd] (round fun l e => xrLog2 (val (s.vget l va) e)) ∧
  s.vecF (.fsin vd va t g) g [vd] (round fun l e => xrSin (val (s.vget l va) e)) ∧
  s.vecF (.fcos vd va t g) g [vd] (round fun l e => xrCos (val (s.vget l va) e)) ∧
  s.vecF (.fmin vd va t g) g [vd] (fun l =>
    [byElem t fun e => rtf (XR.pick false (val (s.vget l vd) e) (val (s.vget l va) e)) t 1 0]) ∧
  s.vecF (.fmax vd va t g) g [vd] (fun l =>
    [byElem t fun e => rtf (XR.pick true (val (s.vget l vd) e) (val (s.vget l va) e)) t 1 0]) ∧
  s.vecF (.fsubTwoAddress vd va t g) g [vd] (round fun l e =>
    XR.add (s.rm == 4) (val (s.vget l vd) e) (val (s.vget l va) e).neg))

/-- R280: what the unary float operations give at their special inputs: NaN, the infinities, the zeros, and, for the
roots and the logarithm, negative numbers. R279: the reciprocal and the square root are exact, or lie strictly within
one unit of the last place of a result of more than 90 bits, and so is the reciprocal square root: a value 2·k + 1 stands for
one between k and k + 1. FRND gives a NaN the canonical NaN, and leaves a zero, an infinity and a value of 2^M or more as
it is; another finite value it rounds in place, toward zero under RZ. -/
def Obligations.FloatExactness : Prop :=
  (∀ (n : Bool) (m : Nat) (e : Int), m ≠ 0 →
  (∀ f ∈ [xrRcp, xrRsq, xrSqrt, xrExp2, xrLog2, xrSin, xrCos], f .nan = .nan) ∧
  (xrRcp (.inf n)).isZero = true ∧ (xrRcp (.inf n)).isNeg = n ∧ xrRcp (.num n 0 e) = .inf n ∧
  xrRsq (.inf true) = .nan ∧ (xrRsq (.inf false)).isZero = true ∧ (xrRsq (.inf false)).isNeg = false ∧
  xrRsq (.num true m e) = .nan ∧ xrRsq (.num n 0 e) = .inf n ∧
  xrSqrt (.inf true) = .nan ∧ xrSqrt (.inf false) = .inf false ∧ xrSqrt (.num true m e) = .nan ∧
  (xrSqrt (.num n 0 e)).isZero = true ∧ (xrSqrt (.num n 0 e)).isNeg = n ∧
  (xrExp2 (.inf true)).isZero = true ∧ (xrExp2 (.inf true)).isNeg = false ∧ xrExp2 (.inf false) = .inf false ∧
  xrExp2 (.num n 0 e) = .num false 1 0 ∧
  xrLog2 (.inf true) = .nan ∧ xrLog2 (.inf false) = .inf false ∧ xrLog2 (.num true m e) = .nan ∧
  xrLog2 (.num n 0 e) = .inf true ∧
  xrSin (.inf n) = .nan ∧ (xrSin (.num n 0 e)).isZero = true ∧ (xrSin (.num n 0 e)).isNeg = n ∧
  xrCos (.inf n) = .nan ∧ xrCos (.num n 0 e) = .num false 1 0) ∧
  (∀ (neg : Bool) (m : Nat) (e : Int), m ≠ 0 →
  (∃ (k : Nat) (q : Int), xrRcp (.num neg m e) = .num neg k q ∧ 2 ^ 90 ≤ k ∧ q + e + 1 ≤ 0 ∧
    (if k % 2 = 0 then (k / 2) * m = 2 ^ (-(q + e + 1)).toNat
     else (k / 2) * m < 2 ^ (-(q + e + 1)).toNat ∧ 2 ^ (-(q + e + 1)).toNat < (k / 2 + 1) * m)) ∧
  (∃ (k : Nat) (q : Int), xrSqrt (.num false m e) = .num false k q ∧ 2 ^ 90 ≤ k ∧ 2 * (q + 1) ≤ e ∧
    (if k % 2 = 0 then (k / 2) * (k / 2) = m * 2 ^ (e - 2 * (q + 1)).toNat
     else (k / 2) * (k / 2) < m * 2 ^ (e - 2 * (q + 1)).toNat ∧
       m * 2 ^ (e - 2 * (q + 1)).toNat < (k / 2 + 1) * (k / 2 + 1))) ∧
  (∃ (k : Nat) (q : Int), xrRsq (.num false m e) = .num false k q ∧ 2 ^ 90 ≤ k ∧ 2 * (q + 1) + e ≤ 0 ∧
    (if k % 2 = 0 then (k / 2) * (k / 2) * m = 2 ^ (-(2 * (q + 1) + e)).toNat
     else (k / 2) * (k / 2) * m < 2 ^ (-(2 * (q + 1) + e)).toNat ∧
       2 ^ (-(2 * (q + 1) + e)).toNat < (k / 2 + 1) * (k / 2 + 1) * m))) ∧
  (∀ (f c mode w : Nat), f ≤ 2 → c < 2 ^ fmtBits f →
  (decodeFmt f c = .nan → frndCode f c mode w = nanCode f) ∧
  ((decodeFmt f c).isZero = true → frndCode f c mode w = c) ∧
  (∀ n, decodeFmt f c = .inf n → frndCode f c mode w = c) ∧
  (∀ n m e, decodeFmt f c = .num n m e → m ≠ 0 →
    (fmtM f ≤ (Nat.log2 m : Int) + e → frndCode f c mode w = c) ∧
    ((Nat.log2 m : Int) + e < fmtM f → frndCode f c 2 w =
      rtf (.num n (if 0 ≤ e then m * 2 ^ e.toNat else m / 2 ^ (-e).toNat) 0) f 1 0)))

/-- R100, R102: a value that a float format has is rounded to itself in every mode, its sign of zero kept: decoding a
code and rounding it back gives the code. A NaN gives the canonical NaN. R100, R101: rounding toward zero gives the
greatest value of the format that is not above the exact one, and rounding to nearest the nearer of that and the next,
on a tie the even code; up to the greatest finite value, each mode as its own rule says. Above that, mode RZ gives the
greatest finite value. For positive values. -/
def Obligations.Rounding : Prop :=
  (∀ (f c mode w : Nat), f ≤ 6 → c < 2 ^ fmtBits f → w < 2 ^ 32 →
  rtf (decodeFmt f c) f mode w = if decodeFmt f c = .nan then nanCode f else c) ∧
  (∀ (f m w : Nat) (e : Int), f ≤ 6 → m ≠ 0 →
  let x : XR := .num false m e
  let lo := rtf x f 2 w
  let mid : XR := XR.add false (decodeFmt f lo) (decodeFmt f (lo + 1))
  if XR.lt (decodeFmt f (maxCode f)) x then lo = maxCode f
  else
    lo ≤ maxCode f ∧ XR.lt x (decodeFmt f lo) = false ∧
    (lo < maxCode f → XR.lt x (decodeFmt f (lo + 1)) = true ∧
      rtf x f 1 w = (if XR.lt (XR.shift x 1) mid then lo else if XR.lt mid (XR.shift x 1) then lo + 1
        else if lo % 2 = 0 then lo else lo + 1) ∧
      rtf x f 6 w = (if XR.lt (XR.shift x 1) mid then lo else lo + 1) ∧
      rtf x f 3 w = (if XR.eq x (decodeFmt f lo) then lo else lo + 1) ∧
      rtf x f 4 w = lo))

/-- R281 to R283: the packed 16-bit words and the pixel words, element by element: low half and high half. -/
def Obligations.PackedWords : Prop := ∀ (s : State) (vd va vb g : Nat),
  let h (w : Word) (e : Nat) : Nat := w.toNat / 2 ^ (16 * e) % 2 ^ 16
  let i (w : Word) (e : Nat) : Int := (BitVec.ofNat 16 (h w e)).toInt
  let two (r : Nat → Int) : List Word := [BitVec.ofInt 32 (r 0 % 2 ^ 16 + 2 ^ 16 * (r 1 % 2 ^ 16))]
  let sat (lo hi x : Int) : Int := max lo (min hi x)
  let d (l : Lane) : Word := s.vget l vd
  let a (l : Lane) : Word := s.vget l va
  s.vec (.hadd vd va vb g) g [vd] (fun l => two fun e => (h (a l) e : Int) + h (s.opB l vb) e) ∧
  s.vec (.hsub vd va vb g) g [vd] (fun l => two fun e => (h (a l) e : Int) - h (s.opB l vb) e) ∧
  s.vec (.hmad vd va vb g) g [vd] (fun l => two fun e => (h (a l) e : Int) * h (s.opB l vb) e + h (s.opC l vd) e) ∧
  s.vec (.hmul vd va g) g [vd] (fun l => two fun e => (h (d l) e : Int) * h (a l) e) ∧
  s.vec (.haddsI16x2 vd va g) g [vd] (fun l => two fun e => sat (-2 ^ 15) (2 ^ 15 - 1) (i (d l) e + i (a l) e)) ∧
  s.vec (.haddsN16x2 vd va g) g [vd] (fun l => two fun e => sat 0 (2 ^ 16 - 1) ((h (d l) e : Int) + h (a l) e)) ∧
  s.vec (.hsubsI16x2 vd va g) g [vd] (fun l => two fun e => sat (-2 ^ 15) (2 ^ 15 - 1) (i (d l) e - i (a l) e)) ∧
  s.vec (.hsubsN16x2 vd va g) g [vd] (fun l => two fun e => sat 0 (2 ^ 16 - 1) ((h (d l) e : Int) - h (a l) e)) ∧
  s.vec (.hminI16x2 vd va g) g [vd] (fun l => two fun e => min (i (d l) e) (i (a l) e)) ∧
  s.vec (.hminN16x2 vd va g) g [vd] (fun l => two fun e => min (h (d l) e : Int) (h (a l) e)) ∧
  s.vec (.hmaxI16x2 vd va g) g [vd] (fun l => two fun e => max (i (d l) e) (i (a l) e)) ∧
  s.vec (.hmaxN16x2 vd va g) g [vd] (fun l => two fun e => max (h (d l) e : Int) (h (a l) e)) ∧
  s.vec (.hshl vd va g) g [vd] (fun l => two fun e => (h (d l) e : Int) * 2 ^ h (a l) e) ∧
  s.vec (.hshrN16x2 vd va g) g [vd] (fun l => two fun e => (h (d l) e : Int) / 2 ^ h (a l) e) ∧
  s.vec (.hshrI16x2 vd va g) g [vd] (fun l => two fun e => i (d l) e / 2 ^ h (a l) e) ∧
  s.vec (.hsel vd va g) g [vd] (fun l => two fun e => if (s.opC l vd).getLsbD e then h (a l) e else h (d l) e) ∧
  s.vec (.hpack vd va g) g [vd] (fun l =>
    two fun e => sat (-2 ^ 15) (2 ^ 15 - 1) (if e = 0 then (d l).toInt else (a l).toInt)) ∧
  s.vec (.hunpackLoI16 vd va g) g [vd] (fun l => [BitVec.ofInt 32 (i (a l) 0)]) ∧
  s.vec (.hunpackHiI16 vd va g) g [vd] (fun l => [BitVec.ofInt 32 (i (a l) 1)]) ∧
  s.vec (.hunpackLoN16 vd va g) g [vd] (fun l => [BitVec.ofNat 32 (h (a l) 0)]) ∧
  s.vec (.hunpackHiN16 vd va g) g [vd] (fun l => [BitVec.ofNat 32 (h (a l) 1)]) ∧
  s.vec (.pxavg vd va g) g [vd] (fun l => two fun e => ((h (d l) e : Int) + h (a l) e + 1) / 2) ∧
  s.vec (.pxsad vd va g) g [vd] (fun l =>
    [BitVec.ofNat 32 (((h (d l) 0 : Int) - h (a l) 0).natAbs + ((h (d l) 1 : Int) - h (a l) 1).natAbs)]) ∧
  s.vec (.pxclamp vd va g) g [vd] (fun l => two fun e => max (h (a l) 0 : Int) (min (h (a l) 1) (h (d l) e))) ∧
  s.vec (.pxpack vd va g) g [vd] (fun l => two fun e => (rtf (f32 (if e = 0 then d l else a l)) 12 1 0 : Nat)) ∧
  s.vec (.pxexpLo vd va g) g [vd] (fun l => [BitVec.ofNat 32 (rtf (.ofInt (h (a l) 0)) 0 1 0)]) ∧
  s.vec (.pxexpHi vd va g) g [vd] (fun l => [BitVec.ofNat 32 (rtf (.ofInt (h (a l) 1)) 0 1 0)]) ∧
  s.vec (.hacs vd va vb g) g [vd, vd + 1] (fun l =>
    let m := s.opB l vb
    let p (k : Nat) : Nat := min 65535 (h (a l) 0 + h m k)
    let q (k : Nat) : Nat := min 65535 (h (a l) 1 + h m (1 - k))
    let bit' (k : Nat) : Nat := if q k < p k then 1 else 0
    [BitVec.ofNat 32 (min (q 0) (p 0) + 2 ^ 16 * min (q 1) (p 1)),
     BitVec.ofNat 32 ((s.vget l (vd + 1)).toNat * 4 + bit' 1 * 2 + bit' 0)])

/-- R284 to R288: the dot products, CVT and RNDT. RNDT draws one word per lane whatever its format. R104, R287: one
element of a CVT: between integers the value, clamped or cut; to .e8m0 the rules of R104: the exponent of a positive
number, clamped, NaN for NaN, infinities and negative numbers, 0 for zero; else RoundToFormat. -/
def Obligations.ConvertWords : Prop :=
  (∀ (s : State) (vd va vb x y g : Nat),
  let dot (f n : Nat) (sgn : Bool) (l : Lane) : List Word :=
    let part (w : Word) (k : Nat) : Int :=
      if sgn then (BitVec.ofNat n (w.toNat / 2 ^ (n * k))).toInt else ((w.toNat / 2 ^ (n * k) % 2 ^ n : Nat) : Int)
    let c : Int := if sgn then (s.opC l vd).toInt else ((s.opC l vd).toNat : Int)
    let t := ((List.range (32 / n)).map fun k => part (s.vget l va) k * part (s.opB l vb) k).sum + c
    [BitVec.ofInt 32 (if s.sat then saturate t f else t)]
  let fdot (f : Nat) (l : Lane) : List Word :=
    let scale (k : Nat) : Nat := match s.hint.xv with
      | none => 127
      | some h => (s.vget l (h.vc + k)).toNat / 2 ^ (8 * x) % 256
    [BitVec.ofNat 32 (rtf (XR.sum (dotTerms f (scale 0) (scale 1) (s.vget l va) (s.vget l (va + 1)) ++ [f32 (s.vget l vd)]))
      0 s.rm (s.word l 0) s.sat)]
  let cvt (src dst : Nat) (l : Lane) : List Word :=
    [BitVec.ofNat 32 (joinElems (fmtWidth dst) ((List.range (32 / max (fmtWidth src) (fmtWidth dst))).map fun k =>
      convElem src dst ((s.vget l va).toNat / 2 ^ (fmtWidth src * k) % 2 ^ fmtWidth src) s.rm (s.word l k) s.sat))]
  s.vec (.dot4I8 vd va vb g) g [vd] (dot 14 8 true) ∧ s.vec (.dot4N8 vd va vb g) g [vd] (dot 15 8 false) ∧
  s.vec (.dot8I4 vd va vb g) g [vd] (dot 14 4 true) ∧ s.vec (.dot8N4 vd va vb g) g [vd] (dot 15 4 false) ∧
  s.vecF (.dot4E4m3 vd va x g) g [vd] (fdot 3) ∧ s.vecF (.dot4E5m2 vd va x g) g [vd] (fdot 4) ∧
  s.vecF (.dot8E2m1 vd va x g) g [vd] (fdot 6) ∧
  s.vecF (.cvtSrcLow vd va x y g) g [vd] (cvt y x) ∧ s.vecF (.cvtSrcHigh vd va x y g) g [vd] (cvt (8 + y) x) ∧
  (Ready (.rndt vd va x g) s → Gives (exec (.rndt vd va x g) s) fun t =>
    RegStep s t s.drawn [] (s.wroteV g [vd] fun l =>
      [if f32 (s.vget l va) = .nan then 0x7FC00000
       else BitVec.ofNat 32 (rtf (decodeFmt x (rtf (f32 (s.vget l va)) x 5 (s.word l 0))) 0 1 0)]))) ∧
  (∀ (src dst c mode w : Nat) (sat : Bool),
  (fmtInt src = true → fmtInt dst = true →
    (convElem src dst c mode w sat : Int) =
      let v : Int := match decodeFmt src c with | .num n m _ => if n then -(m : Int) else m | _ => 0
      (if sat then max (intMin dst) (min (intMax dst) v) else v) % 2 ^ fmtBits dst) ∧
  (dst = 13 → convElem src dst c mode w sat = match decodeFmt src c with
    | .nan | .inf _ => 0xFF
    | .num n m e =>
      if m = 0 then 0 else if n then 0xFF
      else (max 0 (min 254 (127 + ((Nat.log2 m : Int) + e)))).toNat) ∧
  ((fmtInt src = false ∨ fmtInt dst = false) → dst ≠ 13 →
    convElem src dst c mode w sat = rtf (decodeFmt src c) dst mode w sat))

/-- R242, R256: the two-operand uniform words: one write per issue, the immediate 8 bits or widened by HINT.IMM, no
saturation and no trap on overflow; and their encoding. R257: the uniform family: moves, product and shifts by any
count. -/
def Obligations.UniformWords : Prop :=
  (∀ (s : State) (sd sa sb x : Nat),
  let b : Word := if x = 1 then (match s.hint.imm with
    | some p => BitVec.ofNat 32 (p * 128 + sb)
    | none => BitVec.ofNat 32 sb) else s.sget (256 * s.bank 3 + sb)
  let a : Word := s.sget (256 * s.bank 2 + sa)
  let d : Nat := 256 * s.bank 1 + sd
  let fields : List (Nat × Nat) := [(sd, 17), (sa, 9), (sb, 1), (x, 0)]
  s.uni (.sadd sd sa sb x) [(d, a + b)] ∧ s.uni (.ssub sd sa sb x) [(d, a - b)] ∧
  s.uni (.sand sd sa sb x) [(d, a &&& b)] ∧ s.uni (.sor sd sa sb x) [(d, a ||| b)] ∧
  s.uni (.sxor sd sa sb x) [(d, a ^^^ b)] ∧
  encode (.sadd sd sa sb x) = some (pack (0x09 * 2 ^ 25) fields) ∧
  encode (.ssub sd sa sb x) = some (pack (0x0A * 2 ^ 25) fields) ∧
  encode (.sand sd sa sb x) = some (pack (0x0B * 2 ^ 25) fields) ∧
  encode (.sor sd sa sb x) = some (pack (0x0C * 2 ^ 25) fields) ∧
  encode (.sxor sd sa sb x) = some (pack (0x0D * 2 ^ 25) fields)) ∧
  (∀ (s : State) (sd sa x imm : Nat),
  let i (n : Nat) : Word := match s.hint.imm with
    | some p => BitVec.ofNat 32 (p * 128 + n)
    | none => BitVec.ofNat 32 n
  let a : Word := if x = 1 then i sa else s.sget (256 * s.bank 2 + sa)
  let d : Nat := 256 * s.bank 1 + sd
  let old : Word := s.sget d
  s.uni (.smov sd sa) [(d, s.sget (256 * s.bank 2 + sa))] ∧
  s.uni (.smovi sd imm) [(d, i imm)] ∧
  s.uni (.smul sd sa x) [(d, old * a)] ∧
  s.uni (.sshl sd sa x) [(d, BitVec.ofNat 32 (old.toNat * 2 ^ a.toNat))] ∧
  s.uni (.sshr sd sa x) [(d, BitVec.ofNat 32 (old.toNat / 2 ^ a.toNat))] ∧
  s.uni (.sshrI32 sd sa x) [(d, BitVec.ofInt 32 (old.toInt / 2 ^ a.toNat))])

/-- R17, R63, R64, R258: what MOVS writes for each special register, and MOV in each lane: %clock in two words (MOV
its low word), the registers of the plane session of a joined grid, the flags' statuses; slot B's word reads %dthr and
the flags as they stood before slot A's (R243). R235, R276: only MOV reads %tid and %laneid, each lane its own; MOVS
of them traps. R158, R258: WRS stores the bits unchanged into %dthr[g] and runs CheckDivergence(g): DIV[g] is set
exactly when %dnorm[g] is NaN or above it, and a bit that becomes set marks the warp for the divergence trap. With no
plane session joined it traps (R64). R259: RDLANE reads the lane whatever its state: zero where it is vacant. -/
def Obligations.SpecialRegisters : Prop :=
  (∀ (s : State) (sd vd g : Nat) (l : Lane), s.lead = some l →
  let d : Nat := s.sname 1 sd
  let read (code : Nat) (v : Word) : Prop :=
    s.uni (.movs sd code) [(d, v)] ∧ s.vec (.movSpecial vd code g) g [vd] (fun _ => [v])
  let n (v : Nat) : Word := BitVec.ofNat 32 v
  (∀ c < 2, s.cur.isSome = true → Traps s { cause := 0x10 } (exec (.movs sd c) s)) ∧
  s.vec (.movSpecial vd 0x00 g) g [vd] (fun m => [n m.tid]) ∧ s.vec (.movSpecial vd 0x01 g) g [vd] (fun m => [n m.id]) ∧
  read 0x02 (n s.w.wid) ∧ read 0x03 (n s.blk.idx) ∧ read 0x04 (n s.blk.grid) ∧
  (∀ g, s.grid? = some g → read 0x05 (n g.depth)) ∧
  read 0x06 (n s.w.lanes.length) ∧ read 0x07 (n s.w.role) ∧ read 0x08 (n s.core) ∧ read 0x09 (n (s.core / 48)) ∧
  read 0x0A (n (s.die s.dieNo).dev) ∧ read 0x0B (n (s.die s.dieNo).isl) ∧
  s.uni (.movs sd 0x0C) [(d, n s.clock), (d + 1, n (s.clock / 2 ^ 32))] ∧
  s.vec (.movSpecial vd 0x0C g) g [vd] (fun _ => [n s.clock]) ∧
  (s.joined = none → read 0x0D 0x3F800000) ∧
  (∀ x, s.joined = some x → read 0x0D x.ls) ∧
  (∀ k < 16, s.joined = none → read (0x10 + k) 0 ∧ (s.w.view = none → read (0x20 + k) 0x7F800000)) ∧
  (∀ k < 16, ∀ x y, s.joined = some x → x.groups[k]? = some y →
    read (0x10 + k) y.dnorm ∧ (s.w.view = none → read (0x20 + k) y.dthr)) ∧
  (∀ k < 16, ∀ v y, s.w.view = some v → v.dthr[k]? = some y → read (0x20 + k) y) ∧
  (∀ k < 12, read (0x30 + k) (n (s.w.seen.flag k).status))) ∧
  (∀ (s : State) (g sa : Nat), Ready (.wrs (0x20 + g) sa) s →
  let v : Word := s.sfld 2 sa
  (s.joined = none → Traps s { cause := 0x38 } (exec (.wrs (0x20 + g) sa) s)) ∧
  (∀ x y, s.joined = some x → x.groups[g]? = some y →
    let div : Bool := decide (f32 y.dnorm = .nan) || XR.lt (f32 v) (f32 y.dnorm)
    let s' : State := { s with
      session := some { x with groups := x.groups.set g { y with dthr := v, div := div } }
      w := { s.w with divPend := s.w.divPend || (div && !y.div) } }
    Gives (exec (.wrs (0x20 + g) sa) s) fun t => RegStep s' t s.blk [] Lane.went)) ∧
  (∀ (s : State) (sd va lane : Nat) (l : Lane), s.w.lanes[lane]? = some l →
  s.uni (.rdlane sd va lane) [(s.sname 1 sd, if l.st = .vacant then 0 else s.vget l va)])

/-- R260: SCMP compares two uniform registers, unsigned when U is 1, by the code of R237, and writes the result to
predicate k in every issuing lane; a k of 0 discards it. -/
def Obligations.UniformCompare : Prop := ∀ (s : State) (sa sb u cc k : Nat), u < 2 → cc < 6 →
  let a := s.sfld 1 sa
  let b := s.sfld 2 sb
  let c : Bool := if u = 1
    then [a.toNat == b.toNat, a.toNat != b.toNat, decide (a.toNat < b.toNat), decide (a.toNat ≤ b.toNat),
      decide (b.toNat < a.toNat), decide (b.toNat ≤ a.toNat)].getD cc false
    else [a.toInt == b.toInt, a.toInt != b.toInt, decide (a.toInt < b.toInt), decide (a.toInt ≤ b.toInt),
      decide (b.toInt < a.toInt), decide (b.toInt ≤ a.toInt)].getD cc false
  encode (.scmp sa sb u cc k) = some (pack (0x0E * 2 ^ 25) [(sa, 17), (sb, 9), (u, 8), (cc, 5), (k, 0)]) ∧
  s.lanesOnly (.scmp sa sb u cc k) fun l m =>
    m.pc = l.pc + 4 ∧ l.keeps m [] [k] ∧ m.pget k = if k = 0 then true else c

/-- R262: SETP, which has no guard: the result to pd and its complement to pe in the active lanes, by R244 in the
others. In .f32 a comparison with a NaN is false, except .ne. R237, R263: the predicate logic, its sources first
inverted where marked. R242, R264: PPOP and the votes act once per issue on the active lanes; VOTE writes every issuing
lane; a guard that is false everywhere writes nothing; a mask that leaves no lane active gives 0, false, true and 0. -/
def Obligations.PredicateWords : Prop :=
  (∀ (s : State) (pd pe va vb cc : Nat), cc < 6 →
  let pick (eq lt gt : Bool) : Bool := [eq, !eq, lt, lt || eq, gt, gt || eq].getD cc false
  let i (l : Lane) : Bool :=
    let a := (s.vget l va).toInt
    let b := (s.vget l vb).toInt
    pick (a == b) (decide (a < b)) (decide (b < a))
  let n (l : Lane) : Bool :=
    let a := (s.vget l va).toNat
    let b := (s.vget l vb).toNat
    pick (a == b) (decide (a < b)) (decide (b < a))
  let f (l : Lane) : Bool :=
    let a := f32 (s.vget l va)
    let b := f32 (s.vget l vb)
    if a = .nan ∨ b = .nan then cc == 1 else pick (XR.eq a b) (XR.lt a b) (XR.lt b a)
  s.pred (.setpI32 pd pe va vb cc) 0 [(pd, i), (pe, fun l => !i l)] ∧
  s.pred (.setpN32 pd pe va vb cc) 0 [(pd, n), (pe, fun l => !n l)] ∧
  s.pred (.setpF32 pd pe va vb cc) 0 [(pd, f), (pe, fun l => !f l)]) ∧
  (∀ (s : State) (pd pa pb na nb g : Nat), na < 2 → nb < 2 →
  let a (l : Lane) : Bool := if na = 1 then !l.pget pa else l.pget pa
  let b (l : Lane) : Bool := if nb = 1 then !l.pget pb else l.pget pb
  s.pred (.pand pd pa pb na nb g) g [(pd, fun l => a l && b l)] ∧
  s.pred (.por pd pa pb na nb g) g [(pd, fun l => a l || b l)] ∧
  s.pred (.pxor pd pa pb na nb g) g [(pd, fun l => Bool.xor (a l) (b l))] ∧
  s.pred (.pnot pd pa na g) g [(pd, fun l => !a l)] ∧
  s.pred (.pmov pd pa na g) g [(pd, fun l => a l)]) ∧
  (∀ (s : State) (sd pa pd g : Nat),
  let some' : Bool := s.issuing.any (·.pget g)
  let voted (v : Bool) (l m : Lane) : Prop :=
    m.pc = l.pc + 4 ∧ l.keeps m [] [pd] ∧ m.pget pd = if pd = 0 then true else if some' then v else l.pget pd
  let d := s.sname 1 sd
  s.uni (.ppop sd pa g) (if some' then [(d, BitVec.ofNat 32 ((s.actives g).countP (·.pget pa)))] else []) ∧
  s.lanesOnly (.voteAny pa pd g) (voted ((s.actives g).any (·.pget pa))) ∧
  s.lanesOnly (.voteAll pa pd g) (voted ((s.actives g).all (·.pget pa))) ∧
  ∃ x y : Word,
    (∀ k < 32, x.getLsbD k = (s.actives g).any fun l => l.id == k && l.pget pa) ∧
    (∀ k < 32, y.getLsbD k = (s.actives g).any fun l => l.id == k + 32 && l.pget pa) ∧
    s.uni (.voteBallot sd pa g) (if some' then (if s.w.lanes.length = 64 then [(d, x), (d + 1, y)] else [(d, x)]) else []))

/-- R265 to R267: the shuffles and BCAST: an active lane takes va of its source lane when that is active in the same
issue, and its own va otherwise. -/
def Obligations.CrossLaneMoves : Prop := ∀ (s : State) (vd va vb sb d g : Nat),
  let W := s.w.lanes.length
  let take (l : Lane) (j : Nat) : List Word := match s.w.lanes[j]? with
    | some m => [if s.active g m then s.vget m va else s.vget l va]
    | none => [s.vget l va]
  s.vec (.shflIdx vd va vb g) g [vd] (fun l => take l ((s.opB l vb).toNat % W)) ∧
  s.vec (.shflUp vd va d g) g [vd] (fun l => if l.id < d then [s.vget l va] else take l (l.id - d)) ∧
  s.vec (.shflDown vd va d g) g [vd] (fun l => take l (l.id + d)) ∧
  s.vec (.shflXor vd va d g) g [vd] (fun l => take l (l.id ^^^ d)) ∧
  s.vec (.bcast vd va sb g) g [vd] (fun l => take l ((s.sfld 1 sb).toNat % W))

/-- R268: SCAN, SEGSCAN and RED: a lane's value is its segment's active lanes combined in ascending order from the
first, with it (inclusive) or without it (exclusive: the identity where nothing comes before). R98, R268: the combining
rules and identities. R269, R270: GLEAN hands the elements of the ragged tile, from (ROW, COL) on and rows of length 0
skipped, to its active lanes in ascending order, with zero and true past the end; the state goes on to the next element,
or to NROWS. A reserved bit of words 0 and 1, a misaligned offset and a first length outside shared memory trap, and
nothing is written; that these records give address 0 is the model's choice (log entry 46). It waits for the warp's far
acquires (R305). A length or an element that it reads and that has an uncorrectable error brings a machine check of the block
in its place (R399; that its effect is dropped is the model's choice, log entry 11). With no active lane it writes only what
R244 gives. -/
def Obligations.ScanWords : Prop :=
  (∀ (s : State) (vd va ps excl op g : Nat),
  let fold : List Lane → Word
    | [] => scanIdentity op
    | m :: r => r.foldl (fun a x => scanCombine op s.rm a (s.vget x va)) (scanCanon op (s.vget m va))
  let upTo (l : Lane) : List Lane := (s.actives g).take ((s.actives g).findIdx (·.id == l.id) + 1)
  let seg (l : Lane) : List Lane :=
    (upTo l).drop ((upTo l).length - 1 - ((upTo l).reverse.takeWhile fun m => !m.pget ps).length)
  s.vec (.scan vd va excl op g) g [vd] (fun l => [fold (if excl = 1 then (upTo l).dropLast else upTo l)]) ∧
  s.vec (.segscanIncl vd va ps op g) g [vd] (fun l => [fold (seg l)]) ∧
  s.vec (.segscanExcl vd va ps op g) g [vd] (fun l => [fold (seg l).dropLast]) ∧
  s.vec (.red vd va op g) g [vd] (fun _ => [fold (s.actives g)])) ∧
  (∀ (rm : Nat) (a x : Word),
  let f (r : XR) (m : Nat) : Word := BitVec.ofNat 32 (rtf r 0 m 0)
  scanCombine 0 rm a x = a + x ∧
  scanCombine 1 rm a x = f (XR.add (rm == 4) (f32 a) (f32 x)) rm ∧
  scanCombine 2 rm a x = BitVec.ofInt 32 (min a.toInt x.toInt) ∧
  scanCombine 3 rm a x = BitVec.ofNat 32 (min a.toNat x.toNat) ∧
  scanCombine 5 rm a x = BitVec.ofInt 32 (max a.toInt x.toInt) ∧
  scanCombine 6 rm a x = BitVec.ofNat 32 (max a.toNat x.toNat) ∧
  (∀ op ∈ [4, 7], f32 a = .nan → scanCombine op rm a x = if f32 x = .nan then 0x7FC00000 else x) ∧
  (∀ op ∈ [4, 7], f32 a ≠ .nan → f32 x = .nan → scanCombine op rm a x = a) ∧
  (XR.lt (f32 a) (f32 x) = true → scanCombine 4 rm a x = a ∧ scanCombine 7 rm a x = x) ∧
  (XR.lt (f32 x) (f32 a) = true → scanCombine 4 rm a x = x ∧ scanCombine 7 rm a x = a) ∧
  scanCombine 4 rm 0 0x80000000 = 0x80000000 ∧ scanCombine 4 rm 0x80000000 0 = 0x80000000 ∧
  scanCombine 7 rm 0 0x80000000 = 0 ∧ scanCombine 7 rm 0x80000000 0 = 0 ∧
  (∀ op ∈ [0, 2, 3, 5, 6], scanCombine op rm (scanIdentity op) x = x) ∧
  (∀ op ∈ [4, 7], f32 x ≠ .nan → scanCombine op rm (scanIdentity op) x = x) ∧
  (∀ op < 8, scanCanon op x = if (op = 1 ∨ op = 4 ∨ op = 7) ∧ f32 x = .nan then 0x7FC00000 else x)) ∧
  (∀ (s : State) (vd pd sa g : Nat), Ready (.glean vd pd sa g) s →
  let b := s.sname 1 sa
  let w (k : Nat) : Nat := (s.sget (b + k)).toNat
  let row := w 2 / 2 ^ 16
  let col := w 2 % 2 ^ 16
  let nrows := w 3 / 2 ^ 16
  let len (r : Nat) : Nat := s.loadNat .shared (w 0 + 2 * r) 2
  let addr (e : Nat × Nat) : Nat := w 1 + 4 * (e.1 * (w 3 % 2 ^ 16) + e.2)
  let tile : List (Nat × Nat) := (List.range (nrows - row)).flatMap fun r =>
    ((List.range (len (row + r))).filter fun c => decide (r ≠ 0 ∨ col ≤ c)).map fun c => (row + r, c)
  let n := (s.actives g).length
  let gave (l m : Lane) : Prop :=
    let v : Word × Bool := match tile[(s.actives g).findIdx (·.id == l.id)]? with
      | some e => (BitVec.ofNat 32 (s.loadNat .shared (addr e) 4), e.2 == 0)
      | none => (0, true)
    let out : Word × Bool := if s.active g l then v else if s.zi then (0, false) else (l.vraw vd, l.pget pd)
    m.pc = l.pc + 4 ∧ l.keeps m [vd] [pd] ∧
    ((s.w.windows.any fun y => y.covers l.id vd) = false → m.vraw vd = out.1) ∧
    m.pget pd = if pd = 0 then true else out.2
  let next : Nat × Nat := match tile[n]? with
    | some e => e
    | none => if row < nrows then (nrows, 0) else (row, col)
  let whole : Prop := (∀ r, row ≤ r → r ≤ next.1 → r < nrows → s.brokenAt (w 0 + 2 * r) 2 = false) ∧
    ∀ e ∈ tile.take n, s.brokenAt (addr e) 4 = false
  (n = 0 → Gives (exec (.glean vd pd sa g) s) fun t => RegStep s t s.blk [] gave) ∧
  (n ≠ 0 → 2 ^ 19 ≤ w 0 ∨ 2 ^ 19 ≤ w 1 → Traps s { cause := 0x22 } (exec (.glean vd pd sa g) s)) ∧
  (n ≠ 0 → w 0 < 2 ^ 19 → w 1 < 2 ^ 19 → w 0 % 2 ≠ 0 ∨ w 1 % 4 ≠ 0 →
    Traps s { cause := 0x20 } (exec (.glean vd pd sa g) s)) ∧
  (n ≠ 0 → w 0 < 2 ^ 19 → w 1 < 2 ^ 19 → w 0 % 2 = 0 → w 1 % 4 = 0 → row < nrows →
    s.acquires = [] → s.sharedSize < w 0 + 2 * row + 2 → Traps s { cause := 0x22 } (exec (.glean vd pd sa g) s)) ∧
  (n ≠ 0 → w 0 < 2 ^ 19 → w 1 < 2 ^ 19 → w 0 % 2 = 0 → w 1 % 4 = 0 → s.acquires ≠ [] →
    Stalls s (exec (.glean vd pd sa g) s)) ∧
  (n ≠ 0 → w 0 < 2 ^ 19 → w 1 < 2 ^ 19 → w 0 % 2 = 0 → w 1 % 4 = 0 → s.acquires = [] → w 0 + 2 * nrows ≤ s.sharedSize →
    (∀ e ∈ tile.take n, addr e + 4 ≤ s.sharedSize) →
    (whole → Gives (exec (.glean vd pd sa g) s) fun t =>
      RegStep s t s.blk [(b + 2, BitVec.ofNat 32 (next.1 * 2 ^ 16 + next.2))] gave) ∧
    (¬ whole → MachineChecks s (exec (.glean vd pd sa g) s))))

/-- R294, R297, R305: the on-chip loads, and SLD (R261): where every active lane's address, summed exactly, is a
multiple of the size and inside its space, and no far acquire of the warp is unanswered, each lane's registers take
the little-endian bytes the space gives it; with such an acquire the load waits. R181: a load from the Granary issues
one access a lane, in ascending order, whose value each lane's registers take when it is performed, and SLD issues one
access, whose value its uniform register takes then (when they read is the model's reading, log entry 45). R1, R298: a load reads each byte
from the youngest queued store that covers it, and from the space otherwise; the bytes of a number are little-endian.
R399: a load that reads a byte of shared memory with an uncorrectable error brings the machine check of its block (that its
effect is dropped is the model's choice, log entry 11). That a load with no active lane waits for acquires too is the model's
reading (log entry 33). -/
def Obligations.OnChipLoads : Prop :=
  (∀ (s : State) (vd va off g sd sa imm : Nat),
  let a (size : Nat) (l : Lane) : Nat := (s.vget l va).toNat + off * size
  let shared (b n : Nat) : Prop := b + n ≤ s.sharedSize
  let granary (b n : Nat) : Prop := s.granaryOk s.blk.grid s.dieNo b n = true
  let spill (b _n : Nat) : Prop := b < s.pkt.spl * 256
  let load (i : Instr) (sp : Lane → Space) (size : Nat) (ok : Nat → Nat → Prop) : Prop :=
    Ready i s → (∀ l ∈ s.actives g, a size l % size = 0 ∧ ok (a size l) size) →
    (s.acquires ≠ [] → Stalls s (exec i s)) ∧
    let whole : Prop := ∀ l ∈ s.actives g, sp l = .shared → s.brokenAt (a size l) size = false
    (s.acquires = [] → whole → Gives (exec i s) fun t => RegStep s t s.blk []
      (s.wroteV g (if size = 8 then [vd, vd + 1] else [vd]) fun l =>
        let word (k : Nat) : Word := BitVec.ofNat 32 (s.loadNat (sp l) (a size l + 4 * k) 4)
        if size = 8 then [word 0, word 1] else [word 0])) ∧
    (s.acquires = [] → ¬ whole → MachineChecks s (exec i s))
  let later (i : Instr) (size : Nat) : Prop :=
    Ready i s → (∀ l ∈ s.actives g, a size l % size = 0 ∧ granary (a size l) size) →
    (s.acquires ≠ [] → Stalls s (exec i s)) ∧
    (s.acquires = [] → Gives (exec i s) fun t =>
      let regs := if size = 8 then [vd, vd + 1] else [vd]
      RegStep { s with
        serial := s.serial + (s.actives g).length
        w := { s.w with gloads := s.w.gloads ++ (s.actives g).zipIdx.map fun x =>
          { serial := s.serial + x.2, lane := x.1.id, addr := a size x.1, size := size, reg := vd, dest := .lane
            whos := [s.threadOf x.1.id], clk := s.laterOf x.1.id [va] } } }
        t s.blk []
        (s.wroteV g regs fun l => regs.map l.vraw))
  let b := (s.sfld 2 sa).toNat + 4 * (s.immU imm).toNat
  load (.ldsB32 vd va off g) (fun _ => .shared) 4 shared ∧ load (.ldsB64 vd va off g) (fun _ => .shared) 8 shared ∧
  later (.ldgB32 vd va off g) 4 ∧ later (.ldgB64 vd va off g) 8 ∧
  load (.ldk vd va off g) (fun l => .spill l.id) 4 spill ∧
  (Ready (.sld sd sa imm) s → b % 4 = 0 → granary b 4 →
    (s.acquires ≠ [] → Stalls s (exec (.sld sd sa imm) s)) ∧
    (s.acquires = [] → Gives (exec (.sld sd sa imm) s) fun t => RegStep { s with
      serial := s.serial + 1
      w := { s.w with gloads := s.w.gloads ++
        [{ serial := s.serial, lane := 0, addr := b, size := 4, reg := s.sname 1 sd, dest := .uniform
           whos := s.issuing.map fun l => s.threadOf l.id
           clk := (s.issuing.map fun l => s.threadOf l.id).foldl (fun c w => joinClk c (s.order.pastOf w))
             (s.order.ofRegs (s.uKeys [s.sname 2 sa])) }] } } t s.blk []
      Lane.went))) ∧
  (∀ (s : State) (q : QStore) (sp : Space) (a n x : Nat),
  let t : State := { s with w := { s.w with queue := s.w.queue ++ [q] } }
  (q.space = sp → q.addr ≤ a → a < q.addr + q.bytes.length → t.loadByte sp a = q.bytes.getD (a - q.addr) 0) ∧
  (q.space ≠ sp ∨ a < q.addr ∨ q.addr + q.bytes.length ≤ a → t.loadByte sp a = s.loadByte sp a) ∧
  (s.w.queue = [] → s.loadByte sp a = s.rawByte sp a) ∧
  (q.space = sp → q.addr = a → q.bytes = leBytes n x → t.loadNat sp a n = x % 256 ^ n) ∧
  s.loadNat sp a (n + 1) = (s.loadByte sp a).toNat + 256 * s.loadNat sp (a + 1) n)

/-- R294, R297, R298: the on-chip stores: where every active lane's address is a multiple of the size and inside its
space, each lane's store enters the warp's queue, in ascending lane order and behind those in it, with what it hands on in the
model's own record of orders (log entry 42); no byte of any memory changes yet, and no register. R68 to R70, R261, R294: where
an on-chip access traps: alignment for every active lane before the range of its space, the record naming the lowest-numbered
lane that fails, with its address; SLD's record names its summed address and the lowest-numbered issuing lane. -/
def Obligations.OnChipStores : Prop :=
  (∀ (s : State) (vs va off g : Nat),
  let a (size : Nat) (l : Lane) : Nat := (s.vget l va).toNat + off * size
  let shared (b n : Nat) : Prop := b + n ≤ s.sharedSize
  let granary (b n : Nat) : Prop := s.granaryOk s.blk.grid s.dieNo b n = true
  let spill (b _n : Nat) : Prop := b < s.pkt.spl * 256
  let data (size : Nat) (l : Lane) : Nat :=
    (s.vget l vs).toNat + if size = 8 then 2 ^ 32 * (s.vget l (vs + 1)).toNat else 0
  let store (i : Instr) (sp : Lane → Space) (size : Nat) (ok : Nat → Nat → Prop) : Prop :=
    Ready i s → (∀ l ∈ s.actives g, a size l % size = 0 ∧ ok (a size l) size) →
    Gives (exec i s) fun t => ∃ hands : Nat → SMap Nat, RegStep { s with
      serial := s.serial + (s.actives g).length
      w := { s.w with queue := s.w.queue ++ (s.actives g).zipIdx.map fun x =>
        { serial := s.serial + x.2, space := sp x.1, addr := a size x.1, bytes := leBytes size (data size x.1),
          after := s.acquires, op := none, who := s.threadOf x.1.id, clk := hands x.2 } } }
      t s.blk [] Lane.went
  store (.stsB32 vs va off g) (fun _ => .shared) 4 shared ∧ store (.stsB64 vs va off g) (fun _ => .shared) 8 shared ∧
  store (.stgB32 vs va off g) (fun _ => .granary s.dieNo) 4 granary ∧
  store (.stgB64 vs va off g) (fun _ => .granary s.dieNo) 8 granary ∧
  store (.stk vs va off g) (fun l => .spill l.id) 4 spill) ∧
  (∀ (s : State) (vd va off op ty g sd sa imm : Nat),
  let a (off size : Nat) (l : Lane) : Nat := (s.vget l va).toNat + off * size
  let shared (b n : Nat) : Bool := decide (b + n ≤ s.sharedSize)
  let granary (b n : Nat) : Bool := s.granaryOk s.blk.grid s.dieNo b n
  let spill (b _n : Nat) : Bool := decide (b < s.pkt.spl * 256)
  let trap (i : Instr) (off size cause : Nat) (ok : Nat → Nat → Bool) : Prop := Ready i s → ∀ l : Lane,
    ((s.actives g).find? (fun l => a off size l % size != 0) = some l →
      Traps s { cause := 0x20, addr := a off size l, mask := some (2 ^ l.id) } (exec i s)) ∧
    ((∀ m ∈ s.actives g, a off size m % size = 0) → (s.actives g).find? (fun l => !ok (a off size l) size) = some l →
      Traps s { cause := cause, addr := a off size l, mask := some (2 ^ l.id) } (exec i s))
  let b := (s.sfld 2 sa).toNat + 4 * (s.immU imm).toNat
  trap (.ldsB32 vd va off g) off 4 0x22 shared ∧ trap (.ldsB64 vd va off g) off 8 0x22 shared ∧
  trap (.stsB32 vd va off g) off 4 0x22 shared ∧ trap (.stsB64 vd va off g) off 8 0x22 shared ∧
  trap (.ldgB32 vd va off g) off 4 0x23 granary ∧ trap (.ldgB64 vd va off g) off 8 0x23 granary ∧
  trap (.stgB32 vd va off g) off 4 0x23 granary ∧ trap (.stgB64 vd va off g) off 8 0x23 granary ∧
  trap (.ldk vd va off g) off 4 0x21 spill ∧ trap (.stk vd va off g) off 4 0x21 spill ∧
  trap (.atom vd va op 0 ty g) 0 4 0x22 shared ∧ trap (.atom vd va op 1 ty g) 0 4 0x23 granary ∧
  (∀ l : Lane, Ready (.sld sd sa imm) s → s.lead = some l →
    (b % 4 ≠ 0 → Traps s { cause := 0x20, addr := b, mask := some (2 ^ l.id) } (exec (.sld sd sa imm) s)) ∧
    (b % 4 = 0 → granary b 4 = false → Traps s { cause := 0x23, addr := b, mask := some (2 ^ l.id) } (exec (.sld sd sa imm) s))))

/-- R73, R300 to R302: ATOM waits for the warp's store queue, for its loads (the model's reading, log entry 45) and for
its far acquires (R305); then its lanes' read-modify-writes are made one after another in ascending order, and each
lane takes the old value it found; where a word that it reads of shared memory has an uncorrectable error, the machine check
of its block comes instead (R399; log entry 11). R26, R134, R302: what one store of an ATOM changes: the bytes it names and no others,
but for a hurdle that threads have reached where no order covers it (which orders count: log entry 42), which becomes
undefined; bytes that a copy may be landing become undefined. R301: the function of the atomics: 0 add, 1 min, 2 max, 3 and, 4 or, 5 xor, 6 exchange, 7 compare and swap,
on types 0 .n32, 1 .i32, 2 .n64 and 3 .f32. -/
def Obligations.OnChipAtomics : Prop :=
  (∀ (s : State) (vd va op sp ty g : Nat), sp < 2 →
  let i : Instr := .atom vd va op sp ty g
  let space : Space := if sp = 0 then .shared else .granary s.dieNo
  let a (l : Lane) : Nat := (s.vget l va).toNat
  let inside (b : Nat) : Prop :=
    if sp = 0 then b + 4 ≤ s.sharedSize else s.granaryOk s.blk.grid s.dieNo b 4 = true
  let one (x : State × List (Nat × Nat)) (l : Lane) : State × List (Nat × Nat) :=
    let old := x.1.loadNat space (a l) 4
    let new := atomOp op (if ty = 2 then 3 else ty) old (s.vget l vd).toNat (s.vget l (vd + 1)).toNat
    let from' : List Nat := va :: if op = 7 then [vd, vd + 1] else [vd]
    let y := x.1.heardWord space l.id (a l) from' vd
    let clk := joinClk (y.orderOf space l.id from') (y.order.handed (x.1.keysOf space (a l) 4))
    ((y.storeTo (s.threadOf l.id) clk space (a l) (leBytes 4 new)).stores l.id space clk, x.2 ++ [(l.id, old)])
  let done := (s.actives g).foldl one (s, [])
  Ready i s → (∀ l ∈ s.actives g, a l % 4 = 0 ∧ inside (a l)) →
  (s.w.queue ≠ [] ∨ s.w.gloads ≠ [] ∨ s.acquires ≠ [] → Stalls s (exec i s)) ∧
  let whole : Prop := sp = 0 → ∀ l ∈ s.actives g, s.brokenAt (a l) 4 = false
  (s.w.queue = [] → s.w.gloads = [] → s.acquires = [] → ¬ whole → MachineChecks s (exec i s)) ∧
  (s.w.queue = [] → s.w.gloads = [] → s.acquires = [] → whole → Gives (exec i s) fun t =>
    RegStep done.1 t done.1.blk [] (s.wroteV g [vd] fun l => [BitVec.ofNat 32 ((done.2.lookup l.id).getD 0)]))) ∧
  (∀ (s : State) (who : Nat) (clk : SMap Nat) (sp sp' : Space) (a b : Nat) (bs : List Byte),
  let t := s.storeTo who clk sp a bs
  let reached (u : Nat) : Prop := u % 8 = 0 ∧ s.order.inUse (s.unitKey u) clk = true ∧ a < u + 8 ∧ u < a + bs.length
  let landing (b : Nat) : Bool := s.copies.any fun c => c.lands s.blk.key sp b
  t.others = { s with dies := t.dies, copies := t.copies }.others ∧
  t.copies = s.copies.map (fun c => c.spoil s.blk.key sp a bs.length) ∧
  (sp' ≠ sp → t.rawByte sp' b = s.rawByte sp' b) ∧
  (b < a ∨ a + bs.length ≤ b → (sp = .shared → ∀ u, reached u → b < u ∨ u + 8 ≤ b) →
    t.rawByte sp b = s.rawByte sp b) ∧
  (a ≤ b → b < a + bs.length → landing b = false → (sp = .shared → ∀ u, reached u → b < u ∨ u + 8 ≤ b) →
    (∀ d, sp = .granary d → d < s.dies.length) → (∀ k, sp = .spill k → k < s.w.lanes.length) →
    t.rawByte sp b = bs.getD (b - a) 0)) ∧
  (∀ (ty old x y : Nat), ty < 4 →
  let n := if ty = 2 then 64 else 32
  let i (v : Nat) : Int := (BitVec.ofNat 32 v).toInt
  old < 2 ^ n → x < 2 ^ n → y < 2 ^ n →
  (ty < 3 → atomOp 0 ty old x y = (old + x) % 2 ^ n ∧ atomOp 3 ty old x y = old &&& x ∧
    atomOp 4 ty old x y = old ||| x ∧ atomOp 5 ty old x y = old ^^^ x ∧
    atomOp 7 ty old x y = if old = x then y else old) ∧
  (ty = 0 ∨ ty = 2 → atomOp 1 ty old x y = min old x ∧ atomOp 2 ty old x y = max old x) ∧
  (ty = 1 → i (atomOp 1 ty old x y) = min (i old) (i x) ∧ i (atomOp 2 ty old x y) = max (i old) (i x) ∧
    (∀ op ∈ [1, 2], atomOp op ty old x y = old ∨ atomOp op ty old x y = x)) ∧
  (ty = 3 →
    atomOp 0 ty old x y = rtf (XR.add false (decodeFmt 0 old) (decodeFmt 0 x)) 0 1 0 ∧
    (∀ op ∈ [1, 2], decodeFmt 0 old = .nan → decodeFmt 0 x = .nan → atomOp op ty old x y = 0x7FC00000) ∧
    (∀ op ∈ [1, 2], decodeFmt 0 old = .nan → decodeFmt 0 x ≠ .nan → atomOp op ty old x y = x) ∧
    (∀ op ∈ [1, 2], decodeFmt 0 old ≠ .nan → decodeFmt 0 x = .nan → atomOp op ty old x y = old) ∧
    (XR.lt (decodeFmt 0 old) (decodeFmt 0 x) = true → atomOp 1 ty old x y = old ∧ atomOp 2 ty old x y = x) ∧
    (XR.lt (decodeFmt 0 x) (decodeFmt 0 old) = true → atomOp 1 ty old x y = x ∧ atomOp 2 ty old x y = old)) ∧
  atomOp 6 ty old x y = x)

/-- R159, R251, R303 to R307: the far instructions: where every issuing lane's address is aligned, below 2^57, not held
by a shootdown and translated, the flag is marked, a far load clears its lanes' arrival bits and leaves their
destinations undefined until its replies, and the line accesses join the far-access unit's, in order; no byte of memory
changes yet, and no register (but for a destination inside a window of R124). R159: the lanes of a far instruction that
touch one 64-byte line go together: every lane is in one group, a group holds one line, two groups never hold the same
line, and lanes of a group keep their order. -/
def Obligations.FarIssues : Prop :=
  (∀ (s : State) (v va cls scope fs sz set op ty : Nat),
  let a (l : Lane) : Nat := (s.vget l va).toNat + 2 ^ 32 * (s.vget l (va + 1)).toNat
  let data (size n : Nat) (l : Lane) : Nat :=
    ((s.vget l n).toNat + if size = 8 then 2 ^ 32 * (s.vget l (n + 1)).toNat else 0) % 2 ^ (8 * size)
  let base : FarAcc :=
    { id := 0, op := s.serial, grid := s.blk.grid, blk := s.blk.key, wid := s.w.wid, core := s.core, kind := 0, cls := cls,
      scope := scope, set := 0, flag := s.fsFlag fs, loc := 0, size := 0, aop := 0, aty := 0, lanes := [], got := [], stage := 0,
      acked := false, st := 0, after := s.acquires.filter (· < s.serial), queueTo := 0, born := none, clk := [] }
  let sends (i : Instr) (need size : Nat) (loads : Bool) (named regs : List Nat)
      (accs : (Lane → Nat) → List FarAcc) : Prop := ∀ loc : Lane → Nat, Ready i s →
    (∀ l ∈ s.issuing, a l % size = 0 ∧ a l < 2 ^ 57 ∧ s.heldVa s.dieNo s.blk.tenant (a l) = false ∧
      s.translate s.dieNo s.blk.tenant need (a l) = .ok (loc l)) →
    let w' : Warp := match s.fsFlag fs with
      | none => s.w
      | some k =>
        let w := s.w.mark k s.serial false
        { w with
          pend := s.w.pend ++ s.issuing.flatMap fun l => regs.map fun n => ⟨s.serial, l.id, n⟩
          lanes := w.lanes.map fun l => if loads && s.issues l then l.setArrival k false else l }
    let xs := accs loc
    Gives (exec i s) fun t => RegStep { s with
      serial := s.serial + 1 + xs.length
      tlb := t.tlb
      farQ := s.farQ ++ xs.zipIdx.map fun x => { x.1 with
        id := s.serial + 1 + x.2
        clk := x.1.lanes.map fun l => (l.1, s.threadOf l.1, s.comesAfter
          ⟨x.1.kind, cls, scope, x.1.set, x.1.flag, x.1.size, x.1.aop, x.1.aty⟩ l.1 named) }
      w := w' } t s.blk [] (s.wroteV 0 regs fun l => regs.map l.vraw)
  let lines (loc : Lane → Nat) (f : Lane → Nat × Nat × Nat) (b : FarAcc) : List FarAcc :=
    (byLine (s.issuing.map fun l => (l.id, loc l))).map fun g =>
      { b with
        loc := (g.head?.map (·.2)).getD 0
        lanes := g.map fun x => (x.1, x.2, ((s.issuing.find? (·.id == x.1)).map f).getD (0, 0, 0)) }
  let pair (size d : Nat) : List Nat := if size = 8 then [d, d + 1] else [d]
  let size := 2 ^ sz
  let asize := if ty = 2 then 8 else 4
  s.w.lanes.Pairwise (fun l m => l.id < m.id) → (∀ l ∈ s.w.lanes, s.w.lanes[l.id]? = some l) →
  sends (.fld v va cls scope fs sz) 0 size true [va, va + 1] (pair size v)
    (fun loc => lines loc (fun _ => (v, 0, 0)) { base with size := size }) ∧
  sends (.fldacq v va cls scope fs sz) 0 size true [va, va + 1] (pair size v)
    (fun loc => lines loc (fun _ => (v, 0, 0)) { base with kind := 1, size := size }) ∧
  sends (.fst v va cls scope fs sz) 1 size false ([va, va + 1] ++ pair size v) []
    (fun loc => lines loc (fun l => (0, data size v l, 0)) { base with kind := 2, size := size }) ∧
  sends (.fstrel v va cls scope fs set) 1 4 false [va, va + 1, v] []
    (fun loc => lines loc (fun l => (0, data 4 v l, 0)) { base with kind := 3, set := set, size := 4, queueTo := s.serial }) ∧
  sends (.fatom v va cls scope fs op ty) 2 asize false
    ([va, va + 1] ++ (List.range (asize / 4 * if op = 7 then 2 else 1)).map (v + ·)) (pair asize v)
    (fun loc => s.issuing.map fun l => { base with
      kind := 4, loc := loc l, size := asize, aop := op, aty := ty
      lanes := [(l.id, loc l, v, data asize v l, data asize (v + asize / 4) l)] })) ∧
  (∀ xs : List (Nat × Nat),
  ((byLine xs).flatten.Perm xs) ∧ (∀ g ∈ byLine xs, g ≠ [] ∧ g.Sublist xs ∧ ∀ x ∈ g, ∀ y ∈ g, lineOf x.2 = lineOf y.2) ∧
  (byLine xs).Pairwise fun g h => ∀ x ∈ g, ∀ y ∈ h, lineOf x.2 ≠ lineOf y.2)

/-- R159, R294, R395, R397: where a far instruction traps or waits: alignment, bits [63:57], a page that a shootdown
holds, translation, each for every lane before the next; the record names the lowest-numbered lane that fails. -/
def Obligations.FarTraps : Prop := ∀ (s : State) (v va sb cls scope fs sz set op ty g : Nat),
  let a (l : Lane) : Nat := (s.vget l va).toNat + 2 ^ 32 * (s.vget l (va + 1)).toNat
  let guarded := s.issuing.filter (·.pget g)
  let trap (i : Instr) (ls : List Lane) (size need : Nat) : Prop := Ready i s → ∀ l : Lane,
    (ls.find? (fun l => a l % size != 0) = some l →
      Traps s { cause := 0x20, addr := a l, mask := some (2 ^ l.id) } (exec i s)) ∧
    ((∀ m ∈ ls, a m % size = 0) → ls.find? (fun l => decide (2 ^ 57 ≤ a l)) = some l →
      Traps s { cause := 0x24, addr := a l, mask := some (2 ^ l.id) } (exec i s)) ∧
    ((∀ m ∈ ls, a m % size = 0 ∧ a m < 2 ^ 57) →
      (∃ m ∈ ls, s.heldVa s.dieNo s.blk.tenant (a m) = true) → Stalls s (exec i s)) ∧
    ∀ d lc, (∀ m ∈ ls, a m % size = 0 ∧ a m < 2 ^ 57 ∧ s.heldVa s.dieNo s.blk.tenant (a m) = false) →
      ls.find? (fun l => (match s.translate s.dieNo s.blk.tenant need (a l) with | .ok _ => false | .bad .. => true)) =
        some l →
      s.translate s.dieNo s.blk.tenant need (a l) = .bad d lc →
      Traps s { cause := 0x25, detail := d, addr := a l, loc := lc, mask := some (2 ^ l.id) } (exec i s)
  trap (.fld v va cls scope fs sz) s.issuing (2 ^ sz) 0 ∧ trap (.fldacq v va cls scope fs sz) s.issuing (2 ^ sz) 0 ∧
  trap (.fst v va cls scope fs sz) s.issuing (2 ^ sz) 1 ∧ trap (.fstrel v va cls scope fs set) s.issuing 4 1 ∧
  trap (.fatom v va cls scope fs op ty) s.issuing (if ty = 2 then 8 else 4) 2 ∧
  trap (.waitstFar va sb g) guarded 8 0

/-- R169, R171, R174, R308: FNC goes on once every far access of the warp in its classes that issued before the FNC did
first is completed at its scope, where its line is at home now (R188), and the warp's store queue is empty; it stalls
until then, and its lanes keep when they issued it. -/
def Obligations.Fences : Prop := ∀ (s : State) (set scope : Nat),
  let first (l : Lane) : Nat := l.hint.fence.getD s.serial
  let covered (x : FarAcc) : Prop := x.blk = s.blk.key ∧ x.wid = s.w.wid ∧ (∃ l ∈ s.issuing, x.id < first l) ∧
    (x.cls = 0 ∧ set / 4 % 2 = 1 ∨ x.cls = 1 ∧ set / 2 % 2 = 1 ∨ x.cls = 2 ∧ set % 2 = 1)
  let landed (x : FarAcc) : Prop :=
    if s.home x.loc < 2 ^ 47 then 2 ≤ x.stage
    else if scope < 4 then True
    else if s.home x.loc / 2 ^ 58 = 2 then 1 ≤ x.stage ∧ (scope = 4 ∨ ∀ q ∈ s.hostQ, q.1 ≠ x.id)
    else 2 ≤ x.stage
  let complete (x : FarAcc) : Prop :=
    if x.kind = 2 ∨ x.kind = 3 then landed x else x.acked = true ∧ (x.kind = 4 → landed x)
  (∀ x ∈ s.farQ, x.cls < 3) → Ready (.fnc set scope) s →
  ((∀ x ∈ s.farQ, covered x → complete x) ∧ s.w.queue = [] →
    Gives (exec (.fnc set scope) s) fun t => RegStep s t s.blk [] Lane.went) ∧
  ((∃ x ∈ s.farQ, covered x ∧ ¬ complete x) ∨ s.w.queue ≠ [] → Gives (exec (.fnc set scope) s) fun t =>
    t.stalled = true ∧ RegStep s t s.blk [] fun l m => m = { l with hint := { l.hint with fence := some (first l) } })

/-- R25, R26, R309 to R311: the hurdles. An arrival adds its count and completes at most one phase, flipping PH and
carrying the excess; a wait goes on where PH is not its phase and stalls where it is. Either waits for far acquires
(R183, R305), an arrival for the store queue and for the warp's loads too (for loads: the model's reading, log entry
45); a reserved bit or an EXP of 0 traps. A hurdle that a store has met, with no order between them (which orders
count: log entry 42), is undefined; only its 8 bytes are. One that has an uncorrectable error brings the machine check of the
block (R399; log entry 11). With no active lane they do nothing. R312: at a BARB each active lane arrives, standing at it, and the others go on. -/
def Obligations.HurdlesAndBarrier : Prop :=
  (∀ (s : State) (va sb count g : Nat) (l : Lane),
  let arrive : Instr := .hurdleArrive va count g
  let wait : Instr := .hurdleWait va sb g
  let guarded := s.issuing.filter (·.pget g)
  let a := (s.vget l va).toNat
  let whos := guarded.map fun m => s.threadOf m.id
  let c := (s.behindAt g va).contend whos a
  let whole : Prop := s.brokenAt a 8 = false
  let h := c.loadNat .shared a 8
  let ph := h / 2 ^ 32 % 2
  let new (e sum p : Nat) : Nat :=
    if sum < e then p * 2 ^ 32 + sum * 2 ^ 16 + e else (1 - p) * 2 ^ 32 + (sum - e) % 2 ^ 16 * 2 ^ 16 + e
  let good := h < 2 ^ 33 ∧ h % 2 ^ 16 ≠ 0
  let hit := ((c.touch whos a).handOn whos a).poke .shared a
    (leBytes 8 (new (h % 2 ^ 16) (h / 2 ^ 16 % 2 ^ 16 + count) ph))
  let passed := (c.touch whos a).passHurdle whos a
  (guarded = [] → s.lanesOnly arrive Lane.went ∧ s.lanesOnly wait Lane.went) ∧
  (guarded.head? = some l → ∀ i, i = arrive ∨ i = wait → Ready i s →
    (a % 8 ≠ 0 → Traps s { cause := 0x20, addr := a, mask := some (2 ^ l.id) } (exec i s)) ∧
    (a % 8 = 0 → s.sharedSize < a + 8 → Traps s { cause := 0x22, addr := a, mask := some (2 ^ l.id) } (exec i s)) ∧
    (a % 8 = 0 → a + 8 ≤ s.sharedSize →
      (s.acquires ≠ [] ∨ i = arrive ∧ (s.w.queue ≠ [] ∨ s.w.gloads ≠ []) → Stalls s (exec i s)) ∧
      (s.acquires = [] → (i = arrive → s.w.queue = [] ∧ s.w.gloads = []) →
        (¬ whole → MachineChecks s (exec i s)) ∧
        (whole → ¬ good → Traps s { cause := 0x26, addr := a, mask := some (2 ^ l.id) } (exec i s))))) ∧
  (guarded.head? = some l → a % 8 = 0 → a + 8 ≤ s.sharedSize → s.acquires = [] → whole → good →
    (Ready arrive s → s.w.queue = [] → s.w.gloads = [] →
      Gives (exec arrive s) fun t => RegStep hit t hit.blk [] Lane.went) ∧
    (Ready wait s → (s.sfld 1 sb).toNat % 2 ≠ ph →
      Gives (exec wait s) fun t => RegStep passed t passed.blk [] Lane.went) ∧
    (Ready wait s → (s.sfld 1 sb).toNat % 2 = ph → exec wait s = .next { (c.touch whos a).hearHurdle whos a with stalled := true }))) ∧
  (∀ (s : State) (whos : List Nat) (a b g va : Nat),
  (s.order.unmet (s.unitKey a) whos = false → s.contend whos a = s) ∧
  (s.contend whos a).others = s.others ∧ (s.contend whos a).w = s.w ∧
  (b < a ∨ a + 8 ≤ b → (s.contend whos a).rawByte .shared b = s.rawByte .shared b) ∧
  ∀ t ∈ [s.behindAt g va, s.touch whos a, s.handOn whos a, s.hearHurdle whos a, s.passHurdle whos a], t = { s with order := t.order }) ∧
  (∀ (s : State) (g : Nat), Ready (.barb g) s →
  Gives (exec (.barb g) s) fun t => RegStep { s with serial := s.serial + 1 } t s.blk [] fun l m =>
    m = if l.pget g then { l with arrived := some s.serial } else l.next)

/-- R135, R313: WAITST goes on once every active lane's stamp has reached or passed the expected sequence number
modulo 2^48, whatever its status field, and stalls until then, as it does while a load of its own warp from the
stamp's bytes is still to be performed (the model's reading, log entry 45) and while a far acquire of the warp is
unanswered (R305; with no active lane too, log entry 33). A stamp in shared memory that has an uncorrectable error brings the
machine check of the block (R399; log entry 11). A far stamp is read once the warp's read may be performed; a read that nothing
answers is noted, and after the system timeout it is given up and made again (the model's choice, log entry 43). R134, R315: LAND
goes on once no landing or source permit of the block overlaps its range, at once for an empty range, and stalls until
then, noting the copies that hold it, which its warp's later accesses come after; a reserved field and a range outside its space
trap (that the record's address is the range's offset is the model's choice, log entry 46). -/
def Obligations.StampWaits : Prop :=
  (∀ (s : State) (va sb g : Nat),
  let guarded := s.issuing.filter (·.pget g)
  let e := (s.sfld 1 sb).toNat + 2 ^ 32 * ((s.sget (s.sname 1 sb + 1)).toNat % 2 ^ 16)
  let reached (stamp : Nat) : Prop := (stamp / 2 ^ 16 + 2 ^ 48 - e) % 2 ^ 48 < 2 ^ 47
  let a (l : Lane) : Nat := (s.vget l va).toNat
  let far (l : Lane) : Nat := a l + 2 ^ 32 * (s.vget l (va + 1)).toNat
  let waits (i : Instr) (sp : Space) (inside : Nat → Prop) : Prop := Ready i s →
    (∀ l ∈ guarded, a l % 8 = 0 ∧ inside (a l)) →
    let whole : Prop := sp = .shared → ∀ l ∈ guarded, s.brokenAt (a l) 8 = false
    (s.acquires = [] → ¬ whole → MachineChecks s (exec i s)) ∧
    (s.acquires = [] → whole → (∀ l ∈ guarded, s.awaitsAt sp (a l) 8 = false ∧ reached (s.loadNat sp (a l) 8)) →
      Gives (exec i s) fun t => RegStep s t s.blk [] Lane.went) ∧
    (s.acquires ≠ [] ∨ whole ∧ (∃ l ∈ guarded, s.awaitsAt sp (a l) 8 = true ∨ ¬ reached (s.loadNat sp (a l) 8)) →
      Stalls s (exec i s))
  waits (.waitst va sb g) .shared (fun b => b + 8 ≤ s.sharedSize) ∧
  waits (.waitstGranary va sb g) (.granary s.dieNo) (fun b => s.granaryOk s.blk.grid s.dieNo b 8 = true) ∧
  ∀ loc : Lane → Nat, Ready (.waitstFar va sb g) s →
    (∀ l ∈ guarded, far l % 8 = 0 ∧ far l < 2 ^ 57 ∧ s.heldVa s.dieNo s.blk.tenant (far l) = false ∧
      s.translate s.dieNo s.blk.tenant 0 (far l) = .ok (loc l)) →
    let dead := s.stampsDead (guarded.map fun l => (l.id, far l))
    let marks (x : Option Sent) (l m : Lane) : Prop := m = { l with hint := { l.hint with sent := x } }
    (∀ x, s.wordSent = some x →
      (s.timeUp s.dieNo x.since = false → Stalls s (exec (.waitstFar va sb g) s)) ∧
      (s.timeUp s.dieNo x.since = true → Gives (exec (.waitstFar va sb g) s) fun t =>
        t.stalled = true ∧ RegStep s t s.blk [] (marks none))) ∧
    (s.wordSent = none →
      (dead ≠ [] → Gives (exec (.waitstFar va sb g) s) fun t => t.stalled = true ∧
        RegStep { s with tlb := t.tlb } t s.blk [] (marks (s.noteSent none s.dieNo 0 dead))) ∧
      (dead = [] → (∀ l ∈ guarded, s.readFree (loc l) = true ∧ reached (s.farNat (loc l) 8)) →
        Gives (exec (.waitstFar va sb g) s) fun t => RegStep { s with
          tlb := t.tlb, hostSeen := (s.sawHost (guarded.map fun l => (loc l, 8))).hostSeen } t s.blk [] Lane.went) ∧
      (dead = [] → (∃ l ∈ guarded, s.readFree (loc l) = false ∨ ¬ reached (s.farNat (loc l) 8)) →
        Gives (exec (.waitstFar va sb g) s) fun t => t = { s with tlb := t.tlb, stalled := true }))) ∧
  (∀ (s : State) (sa : Nat), Ready (.land sa) s →
  let w0 := (s.sget (s.sname 1 sa)).toNat
  let w1 := (s.sget (s.sname 1 sa + 1)).toNat
  let sp := w0 / 2 ^ 30
  let off := w0 % 2 ^ 27
  let len := w1 % 2 ^ 28
  let r := exec (.land sa) s
  let good := sp < 2 ∧ w0 / 2 ^ 27 % 8 = 0 ∧ w1 / 2 ^ 28 = 0
  let inside := if sp = 0 then off + len ≤ s.sharedSize else s.granaryOk s.blk.grid s.dieNo off len = true
  let meets (x : Int × Int) : Prop := x.1 ≤ off + len - 1 ∧ (off : Int) ≤ x.2
  let holds (c : Copy) : Prop := c.blk = s.blk.key ∧
    (c.landOn = true ∧ c.walk.dsp = sp ∧ meets c.walk.dstRange ∨ c.srcOn = true ∧ c.walk.ssp = sp ∧ meets c.walk.srcRange)
  let held := ∃ c ∈ s.copies, holds c
  let waited := s.issuing.flatMap fun l => l.hint.land
  (¬ good → Traps s { cause := 0x27 } r) ∧
  (good → len ≠ 0 → ¬ inside → Traps s { cause := if sp = 0 then 0x22 else 0x23, addr := off } r) ∧
  (good → len = 0 → Gives r fun t => RegStep s t s.blk [] Lane.went) ∧
  (good → len ≠ 0 → inside → ¬ held → Gives r fun t => RegStep { s with w := { s.w with
    landed := if waited = [] then s.w.landed else (s.w.landed.filter fun c => s.copies.any (·.id == c)) ++ waited } } t s.blk []
    Lane.went) ∧
  (good → len ≠ 0 → inside → held → Gives r fun t => t.stalled = true ∧ ∃ ids : List Nat, (∀ c ∈ s.copies, holds c → c.id ∈ ids) ∧
    (∀ i ∈ ids, ∃ c ∈ s.copies, c.id = i ∧ holds c) ∧ RegStep s t s.blk [] fun l m =>
      m = { l with hint := { l.hint with land := l.hint.land ++ ids.filter fun i => !l.hint.land.contains i } }))

/-- R46, R47, R56, R215, R408: a clause header: inside a clause or with a reserved field it traps; with RCV and a live
lane of its warp behind it, its lanes wait; until its flags are clear it stalls; with YLD it gives way once, under
GTO, to another warp that is ready (slot A only, and once a clock: log entry 7); otherwise its lanes enter the clause,
and the windows of the flags it waited on end. R408: the first wait of the block on a flag that a cube-family word
marked before an engine reset takes trap 0x34 there, once for the block: at a clause header's WAIT mask and at WAITF.
-/
def Obligations.ClauseHeaders : Prop :=
  (∀ (s : State) (wait seta setb len yld rcv : Nat) (l : Lane),
  let i : Instr := .clauseHeader wait seta setb len yld rcv
  let behind := ∃ m ∈ s.w.lanes, m.st ≠ .exited ∧ m.st ≠ .vacant ∧
    (l.depth < m.depth ∨ m.depth = l.depth ∧ m.pc.toNat < l.pc.toNat)
  let clear := ∀ k < 12, wait.testBit k = true → (s.w.seen.flag k).ops = []
  let waiting := rcv = 1 ∧ behind
  let yields := yld = 1 ∧ (∀ m ∈ s.issuing, m.yielded = false) ∧ (s.w.second = 0 ∨ s.im ≠ s.w.second) ∧ s.coreRR s.core = false ∧
    (s.issueOf s.core s.w.part s.w.half).given = none ∧ s.otherReady = true
  s.cur.isSome = true → s.lead = some l →
  (l.clause ≠ none ∨ i.wf = false → Traps s { cause := 0x10 } (exec i s)) ∧
  (l.clause = none → i.wf = true →
    (waiting → Gives (exec i s) fun t => RegStep s t s.blk [] fun l m => m = { l with st := .waiting }) ∧
    (¬ waiting → s.accTrap wait = false →
      (¬ clear ∨ s.free (l.pc + 4) = false → Stalls s (exec i s)) ∧
      (clear → s.free (l.pc + 4) = true → yields → Gives (exec i s) fun t =>
        t.others = { s with issue := t.issue }.others ∧ t.blk = s.blk ∧ t.stalled = true ∧
        t.w = { s.w with lanes := s.w.lanes.map fun m => if s.issues m then { m with yielded := true } else m }) ∧
      (clear → s.free (l.pc + 4) = true → ¬ yields → Gives (exec i s) fun t => RegStep { s with
        w := { s.w with windows := s.w.windows.filter (fun x => !wait.testBit x.flag) } } t s.blk []
          fun l m => m = { l with pc := l.pc + 4, clause := some ⟨seta, setb, len + 1, wait⟩, hint := {}, yielded := false })))) ∧
  (∀ (s : State) (wait seta setb len yld rcv msk g : Nat) (l : Lane),
  let i : Instr := .clauseHeader wait seta setb len yld rcv
  let lost (m : Nat) : Prop := s.blk.accLost = true ∧ ∃ k < 12, m.testBit k = true ∧ (s.w.flag k).lost = true
  let s' : State := { s with blk := { s.blk with accLost := false } }
  (s.cur.isSome = true → s.lead = some l → l.clause = none → i.wf = true → lost wait →
    rcv = 0 ∨ s.w.anyBehind l.depth l.pc = false → Traps s' { cause := 0x34 } (exec i s)) ∧
  (Ready (.waitf msk g) s → s.acts g = true → lost msk → Traps s' { cause := 0x34 } (exec (.waitf msk g) s)))

/-- R217, R223, R245, R249: the branches. A target is a clause header of the same overlay, counted in words from the
next word; a word outside traps 0x14, a word that is no header 0x10. BRA moves the active lanes, BRU all or none, CALL
pushes the next word's PC, LOOPN counts once per issue. The other issuing lanes go on to the next word. -/
def Obligations.Branches : Prop := ∀ (s : State) (sa off g : Nat),
  let pc := s.pc.toNat
  let at' (k : Nat) : Int := (pc % 2 ^ 24 / 4 : Nat) + 1 + (BitVec.ofNat k off).toInt
  let tgt (k : Nat) : Word := BitVec.ofNat 32 (pc / 2 ^ 24 * 2 ^ 24 + (at' k).toNat * 4)
  let header (k : Nat) : Prop := 0 ≤ at' k ∧ ∃ w, s.fetch (tgt k) = .word w ∧ isHeader w = true
  let other (k : Nat) : Prop := 0 ≤ at' k ∧ ∃ w, s.fetch (tgt k) = .word w ∧ isHeader w = false
  let outside (k : Nat) : Prop := at' k < 0 ∨ ∀ w, s.fetch (tgt k) ≠ .word w
  let next (l : Lane) : Lane := { l with
    pc := l.pc + 4, clause := l.clause.bind (fun c => if c.left ≤ 1 then none else some { c with left := c.left - 1 }),
    hint := {} }
  let goto (k : Nat) (l : Lane) : Lane := { l with pc := tgt k, clause := none, hint := {}, yielded := false }
  let call (l : Lane) : Lane := { l with
    pc := tgt 21, clause := none, hint := {}, yielded := false, chain := ⟨l.pc + 4, none⟩ :: l.chain, depth := l.depth + 1 }
  let all := ∀ l ∈ s.issuing, l.pget g = true
  let any := ∃ l ∈ s.issuing, l.pget g = true
  let deep := ∃ l ∈ s.issuing, l.pget g = true ∧ l.depth = 255
  let n := s.sfld 1 sa - 1
  let moves (i : Instr) (u : List (Nat × Word)) (f : Lane → Lane) : Prop :=
    Ready i s → Gives (exec i s) fun t => RegStep s t s.blk u fun l m => m = f l
  (header 21 → moves (.bra off g) [] (fun l => if l.pget g then goto 21 l else next l)) ∧
  (header 21 → all → moves (.bru off g) [] (goto 21)) ∧ (header 21 → ¬ all → moves (.bru off g) [] next) ∧
  (header 21 → ¬ deep → moves (.call off g) [] (fun l => if l.pget g then call l else next l)) ∧
  (header 13 → ¬ any → moves (.loopn sa off g) [] next) ∧
  (header 13 → all → any → n ≠ 0 → moves (.loopn sa off g) [(s.sname 1 sa, n)] (goto 13)) ∧
  (header 13 → any → ¬ (all ∧ n ≠ 0) → moves (.loopn sa off g) [(s.sname 1 sa, n)] next) ∧
  (Ready (.call off g) s → deep → ¬ other 21 → Traps s { cause := 0x13 } (exec (.call off g) s)) ∧
  (∀ x ∈ [(Instr.bra off g, 21), (.bru off g, 21), (.call off g, 21), (.loopn sa off g, 13)], Ready x.1 s →
    (other x.2 → Traps s { cause := 0x10 } (exec x.1 s)) ∧
    (outside x.2 → (x.1 = .call off g → ¬ deep) → Traps s { cause := 0x14 } (exec x.1 s)))

/-- R36, R247, R248, R343: RET pops the return PC of each active lane, ERET also the clause and the handler bit, EXIT
ends the lane; the other issuing lanes go on. A lane at depth 0 traps, and at ERET one with H clear. R84: an entry of
the core that is evict-pending and has lost its last pin leaves the Loft, and no other. R123, R319: a lane that exits
counts on each armed baton of its warp that it has not signed, and where that completes the count the baton concludes: a
baton whose operands differ clears its flags, in its own warp and in the others of its set. Nothing else changes. -/
def Obligations.ReturnsAndExits : Prop :=
  (∀ (s : State) (g : Nat),
  let pop (h : Bool) (l : Lane) : Lane := match l.chain with
    | [] => { l with h := h }
    | r :: rest => { l with chain := rest, depth := l.depth - 1, pc := r.pc, clause := r.clause, hint := {}, h := h }
  let exit (l : Lane) : Lane := { l with st := .exited, clause := none, hint := {}, join := none }
  let shallow := ∃ l ∈ s.issuing, l.pget g = true ∧ l.depth = 0
  let unhandled := ∃ l ∈ s.issuing, l.pget g = true ∧ l.h = false
  let moved (f : Lane → Lane) : State := { s with w := { s.w with
    lanes := s.w.lanes.map fun l => if s.issues l then (if l.pget g then f l else l.next) else l } }
  let pops (i : Instr) (f : Lane → Lane) : Prop := Gives (exec i s) fun t =>
    let u := (moved f).reapLoft s.core
    RegStep { s with loft := u.loft, blocks := u.blocks, blk := { s.blk with pins := u.blk.pins } } t
      { s.blk with pins := u.blk.pins } [] fun l m => m = if l.pget g then f l else l.next
  (Ready (.ret g) s → ¬ shallow → pops (.ret g) (fun l => pop l.h l)) ∧
  (Ready (.ret g) s → shallow → Traps s { cause := 0x13 } (exec (.ret g) s)) ∧
  (Ready (.eret g) s → ¬ unhandled → ¬ shallow → pops (.eret g) (pop false)) ∧
  (Ready (.eret g) s → unhandled → Traps s { cause := 0x10 } (exec (.eret g) s)) ∧
  (Ready (.eret g) s → ¬ unhandled → shallow → Traps s { cause := 0x13 } (exec (.eret g) s)) ∧
  (Ready (.exit g) s → Gives (exec (.exit g) s) fun t =>
    let u := ((moved exit).exitOn ((s.issuing.filter (·.pget g)).map (·.id)) s.blk.batons).reapLoft s.core
    let other (b : Block) : SMap Warp := b.warps.map fun w => (w.1, { w.2 with flags := [], windows := [], pend := [] })
    let blk' : Block := { s.blk with batons := u.blk.batons, warps := u.blk.warps, pins := u.blk.pins }
    other u.blk = other s.blk ∧
    RegStep { s with
      loft := u.loft, blocks := u.blocks, blk := blk', w := { s.w with flags := u.w.flags, windows := u.w.windows, pend := u.w.pend } } t
      blk' []
      fun l m => m = if l.pget g then exit l else l.next) ∧
  (Ready (.exit g) s → (∀ b ∈ s.blk.batons, s.w.wid < b.2.w0 ∨ b.2.w0 + b.2.c ≤ s.w.wid) → pops (.exit g) exit)) ∧
  (∀ (s : State) (core key : Nat) (e : LoftEntry), smWf s.loft = true → smGet s.loft key = some e →
  let gone := key / 256 = core ∧ e.st = .evictPending ∧ s.pinCount core (key % 256) e = 0
  (gone → smGet (s.reapLoft core).loft key = some e.empty) ∧ (¬ gone → smGet (s.reapLoft core).loft key = some e)) ∧
  (∀ (s : State) (lanes : List Nat) (b : Nat) (bt : Baton), smWf s.blk.batons = true → smGet s.blk.batons b = some bt →
  let n := (lanes.filter fun l => !bt.signed.contains (s.w.wid, l)).length
  let counted : Baton := { bt with count := bt.count + n }
  let t := s.exitOn lanes [(b, bt)]
  bt.agreed = false → bt.w0 ≤ s.w.wid → s.w.wid < bt.w0 + bt.c →
  (∀ k, k ≠ b → smGet t.blk.batons k = smGet s.blk.batons k) ∧
  smGet t.blk.batons b =
    if n ≠ 0 ∧ counted.count = bt.expected then
      (match bt.verdict with | .agree => some { counted with agreed := true } | .nothing | .differ => none)
    else some counted)

/-- R48, R250, R252: WAITF goes on once the flags it names are clear, ending their windows, and stalls until then; WAITL
lets the lanes go on whose far loads are in, and makes the others late. R60, R218, R251: an instruction that marks a
clear flag begins a use of it, with every lane's arrival bit for it set; one that marks a busy flag joins its use. The
flag clears with the last of its instructions, and its status is then the first nonzero one in their order of issue;
while it is busy it keeps the status before, which MOVS reads (R258). Other flags keep what they hold. -/
def Obligations.CompletionFlags : Prop :=
  (∀ (s : State) (msk g : Nat),
  let clear := ∀ k < 12, msk.testBit k = true → (s.w.seen.flag k).ops = []
  let any := ∃ l ∈ s.issuing, l.pget g = true
  let lost := s.blk.accLost = true ∧ ∃ k < 12, msk.testBit k = true ∧ (s.w.flag k).lost = true
  let i : Instr := .waitf msk g
  (¬ any → s.lanesOnly i fun l m => m = l.next) ∧
  (any → ¬ lost → clear → Ready i s → Gives (exec i s) fun t => RegStep { s with
    w := { s.w with windows := s.w.windows.filter (fun x => !msk.testBit x.flag) } } t s.blk [] fun l m => m = l.next) ∧
  (any → ¬ lost → ¬ clear → Ready i s → Stalls s (exec i s)) ∧
  s.lanesOnly (.waitl msk g) (fun l m =>
    if (List.range 12).all fun k => !msk.testBit k || l.arr.getLsbD k then m = l.next
    else m = { l with st := .late, lateMask := msk })) ∧
  (∀ (w : Warp) (k op st : Nat) (cube : Bool), k < 12 →
  let f := w.flag k
  let m := w.mark k op cube
  (∀ j, j ≠ k → m.flag j = w.flag j ∧ (∀ (i : Nat) (l l' : Lane), w.lanes[i]? = some l → m.lanes[i]? = some l' →
    l'.arr.getLsbD j = l.arr.getLsbD j)) ∧
  (f.ops = [] → (m.flag k).ops = [⟨op, none, cube⟩] ∧ (m.flag k).status = f.status ∧ (m.flag k).lost = false ∧
    ∀ l ∈ m.lanes, l.arr.getLsbD k = true) ∧
  (f.ops ≠ [] → (m.flag k).ops = f.ops ++ [⟨op, none, cube⟩] ∧ m.lanes = w.lanes) ∧
  (w.flagOf op = some k → smWf w.flags = true →
    let ops := f.ops.map fun o => if o.id = op ∧ o.done = none then { o with done := some st } else o
    let c := (w.complete op st).flag k
    (∀ j, j ≠ k → (w.complete op st).flag j = w.flag j) ∧
    (if ops.all fun o => o.done.isSome then
      c.ops = [] ∧ c.status = (((ops.map fun o => o.done.getD 0).find? (· ≠ 0)).getD 0)
    else c.ops = ops ∧ c.status = f.status)))

/-- R81, R246: a CALLO that hits calls the entry of the overlay in every issuing lane, and the entry counts as called;
an entry number beyond the overlay's traps, and so does a lane at depth 255, hit or miss. An entry that lies past the
overlay's end traps 0x14 at the call, and one that is no header 0x10 (the model's reading, log entry 39). R82, R340 to R342, R344: the
kernel-level traps taken at issue. TRAP takes its active lanes into the handler, to resume at the next word; a CALLO
that misses takes its whole path, to resume at the CALLO. The return PC is pushed, H is set, and the frame goes to s42
to s45. A trapping lane with H set is a double miss; another live lane of the warp with H set makes the trap wait; then
depth 255 and a handler that is no header trap to system software. -/
def Obligations.OverlayCallsAndTraps : Prop :=
  (∀ (s : State) (sa ent n : Nat) (e : LoftEntry),
  let i : Instr := .callo sa ent
  let deep := ∃ l ∈ s.issuing, l.depth = 255
  let hit := s.tokEntry s.core s.blk.tenant ((s.sfld 1 sa).toNat % 2 ^ 16) = some (n, e) ∧ e.st = .resident ∧
    e.ovx = ent / 256 ∧ ∃ gr, s.grid? = some gr ∧ (gr.dir[ent / 256]?).map (·.hash) = some e.hash
  Ready i s →
  (deep → Traps s { cause := 0x13 } (exec i s)) ∧
  (¬ deep → hit → e.entries[ent % 256]? = none → Traps s { cause := 0x10 } (exec i s)) ∧
  (∀ off, ¬ deep → hit → e.entries[ent % 256]? = some off → e.words.length ≤ off → Traps s { cause := 0x14 } (exec i s)) ∧
  (∀ off w, ¬ deep → hit → e.entries[ent % 256]? = some off → e.words[off]? = some w → isHeader w = false →
    Traps s { cause := 0x10 } (exec i s)) ∧
  ∀ off w, ¬ deep → hit → e.entries[ent % 256]? = some off → e.words[off]? = some w → isHeader w = true → Gives (exec i s) fun t =>
    RegStep { s with
      serial := s.serial + 1
      loft := smMod s.loft (s.core * 256 + n) fun x => { x with lastCall := s.serial } } t s.blk [] fun l m =>
        m = { l with
          pc := BitVec.ofNat 32 (ent / 256 * 2 ^ 24 + off * 4), clause := none, hint := {}, yielded := false,
          chain := ⟨l.pc + 4, none⟩ :: l.chain, depth := l.depth + 1 }) ∧
  (∀ (s : State) (code g sa ent : Nat),
  let entry : Word := BitVec.ofNat 32 (((s.grid?.map (·.miss)).getD 0) * 4)
  let handler := ∃ w, s.fetch entry = .word w ∧ isHeader w = true
  let tok := (s.sfld 1 sa).toNat % 2 ^ 16
  let miss := ∀ n e, s.tokEntry s.core s.blk.tenant tok = some (n, e) →
    ¬ (e.st = .resident ∧ e.ovx = ent / 256 ∧ ∃ gr, s.grid? = some gr ∧ (gr.dir[ent / 256]?).map (·.hash) = some e.hash)
  let active (l : Lane) : Bool := (s.issuing.filter (·.pget g)).any (·.id == l.id)
  let enter (r l : Lane) : Lane := { r with
    pc := entry, clause := none, hint := {}, yielded := false, chain := ⟨r.pc, r.clause⟩ :: l.chain, depth := l.depth + 1, h := true,
    arrived := none, join := none }
  let takes (i : Instr) (trapping : Lane → Bool) (resume : Lane → Lane) (frame : List Word) : Prop := Ready i s →
    let ts := s.w.lanes.filter trapping
    let blocked := ∃ l ∈ s.w.lanes, trapping l = false ∧
      (l.st ≠ .exited ∧ l.st ≠ .vacant ∧ l.h = true ∨ s.w.handlingSeen.testBit l.id = true)
    let twice := ∃ l ∈ ts, l.h = true
    let deep := ∃ l ∈ ts, l.depth = 255
    (twice → Traps s { cause := 0x1A } (exec i s)) ∧
    (¬ twice → blocked → Stalls s (exec i s)) ∧
    (¬ twice → ¬ blocked → deep → Traps s { cause := 0x13 } (exec i s)) ∧
    (¬ twice → ¬ blocked → ¬ deep → ¬ handler → Traps s { cause := 0x10 } (exec i s)) ∧
    (¬ twice → ¬ blocked → ¬ deep → handler → Gives (exec i s) fun t => RegStep s t s.blk ([42, 43, 44, 45].zip frame)
      fun l m => m = if trapping l then enter (resume l) l else l.next)
  ((∃ l ∈ s.issuing, l.pget g = true) → takes (.trap code g) active Lane.next
    [BitVec.ofNat 32 code, 0, BitVec.ofNat 32 (s.pc.toNat % 2 ^ 16), 2]) ∧
  ((¬ ∃ l ∈ s.issuing, l.pget g = true) → s.lanesOnly (.trap code g) fun l m => m = l.next) ∧
  (miss → (∀ l ∈ s.issuing, l.depth ≠ 255) → takes (.callo sa ent) s.issues Lane.rewind
    [BitVec.ofNat 32 (ent / 256), BitVec.ofNat 32 ent, BitVec.ofNat 32 (s.sname 1 sa * 2 ^ 16 + tok), 1]))

/-- R345 to R347: NOP goes on and changes nothing. BKPT with an active lane holds the block with trap 0x3D, the lanes of
the record being its active lanes and the path standing at the next word; with none it goes on. R224 to R228: a hint
word changes the hint run of its issuing lanes and nothing else but a boost; the first of a run keeps where the run
began. A reserved field, or a run that ends the body, traps at the hint. -/
def Obligations.NopsAndHints : Prop :=
  (∀ (s : State) (g : Nat),
  s.lanesOnly (.nop g) (fun l m => m = l.next) ∧
  ((¬ ∃ l ∈ s.issuing, l.pget g = true) → s.lanesOnly (.bkpt g) fun l m => m = l.next) ∧
  ((∃ l ∈ s.issuing, l.pget g = true) → Ready (.bkpt g) s → Gives (exec (.bkpt g) s) fun t =>
    RegStep s t { s.blk with held := s.blk.held ++ [
      { cause := 0x3D, detail := 0, reason := 0, wid := s.w.wid, pc := t.pc, addr := 0, loc := 0, recorded := false,
        mask := maskOf (s.issuing.filter (·.pget g)) }] } [] fun l m => m = l.next)) ∧
  (∀ (s : State) (c : Clause) (imm mp mn rm vc zi sat k1 k2 k3 act : Nat),
  s.cur.isSome = true → s.clause = some c →
  let hints (i : Instr) (boost : Bool) (f : HintRun → HintRun) : Prop :=
    (i.wf = false ∨ c.left ≤ 1 → Traps s { cause := 0x10 } (exec i s)) ∧
    (i.wf = true → 1 < c.left → Gives (exec i s) fun t => t.w.boost = (if boost then s.w.boost ||| s.im else s.w.boost) ∧
      RegStep s t s.blk [] fun l m => m = { l with
        pc := l.pc + 4, clause := l.clause.map (fun c => { c with left := c.left - 1 }),
        hint := { f l.hint with start := some (l.hint.start.getD l.pc) } })
  hints (.hintImm imm) false (fun h => { h with imm := some imm, dup := h.dup || h.imm.isSome }) ∧
  hints (.hintXv mp mn rm vc zi sat) false (fun h =>
    { h with xv := some ⟨mp, mn, rm, vc, zi, sat⟩, dup := h.dup || h.xv.isSome }) ∧
  hints (.hintUwin k1 k2 k3) false (fun h => { h with uwin := some (k1, k2, k3), dup := h.dup || h.uwin.isSome }) ∧
  hints (.hintSched act) (act == 1) (fun h => { h with sched := some act, dup := h.dup || h.sched.isSome }))

/-- R57, R224, R241, R345, R346: a word that fails its shared checks traps precisely: illegal-instruction first, then
the register budget. Only the first failing check acts, whatever the word would do. R14, R21, R241: when they fail:
illegal-instruction where a field is out of its form or its width, the word stands where it may not, a hint does not
suit it or its flag is none; else the register trap where a vector register it names stands at or above the warp's
budget, or a uniform register at or above the grid's. -/
def Obligations.SharedChecks : Prop := ∀ (s : State) (i : Instr), (encode i).isSome = true →
  (∀ a b c d e f, i ≠ .clauseHeader a b c d e f) → (shapeOf s.W i).op < 0x70 → s.cur.isSome = true →
  (∀ x : TrapInfo, issueTrap i s = some x →
    Traps s x (exec i s) ∧
    (i.wf = false → x.cause = 0x10) ∧ (x.cause ≠ 0x10 → x.cause = 0x11 ∧ i.wf = true) ∧
    x.detail = 0 ∧ x.reason = 0 ∧ x.addr = 0 ∧ x.loc = 0) ∧
  let sh := shapeOf s.W i
  let formed := i.wf = true ∧ widthOk s.W i = true ∧ placeOk s sh = true ∧ hintsOk i sh s.hint = true ∧ fsOk s sh = true
  (¬ formed → Traps s { cause := 0x10 } (exec i s)) ∧
  (formed → (∃ n ∈ srcV sh s.hint ++ sh.vw, s.w.budget ≤ n) ∨ (∃ n ∈ uniR s sh false, s.pkt.ub ≤ n) →
    Traps s { cause := 0x11 } (exec i s)) ∧
  (formed → (∀ n ∈ srcV sh s.hint ++ sh.vw, n < s.w.budget) → (∀ n ∈ uniR s sh false, n < s.pkt.ub) → Ready i s)

/-- R255: JOIN waits for the child grids launched before it first issued, and goes on once none of them is left; lanes
that come to it later wait for their own, together (log entry 7). R31, R254, R374: LAUNCH: the not-leader, depth and
alignment traps in that order; it waits for its warp's stores and far acquires (R185), for room in the die's queue,
and for lines that cannot be reached; a packet the controller rejects traps with its reason, and one it takes becomes a
grid. A read that goes unanswered for the system timeout is one that faults (R162, R392; log entry 43). R29, R92, R374,
R376: an accepted packet becomes a grid whose %gridid no live grid has, with the parent's depth plus one, a priority
at most the packet's and the parent's, and on the parent's own die only; the parent counts the child. -/
def Obligations.Launches : Prop :=
  (∀ (s : State) (g : Nat), Ready (.join g) s →
  let any := ∃ l ∈ s.issuing, l.pget g = true
  let own (l : Lane) : Nat := l.join.getD s.blk.launchCount
  let left := ∃ c ∈ s.blk.launched, ∃ l ∈ s.issuing, c.2 < own l
  (¬ any → Gives (exec (.join g) s) fun t => RegStep s t s.blk [] fun l m => m = l.next) ∧
  (any → ¬ left → Gives (exec (.join g) s) fun t => RegStep s t s.blk [] fun l m => m = { l.next with join := none }) ∧
  (any → left → Gives (exec (.join g) s) fun t => t.stalled = true ∧
    RegStep s t s.blk [] fun l m => m = { l with join := some (own l) })) ∧
  (∀ (s : State) (sa g : Nat), Ready (.launch sa g) s →
  let i : Instr := .launch sa g
  let any := ∃ l ∈ s.issuing, l.pget g = true
  let other := ∃ l ∈ s.issuing, l.pget g = true ∧ l.tid ≠ 0
  let deep := s.grid?.map (·.depth) = some 10
  let addr := (s.sget (s.sname 1 sa)).toNat + 2 ^ 32 * (s.sget (s.sname 1 sa + 1)).toNat
  let from' : Inbound := { die := s.dieNo, addr := addr, tenant := s.blk.tenant, parent := some (s.blk.grid, s.blk.key), rpc := none, deadSince := none }
  let sent := s.issuing.findSome? fun l => l.hint.sent
  let dead := s.launchDead from'
  let late (x : Sent) : Prop := x.since + 1200 * (s.die s.dieNo).tms ≤ (s.die s.dieNo).ref
  let full := 64 ≤ (s.grids.filter fun x => x.2.home == s.dieNo && x.2.dies.isEmpty && !x.2.ended).length
  let ready := s.w.queue = [] ∧ s.acquires = [] ∧ ¬ full
  (¬ any → Gives (exec i s) fun t => RegStep s t s.blk [] fun l m => m = l.next) ∧
  (other → Traps s { cause := 0x17 } (exec i s)) ∧
  (any → ¬ other → deep → Traps s { cause := 0x18 } (exec i s)) ∧
  (any → ¬ other → ¬ deep → addr % 64 ≠ 0 → Traps s { cause := 0x20 } (exec i s)) ∧
  (any → ¬ other → ¬ deep → addr % 64 = 0 →
    (∀ x, sent = some x → (late x → Traps s { cause := 0x19, reason := 1, addr := addr } (exec i s)) ∧
      (¬ late x → Stalls s (exec i s))) ∧
    (sent = none → ¬ ready → Stalls s (exec i s)) ∧
    (sent = none → ready → dead ≠ [] → Gives (exec i s) fun t => t.stalled = true ∧
      RegStep s t s.blk [] fun l m => m = { l with hint := { l.hint with sent := s.noteSent none s.dieNo 0 dead } }) ∧
    (sent = none → ready → dead = [] → s.launchHeld from' = true → Stalls s (exec i s)) ∧
    (sent = none → ready → dead = [] → s.launchHeld from' = false →
      (∀ r, s.judge from' = .inl r → Traps s { cause := 0x19, reason := r, addr := addr } (exec i s)) ∧
      (∀ p c, s.judge from' = .inr (p, c) → Gives (exec i s) fun t =>
        RegStep (s.admitGrid from' p c).2 t (s.admitGrid from' p c).2.blk [] fun l m => m = l.next)))) ∧
  (∀ (s : State) (i : Inbound) (p : Packet) (c : Container),
  i.die < 4 → s.dies.length = 4 → s.grids.length ≤ 1024 → smWf s.grids = true → (s.die i.die).gridSeq < 2 ^ 30 →
  let gid := (s.admitGrid i p c).1
  let t := (s.admitGrid i p c).2
  smGet s.grids gid = none ∧ gid / 2 ^ 30 = i.die ∧
  (∃ g, smGet t.grids gid = some g ∧ g.id = gid ∧ g.home = i.die ∧ g.parent = i.parent ∧ g.tenant = i.tenant ∧
    g.prio ≤ p.prio ∧ g.dies = [] ∧ g.ended = false ∧
    g.packet = (if i.parent.isSome then { p with diem := 2 ^ i.die } else p) ∧
    (i.parent = none → g.depth = 0 ∧ g.session = i.rpc.map (·.1)) ∧
    (∀ q, s.parentOf i = some q → g.depth = q.depth + 1 ∧ g.prio ≤ q.prio ∧ g.session = q.session)) ∧
  (∀ n, n ≠ gid → i.parent.map (·.1) ≠ some n → smGet t.grids n = smGet s.grids n) ∧
  (∀ n q, i.parent.map (·.1) = some n → smGet s.grids n = some q →
    smGet t.grids n = some { q with children := q.children + 1 }))

/-- R24, R50 to R52, R253: REFORM waits until its warp is quiet (its loads from the Granary performed too: the model's
reading, log entry 45), and then files its active lanes in ascending order,
each into the first open sheaf of its continuation, key and role that is not full, or a new one while fewer than eight
are open; a lane that finds neither stays. Its lanes' places become vacant, the guard-false lanes go on, and an
evict-pending entry of the core that has lost its last pin by it leaves the Loft (R84). A target past the overlay's end
or that is no header traps, whatever the guard. R50 to R52: where a thread is filed: behind those of the first open
sheaf of its continuation, key and role that holds fewer than W, which is due once it holds W; otherwise in a new
sheaf, unless eight are open. -/
def Obligations.Regrouping : Prop :=
  (∀ (s : State) (va off g : Nat), Ready (.reform va off g) s →
  let i : Instr := .reform va off g
  let pc := s.pc.toNat
  let at' : Int := (pc % 2 ^ 24 / 4 : Nat) + 1 + (BitVec.ofNat 14 off).toInt
  let tgt : Word := BitVec.ofNat 32 (pc / 2 ^ 24 * 2 ^ 24 + at'.toNat * 4)
  let header := 0 ≤ at' ∧ ∃ w, s.fetch tgt = .word w ∧ isHeader w = true
  let any := ∃ l ∈ s.issuing, l.pget g = true
  let role := s.w.role = 1 ∨ s.w.role = 2 ∨ s.core ≠ s.blk.onCore
  let armed := ∃ b ∈ s.blk.batons, b.2.w0 ≤ s.w.wid ∧ s.w.wid < b.2.w0 + b.2.c
  let quiet := (∀ k < 12, (s.w.flag k).ops = []) ∧ s.w.queue = [] ∧ s.w.gloads = [] ∧ ∀ l ∈ s.w.lanes, ∀ k < 12, l.arr.getLsbD k = true
  let file (x : List Nat × List Sheaf) (l : Lane) : List Nat × List Sheaf :=
    match fileInto s.W s.w.role s.w.budget s.clock tgt ((s.vget l va).toNat % 256) l x.2.length x.2 with
    | some sh => (x.1 ++ [l.id], sh)
    | none => x
  let filed := (s.issuing.filter (·.pget g)).foldl file ([], s.blk.sheaves)
  let after (l : Lane) : Lane := if filed.1.contains l.id then l.vacate else if l.pget g then l.rewind else l.next
  let u := ({ s with
    w := { s.w with lanes := s.w.lanes.map fun l => if s.issues l then after l else l }
    blk := { s.blk with sheaves := filed.2 } } : State).reapLoft s.core
  (at' < 0 ∨ (∀ w, s.fetch tgt ≠ .word w) → Traps s { cause := 0x14 } (exec i s)) ∧
  (0 ≤ at' → (∃ w, s.fetch tgt = .word w ∧ isHeader w = false) → Traps s { cause := 0x10 } (exec i s)) ∧
  (header → ¬ any → Gives (exec i s) fun t => RegStep s t s.blk [] fun l m => m = l.next) ∧
  (header → any → role → Traps s { cause := 0x15 } (exec i s)) ∧
  (header → any → ¬ role → armed → Traps s { cause := 0x32 } (exec i s)) ∧
  (header → any → ¬ role → ¬ armed →
    (¬ quiet ∨ filed.1 = [] ∧ (∀ l ∈ s.issuing, l.pget g = true) → Stalls s (exec i s)) ∧
    (quiet → (filed.1 ≠ [] ∨ ∃ l ∈ s.issuing, l.pget g = false) → Gives (exec i s) fun t =>
      t.others = { s with loft := u.loft, blocks := u.blocks }.others ∧ t.serial = s.serial ∧
      t.blk.rest = { s.blk with sheaves := filed.2, pins := u.blk.pins }.rest ∧ t.w.rest = s.w.rest ∧ t.w.s = s.w.s ∧
      LaneStep s t fun l m => m = after l))) ∧
  (∀ (w role budget clk key n : Nat) (pc : Word) (l : Lane) (sh : List Sheaf),
  let fits (x : Sheaf) : Bool := x.pc == pc && x.key == key && x.role == role && decide (x.threads.length < w)
  let thread : Lane :=
    { l with pc := pc, clause := none, hint := {}, yielded := false, st := .runnable, join := none, lateMask := 0 }
  (∀ j x, sh.findIdx? fits = some j → sh[j]? = some x →
    fileInto w role budget clk pc key l n sh = some (sh.set j { x with
      threads := x.threads ++ [thread], due := x.due || x.threads.length + 1 == w })) ∧
  (sh.findIdx? fits = none → n < 8 →
    fileInto w role budget clk pc key l n sh = some (sh ++ [
      { pc := pc, key := key, role := role, budget := budget, threads := [thread], since := clk, due := w == 1 }])) ∧
  (sh.findIdx? fits = none → 8 ≤ n → fileInto w role budget clk pc key l n sh = none))

/-- R348 to R351: SVC waits for its warp's stores, loads and far accesses at .sys, for an earlier call of the warp
(R350), and for room in the ring of its die and for slots that can be written (R188, R410, R423, R426). It then writes a lane entry
for each active lane, in ascending order, and the call record after them, with the address of the parking record, moves
SRTAIL on and parks the warp. No byte of far memory outside those slots changes, and no other register of a die. Where
the parking record of a call stands is system software's (log entry 34). -/
def Obligations.ServiceCallIssue : Prop := ∀ (s : State) (va num g : Nat), Ready (.svc va num g) s →
  let i : Instr := .svc va num g
  let ls := s.issuing.filter (·.pget g)
  let d := s.die s.dieNo
  let tail := d.ctlNat 0xB0
  let n := ls.length + 1
  let slot (j : Nat) : Nat := d.ctl64 0xA0 + 64 * ((tail + j) % 2 ^ 17 % d.svcSlots)
  let ready := s.w.parked = none ∧ s.w.queue = [] ∧ s.w.gloads = [] ∧ s.farDone s.blk.key s.w.wid 7 5 s.serial = true
  let room := d.ctlNat 0xA8 / 2 ^ 31 % 2 = 1 ∧ d.svcUsed + n ≤ d.svcSlots ∧ ∀ j < n, s.areaHeld s.dieNo (slot j) 64 = false
  let addr := Config.parkingAddr (4 * d.svcId + s.dieNo) % 2 ^ 57
  let args (l : Lane) : List Word := (List.range 8).map fun k => s.vget l (va + k)
  let slots : List (List Byte) := ls.map (fun l => laneEntry (args l) l.tid l.id num d.svcId) ++
    [callRecord d.svcId (maskOf ls) addr s.blk.grid s.blk.idx s.w.wid s.blk.tenant ls.length num s.core]
  let call : SvcCall :=
    { id := d.svcId, die := s.dieNo, blk := s.blk.key, wid := s.w.wid, tenant := s.blk.tenant, num := num, mask := maskOf ls,
      slots := n, args := ls.map (fun l => (l.id, args l)), replies := [], consumed := false }
  (ls = [] → Gives (exec i s) fun t => RegStep s t s.blk [] fun l m => m = l.next) ∧
  (ls ≠ [] → ¬ ready ∨ ¬ room → Stalls s (exec i s)) ∧
  (ls ≠ [] → ready → room → s.dieNo < s.dies.length → Gives (exec i s) fun t =>
    (s.moves = [] → ∀ j < n, t.farBytes (slot j) 64 = slots.getD j []) ∧
    (∀ a, (∀ j < n, ∀ k < 64, s.home (slot j + k) ≠ a) → smGet t.far a = smGet s.far a) ∧
    RegStep { s with
      far := t.far
      dies := listMod s.dies s.dieNo fun d =>
        { d.ctlSet 0xB0 (BitVec.ofNat 32 ((tail + n) % 2 ^ 17)) with svcId := d.svcId + 1 }
      calls := s.calls ++ [call]
      w := { s.w with parked := some ⟨d.svcId, va, maskOf ls⟩ } } t s.blk [] fun l m => m = if l.pget g then l else l.next)

/-- R23, R130, R132, R133, R140, R142, R314: the copies: the streamer-rights, descriptor and alignment traps, then the
shared-range and the Granary-range trap, each for source, destination and slot, in that order (R294); then, while the
core holds fewer than 64 unfinished copies, the copy is issued, marking its flag. R130: what a walk descriptor says:
the bases, the stamp, the spaces, the element size, and the six counters with their extents, starts and signed
strides. That the stride of a counter of extent 1 need not be aligned is the model's reading (log entry 30); that the record of
a range trap gives the range's first address (log entry 46), that the checks of CPYT and CPYQ stand with the first row and that
the copy keeps its descriptor as it reads it here (log entry 48) are its choices. -/
def Obligations.CopyIssues : Prop :=
  (∀ (s : State) (sa cls scope fs k : Nat) (i : Instr),
  (i, k) ∈ [(Instr.cpy sa cls scope fs, 0), (.cpyt sa cls scope fs, 1), (.cpyq sa cls scope fs, 2)] → Ready i s →
  let ws : List Nat := (List.range 32).map fun j => (s.sget (s.sname 1 sa + j)).toNat
  let w := parseWalk ws
  let flag := (s.fsFlag fs).getD 0
  let c : Copy :=
    { id := s.serial, op := s.serial, grid := s.blk.grid, blk := s.blk.key, wid := s.w.wid, flag := flag, core := s.core,
      tenant := s.blk.tenant, kind := k, cls := cls, scope := scope, walk := w, accepted := false, next := w.first,
      pixels := [], landOn := false, srcOn := false, status := 0, stopAt := none, failed := (0, 0), slot := w.stampa,
      resv := none, idx := s.blk.idx, hostAcks := [], after := s.acquires, out := [], spoilt := [], deadSince := none,
      clk := s.order.engine (s.issuing.map fun l => s.threadOf l.id) (s.uKeys ((List.range 32).map (s.sname 1 sa + ·))) }
  let sides : List (Nat × Int × Int) := [(w.ssp, w.srcRange), (w.dsp, w.dstRange), (w.stsp, (w.stampa, w.stampa + 31))]
  let ranges (sp cause : Nat) : List (Prop × TrapInfo) := (sides.filter (·.1 = sp)).map fun x =>
    (s.rangeTrap sp x.2 = none, { cause := cause, addr := x.2.1.toNat })
  s.checked i ([(s.w.role = 1 ∨ s.w.role = 0 ∧ s.w.wid = 0, { cause := 0x16 }),
      (walkForm ws w = true ∧ walkKind k w = true, { cause := 0x27 }), (walkAligned k w = true, { cause := 0x20 })] ++
      ranges 0 0x22 ++ ranges 1 0x23) <|
    let full := 64 ≤ (s.copies.filter fun c => c.core == s.core).length
    (full → Stalls s (exec i s)) ∧
    (¬ full → Gives (exec i s) fun t =>
      RegStep ({ s with serial := s.serial + 1, copies := s.copies ++ [c] }.mark flag s.serial false) t s.blk [] Lane.went)) ∧
  (∀ (ws : List Nat) (i : Nat), ws.length = 32 → (∀ x ∈ ws, x < 2 ^ 32) → i < 6 →
  let d (n : Nat) : Nat := ws.getD n 0
  let w := parseWalk ws
  w.sbase = d 0 + 2 ^ 32 * d 1 ∧ w.dbase = d 2 + 2 ^ 32 * d 3 ∧ w.stampa = d 4 + 2 ^ 32 * d 5 ∧
  w.seq = d 6 + 2 ^ 32 * (d 7 % 2 ^ 16) ∧ w.esz = d 8 % 8 ∧ w.ssp = d 8 / 2 ^ 18 % 4 ∧ w.dsp = d 8 / 2 ^ 20 % 4 ∧
  w.stsp = d 8 / 2 ^ 22 % 4 ∧ w.qfmt = d 8 / 2 ^ 24 % 16 ∧
  w.ext[i]? = some (d (9 + 3 * i) % 2 ^ 16 + 1) ∧ w.start[i]? = some (d (9 + 3 * i) / 2 ^ 16) ∧
  w.ss[i]? = some (BitVec.ofNat 32 (d (10 + 3 * i))).toInt ∧ w.ds[i]? = some (BitVec.ofNat 32 (d (11 + 3 * i))).toInt)

/-- R123, R316, R318: BATON.ARM: the role, baton-state and baton-set traps in that order; the baton then expects the
lanes of its set that are not vacant, counts those that have exited, and stays idle where all of them have. R125, R319:
SIGN: an unarmed baton, a warp that has recorded no descriptor and a lane that has signed already trap. The lanes'
fragments are taken as they stand, and their windows open. The last signature makes the agreement check: on a difference
the baton is idle again, its flags clear and trap 0x33 is taken; on agreement the engine accepts the operation when its
table has room, and the word waits until it has. R119, R122, R324: CUBE: its reserved bits, registers, accumulator
tiles, role, shape, lists, baton and set are checked in that order, and the descriptor is recorded for its warp, marking
its flag. That a K outside 1 to 8192 breaks the shape rule, and where a warp outside the baton's set counts for the register
check, are the model's (log entry 47), and so are that the record of the list trap gives address 0 (log entry 46), that the
role comes before the shape, and what a register in another operation's window supplies (log entry 48). -/
def Obligations.Batons : Prop :=
  (∀ (s : State) (b w0 c g : Nat),
  let i : Instr := .batonArm b w0 c g
  let any := ∃ l ∈ s.issuing, l.pget g = true
  let n := (s.blk.signerSeq s.blkWarps w0 c).length
  let armed : Baton :=
    { w0 := w0, c := c, expected := n, count := s.exitedIn w0 c, descs := [], signed := [], frags := [], agreed := false, clk := [] }
  let blk : Block := if s.exitedIn w0 c = n then s.blk else { s.blk with batons := smSet s.blk.batons b armed }
  (¬ any → s.lanesOnly i Lane.went) ∧
  (any → Ready i s →
    s.checked i [((s.w.role = 0 ∨ s.w.role = 2) ∧ s.core = s.blk.onCore, { cause := 0x15 }),
        (smGet s.blk.batons b = none, { cause := 0x31 }),
        (w0 + c ≤ s.pkt.warps ∧ (∀ k < c, s.roleOf (w0 + k) = 0 ∨ s.roleOf (w0 + k) = 2) ∧
          (∀ k < c, s.onUpper (w0 + k) = false), { cause := 0x32 })]
      (Gives (exec i s) fun t => RegStep { s with blk := blk } t blk [] Lane.went))) ∧
  (∀ (s : State) (b g : Nat) (bt : Baton) (d : CubeDesc),
  let i : Instr := .sign b g
  let ls := s.issuing.filter (·.pget g)
  let after : Baton := { bt with
    count := bt.count + ls.length, signed := bt.signed ++ ls.map (fun l => (s.w.wid, l.id)),
    frags := bt.frags ++ ls.map (s.fragment d)
    clk := joinClk bt.clk (s.order.engine (ls.map fun l => s.threadOf l.id)
      (ls.flatMap fun l => s.vKeys l.id (descRegs d.mode d.fmt d.words))) }
  let open' := s.openWindow d (ls.map (·.id))
  let role := (s.w.role = 0 ∨ s.w.role = 2) ∧ s.core = s.blk.onCore
  let recorded := smGet s.blk.batons b = some bt ∧ smGet bt.descs s.w.wid = some d
  let room := (s.table s.blk.onCore).length < 16
  (ls = [] → s.lanesOnly i Lane.went) ∧
  (Ready i s → ls ≠ [] →
    (¬ role → Traps s { cause := 0x15 } (exec i s)) ∧
    (role → (∀ x, smGet s.blk.batons b = some x → smGet x.descs s.w.wid = none) → Traps s { cause := 0x31 } (exec i s)) ∧
    (role → recorded → (∃ l ∈ ls, (s.w.wid, l.id) ∈ bt.signed) → Traps s { cause := 0x31 } (exec i s)) ∧
    (role → recorded → (∀ l ∈ ls, (s.w.wid, l.id) ∉ bt.signed) →
      (after.count ≠ bt.expected → Gives (exec i s) fun t =>
        RegStep { open' with blk := { open'.blk with batons := smSet s.blk.batons b after } } t
          { s.blk with batons := smSet s.blk.batons b after } [] Lane.went) ∧
      (after.count = bt.expected → after.verdict = .differ →
        Traps (s.discardBaton b after) { cause := 0x33 } (exec i s)) ∧
      (after.count = bt.expected → after.verdict ≠ .differ → ¬ room → Stalls s (exec i s)) ∧
      (after.count = bt.expected → after.verdict ≠ .differ → room → Gives (exec i s) fun t =>
        RegStep (open'.acceptBaton b after) t (open'.acceptBaton b after).blk [] Lane.went)))) ∧
  (∀ (s : State) (sa mode fmt fs b : Nat), Ready (.cube sa mode fmt fs b) s →
  let i : Instr := .cube sa mode fmt fs b
  let ws : List Nat := (List.range 4).map fun j => (s.sget (s.sname 1 sa + j)).toNat
  let bt := smGet s.blk.batons b
  let flag := (s.fsFlag fs).getD 0
  s.checked i [(cReserved ws = true, { cause := 0x10 }), (s.fragOk mode fmt ws bt = true, { cause := 0x11 }),
      (∀ t ∈ cTiles mode ws, t < s.pkt.acc, { cause := 0x12 }),
      ((s.w.role = 0 ∨ s.w.role = 2) ∧ s.core = s.blk.onCore, { cause := 0x15 }),
      (cShape mode fmt s.pkt.z ws = true ∧ s.seqOk mode fmt ws bt = true, { cause := 0x30 }),
      (s.listsOk mode ws = true, { cause := 0x22 }), (bt.isSome = true, { cause := 0x31 })]
    (∀ x, bt = some x →
      let x' : Baton := { x with
        descs := smSet x.descs s.w.wid ⟨ws, mode, fmt, flag, s.serial⟩
        clk := joinClk x.clk (s.order.ofRegs (s.uKeys ((List.range 4).map (s.sname 1 sa + ·)))) }
      let blk : Block := { s.blk with batons := smSet s.blk.batons b x' }
      s.checked i [(x.w0 ≤ s.w.wid ∧ s.w.wid < x.w0 + x.c ∧ smGet x.descs s.w.wid = none, { cause := 0x32 })]
        (Gives (exec i s) fun t => RegStep ({ s with serial := s.serial + 1, blk := blk }.mark flag s.serial true) t blk []
          Lane.went)))

/-- R117, R129, R320, R321, R328: the other cube words: station loads and accumulator operations are accepted at issue,
in order, by the engine of the block's core while its table has room, marking their flags, after their traps; OPRDY,
which traps on the second core of a pair, waits until no register of its warp has a write to come, nor one under the
interlock of R44, nor a service call's reply to come. That a station load from a place that is not aligned takes the alignment
trap (log entry 41) and that a K outside 1 to 8192 breaks its shape rule (log entry 47) are the model's readings; that its role
comes before its shape (log entry 48) and what address the records of its and of ACCLD's and ACCST's alignment and range traps
give (log entry 46) are its choices. -/
def Obligations.CubeOperations : Prop := ∀ (s : State) (sa acc va fs : Nat) (l : Lane), s.lead = some l →
  let ws : List Nat := (List.range 4).map fun j => (s.sget (s.sname 1 sa + j)).toNat
  let tile := (s.vget l va).toNat
  let nt := tile / 2 ^ 24 + 1
  let off := tile % 2 ^ 19
  let flag := (s.fsFlag fs).getD 0
  let cubeRole := (s.w.role = 0 ∨ s.w.role = 2) ∧ s.core = s.blk.onCore
  let accRole := s.w.role = 0 ∨ s.w.role = 2 ∨ s.w.role = 3
  let desc := s.uKeys ((List.range 4).map (s.sname 1 sa + ·))
  let accepts (i : Instr) (op : EngineOp) (keys : List Nat) : Prop :=
    let clk := (s.die (s.blk.onCore / 48)).clock
    let entry : EngineEntry :=
      { id := s.serial + 1, blk := s.blk.key, prio := s.gridPrio s.blk.grid, op := op, flags := [(s.w.wid, flag, s.serial)],
        passes := 0, lastGrant := clk, eligSince := none, starved := false, status := 0, done := false, rows := [], cols := [],
        bad := s.windowTiles op.tiles, buf := [], after := s.serial + 1
        acq := s.acquiresOf s.blk.key [s.w.wid]
        clk := s.order.engine (s.issuing.map fun l => s.threadOf l.id) keys }
    let held := s.table s.blk.onCore
    (16 ≤ held.length → Stalls s (exec i s)) ∧
    (held.length < 16 → Gives (exec i s) fun t => RegStep ({ s with
        serial := s.serial + 2
        engines := smSet s.engines s.blk.onCore (held ++ [entry]) }.mark flag s.serial true) t s.blk [] Lane.went)
  let load (west : Bool) (i : Instr) : Prop := Ready i s →
    s.checked i [(stnReserved ws = true, { cause := 0x10 }), (cubeRole, { cause := 0x15 }),
      (stnShape s.pkt.z ws = true, { cause := 0x30 }),
      (ws.getD 0 0 % 4 = 0 ∧ ws.getD 2 0 % 4 = 0, { cause := 0x20, addr := ws.getD 0 0 % 2 ^ 19 }),
      (s.stnRange west ws = true, { cause := 0x22 })]
      (accepts i (.load west ws) desc)
  let move (i : Instr) (op : EngineOp) : Prop := Ready i s →
    s.checked i [(acc + nt ≤ s.pkt.acc, { cause := 0x12 }), (accRole, { cause := 0x15 }),
      (tile / 2 ^ 19 % 2 ^ 5 = 0, { cause := 0x30 }), (off % 16 = 0, { cause := 0x20, addr := off }),
      (off + 4096 * nt ≤ s.sharedSize, { cause := 0x22, addr := off })] (accepts i op (s.vKeys l.id [va]))
  load false (.cubestn sa fs) ∧ load true (.cubestw sa fs) ∧
  move (.accld acc va fs) (.accLoad acc nt off) ∧ move (.accst acc va fs) (.accStore acc nt off) ∧
  (Ready (.accz acc fs) s → s.checked (.accz acc fs) [(acc < s.pkt.acc, { cause := 0x12 }), (accRole, { cause := 0x15 })]
    (accepts (.accz acc fs) (.accZero acc) [])) ∧
  (Ready .oprdy s → s.checked .oprdy [(s.core = s.blk.onCore, { cause := 0x15 })]
    (let toCome (p : PendReg) : Prop :=
      (∃ x ∈ s.farQ, x.op = p.op ∧ x.acked = false ∧ ∃ y ∈ x.lanes, y.1 = p.lane) ∨ ∃ c ∈ s.chks, c.op = p.op
    let written := s.w.parked = none ∧ (∀ p ∈ s.w.pend, ¬ toCome p) ∧ (∀ x ∈ s.w.gloads, x.dest = .uniform) ∧
      ∀ k ∈ s.w.locks, k.cls = 0 → k.ready ≤ s.clock
    (¬ written → Stalls s (exec .oprdy s)) ∧
    (written → Gives (exec .oprdy s) fun t => RegStep s t s.blk [] Lane.went)))

/-- R289 to R291: CVT.trl, after the register-budget, descriptor, alignment, address and range traps in that order: the
tile is quantised from the registers as they stand at issue, its NaNs are counted at once, and its payload and trailer
go, on chip, through the store queue, byte by byte in any order, and otherwise as far stores, under the flag that it marks. R290, R292: CVT.chk,
after the same traps: of a tile in shared memory the warp reads the bytes as its loads read them, writes the decoded
elements and scale codes to its lanes' registers, and completes with the finding of R110, or with 0x0013 where a byte from
memory has an uncorrectable error, its registers undefined while another operation keeps the flag busy (R45); of one in the
Granary it issues its reads, byte by byte, as loads from there issue (the model's reading, log entry 45), and of a far
one it sends them, and the registers are undefined until they are all in. On chip it waits for the warp's far acquires
(R305). Both words wait at a far tile that R397 holds. That the record of an address or a range trap gives the tile's address
is the model's choice (log entry 46). R109, R110: a trailer as
CVT.trl writes it is 16 bytes: the maximum, the saturations and flushes, the scale format, the format and the CRC of all
before it; and the check of a payload with its own trailer finds nothing wrong. -/
def Obligations.TileWords : Prop :=
  (∀ (s : State) (sa sb sub fs k : Nat),
  let i : Instr := .cvtTrl sa sb sub fs k
  let ws : List Nat := (List.range 4).map fun j => (s.sget (s.sname 1 sa + j)).toNat
  let a : Nat := ws.getD 0 0 + 2 ^ 32 * ws.getD 1 0
  let sp := ws.getD 2 0 / 2 ^ 21 % 4
  let flag := (s.fsFlag fs).getD 0
  let tile := s.tileOf ws sub k
  let p : Nat := (tCodes ws sub (s.issuing.length * tElems ws k)).2
  let n := (p + 15) / 16 * 16 + 16
  let range : Option Nat := s.rangeTrap sp (a, (a : Int) + n - 1)
  let s0 := { s with serial := s.serial + 1 }.count (s.sfld 2 sb).toNat 2 tile.2.2
  let image : List (Nat × Byte) := tile.1.zipIdx.map (fun x => (x.2, x.1)) ++
    tile.2.1.zipIdx.map fun x => ((tile.1.length + 15) / 16 * 16 + x.2, x.1)
  let queued : List QStore := image.zipIdx.map fun x =>
    { serial := s.serial + 1 + x.2, space := s.spaceOf sp 0, addr := a + x.1.1, bytes := [x.1.2], after := s.acquires
      op := some s.serial, who := s.tileThread, clk := s.tileOrder (some (s.spaceOf sp 0)) sa (tRegs ws) }
  let held := ∃ j < n, s.heldVa s.dieNo s.blk.tenant (a + j) = true
  let marked := s0.mark flag s.serial false
  Ready i s → s.checked i [(∀ r ∈ tRegs ws, r < s.w.budget, { cause := 0x11 }), (tileOk ws sub k = true, { cause := 0x28 }),
      (a % 16 = 0, { cause := 0x20, addr := a })]
    ((sp ≠ 2 → (∀ c, range = some c → Traps s { cause := c, addr := a } (exec i s)) ∧
      (range = none → Gives (exec i s) fun t => RegStep { marked with
        serial := s.serial + 1 + image.length
        w := { marked.w with queue := s.w.queue ++ queued } } t s.blk [] Lane.went)) ∧
    (sp = 2 → (2 ^ 57 ≤ a + n - 1 → Traps s { cause := 0x24, addr := a } (exec i s)) ∧
      (a + n - 1 < 2 ^ 57 → held → Stalls s (exec i s)) ∧
      (∀ x d l, a + n - 1 < 2 ^ 57 → ¬ held → s.farFail 1 a n = some (x, d, l) →
        Traps s { cause := 0x25, detail := d, addr := x, loc := l } (exec i s)) ∧
      (a + n - 1 < 2 ^ 57 → ¬ held → s.farFail 1 a n = none → Gives (exec i s) fun t =>
        (∃ new : List FarAcc, t.farQ = s.farQ ++ new ∧
          (new.flatMap fun y => y.lanes.map fun z => (z.1, z.2.1, z.2.2.2.1)).Perm
            (image.filterMap fun x => match s.tr 1 (a + x.1) with
              | .ok l => some (x.1, l, x.2.toNat)
              | .bad _ _ => none) ∧
          ∀ y ∈ new, y.op = s.serial ∧ y.kind = 2 ∧ y.size = 1 ∧ y.flag = some flag ∧ y.stage = 0) ∧
        RegStep { marked with serial := t.serial, farQ := t.farQ, tlb := t.tlb } t s.blk [] Lane.went)))) ∧
  (∀ (s : State) (sa sub fs k : Nat),
  let i : Instr := .cvtChk sa sub fs k
  let ws : List Nat := (List.range 4).map fun j => (s.sget (s.sname 1 sa + j)).toNat
  let a : Nat := ws.getD 0 0 + 2 ^ 32 * ws.getD 1 0
  let sp := ws.getD 2 0 / 2 ^ 21 % 4
  let flag := (s.fsFlag fs).getD 0
  let lanes := s.issuing.map (·.id)
  let p : Nat := (tCodes ws sub (lanes.length * tElems ws k)).2
  let n := (p + 15) / 16 * 16 + 16
  let bytes := (List.range n).map fun j => s.loadByte (s.spaceOf sp 0) (a + j)
  let result := chkResult ws sub k lanes bytes
  let marked := { s with serial := s.serial + 1 }.mark flag s.serial false
  let pending : Warp :=
    { marked.w with pend := s.w.pend ++ lanes.flatMap fun l => (tRegs ws).map fun r => ⟨s.serial, l, r⟩ }
  let range : Option Nat := s.rangeTrap sp (a, (a : Int) + n - 1)
  let held := ∃ j < n, s.heldVa s.dieNo s.blk.tenant (a + j) = true
  let chk : ChkOp := ⟨s.serial, s.blk.key, s.w.wid, lanes, ws, sub, k, [], 0, s.tileOrder none sa []⟩
  let reads : List GLoad := (List.range n).map fun j =>
    { serial := s.serial + 1 + j, lane := j, addr := a + j, size := 1, reg := s.serial, dest := .tile
      whos := s.threadsNow, clk := s.tileOrder none sa [] }
  let broken := s.brokenAt a n = true
  let ends (st : Nat) (P : Lane → Lane → Prop) : Prop := Gives (exec i s) fun t =>
    t.w.rest = (pending.complete s.serial st).rest ∧ t.w.s = s.w.s ∧ t.blk = s.blk ∧ s.sameMem t ∧ t.others = s.others ∧
    LaneStep s t fun l m => m.pc = l.pc + 4 ∧ l.keeps m (tRegs ws) [] ∧ P l m
  Ready i s → s.checked i [(∀ r ∈ tRegs ws, r < s.w.budget, { cause := 0x11 }), (tileOk ws sub k = true, { cause := 0x28 }),
      (a % 16 = 0, { cause := 0x20, addr := a })]
    ((sp ≠ 2 → (∀ c, range = some c → Traps s { cause := c, addr := a } (exec i s)) ∧
      (range = none → s.acquires ≠ [] → Stalls s (exec i s)) ∧
      (range = none → s.acquires = [] → sp = 1 → Gives (exec i s) fun t => RegStep { marked with
        serial := s.serial + 1 + n
        chks := s.chks ++ [chk]
        w := { pending with gloads := s.w.gloads ++ reads } } t s.blk [] Lane.went) ∧
      (range = none → s.acquires = [] → sp ≠ 1 → s.w.windows = [] → s.cur = some (s.blk.key, s.w.wid) →
        (¬ broken → ends result.2 fun l m =>
          m.v = (((smGet result.1 l.id).getD []).foldl (fun (l : Lane) x => l.vput x.1 x.2) l).v) ∧
        (broken → ends 0x13 fun _ _ => True))) ∧
    (sp = 2 → (2 ^ 57 ≤ a + n - 1 → Traps s { cause := 0x24, addr := a } (exec i s)) ∧
      (a + n - 1 < 2 ^ 57 → held → Stalls s (exec i s)) ∧
      (∀ x d l, a + n - 1 < 2 ^ 57 → ¬ held → s.farFail 0 a n = some (x, d, l) →
        Traps s { cause := 0x25, detail := d, addr := x, loc := l } (exec i s)) ∧
      (a + n - 1 < 2 ^ 57 → ¬ held → s.farFail 0 a n = none → Gives (exec i s) fun t =>
        t.chks = s.chks ++ [chk] ∧
        (∃ new : List FarAcc, t.farQ = s.farQ ++ new ∧
          (new.flatMap fun y => y.lanes.map (·.1)).Perm (List.range n) ∧
          ∀ y ∈ new, y.op = s.serial ∧ y.kind = 0 ∧ y.size = 1 ∧ y.flag = some flag ∧ y.stage = 0) ∧
        RegStep { marked with
          serial := t.serial, farQ := t.farQ, tlb := t.tlb, chks := t.chks, w := pending } t s.blk [] Lane.went)))) ∧
  (∀ (sub scl tmax satn flsn : Nat) (payload : List Byte), sub < 16 → scl < 256 → tmax < 2 ^ 32 →
  let t := trailerOf sub scl tmax satn flsn payload
  t.length = 16 ∧ leNat (t.take 4) = tmax ∧ leNat ((t.drop 4).take 4) = min satn (2 ^ 32 - 1) ∧
  leNat ((t.drop 8).take 1) = scl ∧ leNat ((t.drop 9).take 1) = sub ∧ leNat ((t.drop 10).take 2) = min flsn 65535 ∧
  leNat ((t.drop 12).take 4) = crc32c (payload ++ t.take 12) ∧
  finding sub payload t = 0 ∧ (∀ f, f ≠ sub → finding f payload t = 0x22) ∧
  ∀ b : List Byte, crc32c (b ++ t.take 12) ≠ crc32c (payload ++ t.take 12) → finding sub b t = 0x21)

/-- R147, R149, R150, R156, R331 to R334: the plane words. With an active lane: STEP.OPEN and STEP.CLOSE trap outside
the block leader; without a joined session, or in another state of the step, each traps. STEP.OPEN waits for earlier
merges and advances the powers of every group; STEP.CLOSE closes the step; MERGE, for the leader too, and UPD are
accepted under their flags, an UPD that passes its checks while its die's update unit holds fewer than 32. STEP.OPEN
during a closing step traps by the model's reading (log entry 32). -/
def Obligations.PlaneWords : Prop := ∀ (s : State) (sa m fs g : Nat),
  let any := ∃ l ∈ s.issuing, l.pget g = true
  let leader := ∀ l ∈ s.issuing, l.pget g = true → l.tid = 0
  let inStep (x : Session) (st : StepState) : Prop := s.joined = some x ∧ x.step = st
  let flag := (s.fsFlag fs).getD 0
  let ws : List Nat := (List.range 8).map fun j => (s.sget (s.sname 1 sa + j)).toNat
  let one : Word := 0x3F800000
  let group (y : Group) : Group :=
    let p1 := BitVec.ofNat 32 (rtf (XR.mul (f32 y.p1) (f32 y.b1)) 0 1 0)
    let p2 := BitVec.ofNat 32 (rtf (XR.mul (f32 y.p2) (f32 y.b2)) 0 1 0)
    { y with
      p1 := p1, p2 := p2
      bc1 := BitVec.ofNat 32 (rtf (XR.add false (f32 one) (f32 p1).neg) 0 1 0)
      bc2 := BitVec.ofNat 32 (rtf (XR.add false (f32 one) (f32 p2).neg) 0 1 0) }
  let op (close merge : Bool) : PlaneOp :=
    { op := s.serial, blk := s.blk.key, wid := s.w.wid, flag := flag, close := close, merge := merge,
      stage := if close then 0 else 1, status := 0, after := s.serial, acq := s.acquires
      clk := s.order.engine (s.issuing.map fun l => s.threadOf l.id) [] }
  let starts (x : Session) : State := { s with serial := s.serial + 1, session := some x }.mark flag s.serial false
  (¬ any → ∀ i ∈ [Instr.stepOpen g, .stepClose m fs g, .merge fs g, .upd sa fs g], s.lanesOnly i Lane.went) ∧
  (any → ∀ i ∈ [Instr.stepOpen g, .stepClose m fs g, .merge fs g], Ready i s → ¬ leader → Traps s { cause := 0x17 } (exec i s)) ∧
  (any → ∀ y ∈ [(Instr.stepOpen g, StepState.closed), (.stepClose m fs g, .open), (.merge fs g, .closed), (.upd sa fs g, .open)],
    Ready y.1 s → (y.1 ≠ .upd sa fs g → leader) → (∀ x, ¬ inStep x y.2) →
    Traps s { cause := 0x38 } (exec y.1 s)) ∧
  (any → leader → ∀ x, inStep x .closed → Ready (.stepOpen g) s →
    (x.ops ≠ [] → Stalls s (exec (.stepOpen g) s)) ∧
    (x.ops = [] → Gives (exec (.stepOpen g) s) fun t =>
      RegStep { s with session := some { x with step := .open, ovf := false, groups := x.groups.map group } } t s.blk [] Lane.went)) ∧
  (any → leader → ∀ x, inStep x .open → Ready (.stepClose m fs g) s → Gives (exec (.stepClose m fs g) s) fun t =>
    RegStep (starts { x with ops := x.ops ++ [op true (m == 1)], step := .closing }) t s.blk [] Lane.went) ∧
  (any → leader → ∀ x, inStep x .closed → Ready (.merge fs g) s → Gives (exec (.merge fs g) s) fun t =>
    RegStep (starts { x with ops := x.ops ++ [op false true] }) t s.blk [] Lane.went) ∧
  (any → ∀ x, inStep x .open → Ready (.upd sa fs g) s → 
    let tid := ws.getD 4 0 % 2 ^ 12
    let home (n : Nat) : Nat := ((x.tensor? n).map (·.hdie)).getD 0
    let full := 32 ≤ (x.upds.filter fun u => home u.tid == home tid).length
    let u : UpdOp :=
      { op := s.serial, blk := s.blk.key, wid := s.w.wid, flag := flag, tenant := s.blk.tenant, core := s.core,
        gaddr := ws.getD 0 0 + 2 ^ 32 * ws.getD 1 0, first := ws.getD 2 0, cnt := ws.getD 3 0,
        gsp := ws.getD 4 0 / 2 ^ 14 % 4, gfmt := ws.getD 4 0 / 2 ^ 12 % 4, tid := tid, after := s.serial, acq := s.acquires
        clk := s.order.engine (s.issuing.map fun l => s.threadOf l.id) (s.uKeys ((List.range 8).map (s.sname 1 sa + ·))) }
    s.checked (.upd sa fs g) [(s.updOk x ws = true, { cause := 0x39 })]
      ((full → Stalls s (exec (.upd sa fs g) s)) ∧
      (¬ full → Gives (exec (.upd sa fs g) s) fun t =>
        RegStep (starts { x with upds := x.upds ++ [u] }) t s.blk [] Lane.went)))

/-- R78 to R80, R336: OVLD, of an index or of the index in a register: an index the grid's container does not have
traps. An overlay the Loft holds gives its token, and the flag clears at once or with the load under way; otherwise a
load begins in the lowest absent entry once there is room, and with no room the token is 0 and the flag clears with
status 1. R83 to R85, R337, R338: OVPIN and OVUNPIN of the entry a token names, OVEV, and the word of OVQ. The generation a first
residency takes, which entry a load takes, and how pins are counted, are the model's choices (log entry 39). R13, R80, R84,
R88: making room in the Loft keeps the tenant within its quota and the core within its 256 slots, evicts only what is resident, of the tenant, without a
pin and not among the overlays that the reload in hand needs as well, and refuses only where evicting all of that would
not be enough. -/
def Obligations.OverlayWords : Prop :=
  (∀ (s : State) (sa idx sb fs : Nat),
  let flag := (s.fsFlag fs).getD 0
  let wait : LoftWaiter := { blk := s.blk.key, wid := s.w.wid, flag := flag, op := s.serial, pin := false, reload := false }
  let marked := { s with serial := s.serial + 1 }.mark flag s.serial false
  let d := s.sname 1 sa
  let loads (i : Instr) (idx : Nat) : Prop := Ready i s →
    let dir := s.grid?.bind fun gr => gr.dir[idx]?
    let ends (t : State) (x : State) (tok : Nat) : Prop := RegStep x t x.blk [(d, BitVec.ofNat 32 tok)] Lane.went
    (dir = none → Traps s { cause := 0x14 } (exec i s)) ∧
    ∀ e, dir = some e →
      (∀ n o, s.findKey s.core s.blk.tenant e.hash = some (n, o) → o.st = .loading → Gives (exec i s) fun t =>
        ends t { marked with loft := smMod s.loft (s.core * 256 + n) fun y =>
          { y with evictMark := false, waiters := y.waiters ++ [wait] } } (n * 256 + o.gen)) ∧
      (∀ n o, s.findKey s.core s.blk.tenant e.hash = some (n, o) → o.st ≠ .loading → Gives (exec i s) fun t =>
        ends t ({ marked with loft := smMod s.loft (s.core * 256 + n) fun y => { y with st := .resident } }.complete
          s.blk.key s.w.wid s.serial 0) (n * 256 + o.gen)) ∧
      (s.findKey s.core s.blk.tenant e.hash = none → marked.makeRoom s.core s.blk.tenant ((e.size + 4095) / 4096) [] = none →
        Gives (exec i s) fun t => ends t (marked.complete s.blk.key s.w.wid s.serial 1) 0) ∧
      (∀ r, s.findKey s.core s.blk.tenant e.hash = none →
        marked.makeRoom s.core s.blk.tenant ((e.size + 4095) / 4096) [] = some r →
        let n := r.freeNumber s.core
        let old : Nat := ((smGet r.loft (s.core * 256 + n)).map (·.gen)).getD 0
        let gen := if old = 255 then 1 else old + 1
        let new : LoftEntry :=
          { tenant := s.blk.tenant, hash := e.hash, ovx := idx, gen := gen, st := .loading, grid := s.blk.grid,
            cont := ((smGet r.grids s.blk.grid).map (·.packet.cont)).getD 0, dirE := e, words := [], entries := [], safe := [],
            slots := (e.size + 4095) / 4096, lastCall := 0, evictMark := false, base := [], waiters := [wait],
            forced := false, due := some (s.blk.key, s.w.wid, s.serial + 1, s.acquires), deadSince := none
            clk := s.order.engine (s.issuing.map fun l => s.threadOf l.id) [] }
        Gives (exec i s) fun t => ends t { r with loft := smSet r.loft (s.core * 256 + n) new } (n * 256 + gen))
  loads (.ovldImm sa idx fs) idx ∧
  ((s.sfld 2 sb).toNat < 256 → loads (.ovldReg sa sb fs) (s.sfld 2 sb).toNat) ∧
  (256 ≤ (s.sfld 2 sb).toNat → Ready (.ovldReg sa sb fs) s → Traps s { cause := 0x14 } (exec (.ovldReg sa sb fs) s))) ∧
  (∀ (s : State) (sa sd st fs : Nat),
  let flag := (s.fsFlag fs).getD 0
  let e := s.tokEntry s.core s.blk.tenant ((s.sfld 1 sa).toNat % 2 ^ 16)
  let key (n : Nat) : Nat := s.core * 256 + n
  let pins (n : Nat) : Nat := (smGet s.blk.pins (key n)).getD 0
  let marked := { s with serial := s.serial + 1 }.mark flag s.serial false
  let ends (i : Instr) (x : State) : Prop := Ready i s → Gives (exec i s) fun t => RegStep x t x.blk [] Lane.went
  let clears (i : Instr) (x : State) (status : Nat) : Prop := ends i (x.complete s.blk.key s.w.wid s.serial status)
  let pinned (n v : Nat) : State := { marked with blk := { s.blk with
    pins := if v = 0 then smDel s.blk.pins (key n) else smSet s.blk.pins (key n) v } }
  let q := s.tokEntry s.core s.blk.tenant ((s.sfld 2 st).toNat % 2 ^ 16)
  (e = none → clears (.ovpin sa fs) marked 6 ∧ clears (.ovunpin sa fs) marked 6 ∧ ends (.ovev sa) s) ∧
  (∀ n o, e = some (n, o) →
    (o.st = .loading → ends (.ovpin sa fs) { marked with loft := smMod s.loft (key n) fun y => { y with
      waiters := y.waiters ++ [⟨s.blk.key, s.w.wid, flag, s.serial, true, false⟩] } }) ∧
    (o.st ≠ .loading → clears (.ovpin sa fs) (pinned n (pins n + 1)) 0) ∧
    (pins n = 0 → clears (.ovunpin sa fs) marked 5) ∧
    (pins n ≠ 0 → ends (.ovunpin sa fs) (((pinned n (pins n - 1)).complete s.blk.key s.w.wid s.serial 0).reapLoft s.core)) ∧
    (o.st = .loading → ends (.ovev sa) { s with loft := smMod s.loft (key n) fun y => { y with evictMark := true } }) ∧
    (o.st ≠ .loading → s.pinCount s.core n o = 0 → ends (.ovev sa) (s.freeEntry s.core n)) ∧
    (o.st ≠ .loading → s.pinCount s.core n o ≠ 0 →
      ends (.ovev sa) { s with loft := smMod s.loft (key n) fun y => { y with st := .evictPending } })) ∧
  (q = none → s.uni (.ovq sd st) [(s.sname 1 sd, 0)]) ∧
  (∀ n o, q = some (n, o) → o.ovx < 256 → o.st ≠ .absent → s.uni (.ovq sd st) [(s.sname 1 sd,
    BitVec.ofNat 32 (min (s.pinCount s.core n o) 65535 + 2 ^ 16 * o.ovx + 2 ^ 24 *
      (match o.st with | .absent => 0 | .loading => 1 | .resident => 2 | .evictPending => 3)))])) ∧
  (∀ (s : State) (core tenant slots : Nat) (keep : List Nat), smWf s.loft = true →
  let free (e : Nat × LoftEntry) : Bool := e.2.tenant == tenant && e.2.st == .resident &&
    s.pinCount core e.1 e.2 == 0 && !keep.contains e.2.hash
  let out := (((s.loftOf core).filter free).map (·.2.slots)).sum
  (s.makeRoom core tenant slots keep = none ↔
    s.quotaOf core tenant + out < slots + s.slotsUsed core tenant ∨ 256 + out < slots + s.slotsOn core) ∧
  ∀ t, s.makeRoom core tenant slots keep = some t →
    t.slotsUsed core tenant + slots ≤ s.quotaOf core tenant ∧ t.slotsOn core + slots ≤ 256 ∧
    (∀ c n e, n < 256 → smGet s.loft (c * 256 + n) = some e → c ≠ core ∨ free (n, e) = false →
      smGet t.loft (c * 256 + n) = some e) ∧
    (∀ c n e, n < 256 → smGet s.loft (c * 256 + n) = some e → smGet t.loft (c * 256 + n) = some e ∨
      smGet t.loft (c * 256 + n) = some e.empty))

/-- R46 to R48, R52, R53, R179, R181, R248, R298, R305, R312, R356: what happens to warps by itself: a store leaves
its queue (in order, but freely among Granary stores of other bytes, and among the bytes of one tile, and after the far acquires
and the loads of its bytes before it and the copies that a LAND before it has waited out) and takes effect; a load from the Granary reads its value, from the youngest earlier store of the
queue that covers a byte, else from the Granary: a lane's registers, the register of an SLD, or a byte of a tile that
CVT.chk reads (R292), whose last byte ends it; lanes that wait or are late become runnable; a barrier opens; a sheaf
is due by age and issues as a warp; an ended warp is freed. Where its condition does not hold an event changes
nothing. R29, R51 to R53: a sheaf issues as a fresh warp under the lowest free %warpid, on the core that keeps the
sheaf, in the unit with the most free words: its threads in order of filing from lane 0 up, the other lanes vacant,
the template in s0 to s63, flags clear, the store queue empty. An ended warp that still holds its slot has freed its %warpid
(R51), and goes on under a number of the model's own. Once every thread of the block is filed, each of its sheaves is
due. It waits for a free %warpid, and for a warp slot and for words (these two by the model's reading, log
entry 40). -/
def Obligations.WarpEvents : Prop :=
  (∀ (s : State) (k wid n : Nat), s.cur = none →
  let lanes (f : Warp → Lane → Lane) : State := { s with blocks := smMod s.blocks k fun b =>
    { b with warps := smMod b.warps wid fun w => { w with lanes := w.lanes.map (f w) } } }
  let behind (w : Warp) (l : Lane) : Bool := w.lanes.any fun m => m.st != .exited && m.st != .vacant &&
    (decide (l.depth < m.depth) || (m.depth == l.depth && decide (m.pc.toNat < l.pc.toNat)))
  let late (l : Lane) : Bool := l.st == .late && (List.range 12).all fun j => !l.lateMask.testBit j || l.arr.getLsbD j
  exec (.reconvergenceRelease k wid) s = .next (lanes fun w l =>
    if l.st == .waiting && !behind w l then { l with st := .runnable } else l) ∧
  Gives (exec (.lateLaneArrival k wid) s) (fun t => t = { lanes fun _ l =>
    if late l then { l with st := .runnable, lateMask := 0 } else l with order := t.order }) ∧
  ∀ b, smGet s.blocks k = some b → smWf s.blocks = true → smWf b.warps = true →
    (b.core.isSome = true → b.stopped = false → b.barrierReady = true → Gives (exec (.barrierOpen k) s) fun t => t = { s with
      order := t.order
      blocks := smSet s.blocks k { b with
        warps := b.warps.map fun w => (w.1, { w.2 with lanes := w.2.lanes.map fun l =>
          if l.arrived.isSome then { l.next with arrived := none } else l }) } }) ∧
    (b.core = none ∨ b.stopped = true ∨ b.barrierReady = false → exec (.barrierOpen k) s = .next s) ∧
    (b.core.isSome = true → exec (.sheafAgeLimit k n) s = .next { s with
      blocks := smSet s.blocks k { b with sheaves := listMod b.sheaves n fun x =>
        if x.since + (s.die (b.onCore / 48)).sheafAge (b.onCore % 48) ≤ (s.die (b.onCore / 48)).clock
        then { x with due := true } else x } }) ∧
    (∀ w, smGet b.warps wid = some w → w.freeable = false → exec (.warpFree k wid) s = .next s) ∧
    (∀ w, smGet b.warps wid = some w → w.freeable = true → Gives (exec (.warpFree k wid) s) fun t =>
      (∀ c, smGet t.blocks k = some c → smGet c.warps wid = none ∧ c.shared = b.shared ∧ ∀ j, j ≠ wid →
        smGet c.warps j = smGet b.warps j) ∧
      ((smDel b.warps wid).isEmpty = true → b.sheaves = [] → smGet t.blocks k = none ∧
        ∀ gr, smGet s.grids b.grid = some gr → smGet t.grids b.grid = some { gr with blocksEnded := gr.blocksEnded + 1 })) ∧
    (∀ w x, smGet b.warps wid = some w → w.queue.length ≤ n → w.gloads[n - w.queue.length]? = some x → b.core.isSome = true →
      let first := ∀ y ∈ w.gloads.take (n - w.queue.length), y.addr + y.size ≤ x.addr ∨ x.addr + x.size ≤ y.addr
      let die := b.coreOf w / 48
      let byte (a : Nat) : Byte :=
        match (w.queue.filter fun q => decide (q.serial < x.serial) && q.covers (.granary die) a).getLast? with
        | some q => q.bytes.getD (a - q.addr) 0
        | none => memByte (s.die die).granary die a
      let val := leNat ((List.range x.size).map fun i => byte (x.addr + i))
      (¬ first → Gives (exec (.storeQueueDrain k wid n) s) fun t => t.blocks = s.blocks ∧ t.dies = s.dies ∧ t.far = s.far) ∧
      (first → x.dest ≠ .tile → w.windows = [] → Gives (exec (.storeQueueDrain k wid n) s) fun t => t.dies = s.dies ∧ t.far = s.far ∧
        ∃ c v, smGet t.blocks k = some c ∧ smGet c.warps wid = some v ∧ c.shared = b.shared ∧ v.queue = w.queue ∧
          v.gloads = w.gloads.eraseIdx (n - w.queue.length) ∧
          (∀ j, v.sraw j = if x.dest = .uniform ∧ j = x.reg then w32 val else w.sraw j) ∧
          v.lanes = w.lanes.map fun l =>
            if x.dest = .uniform ∨ l.id ≠ x.lane then l
            else if x.size = 8 then (l.vput x.reg (w32 val)).vput (x.reg + 1) (w32 (val / 2 ^ 32))
            else l.vput x.reg (w32 val)) ∧
      (first → x.dest = .tile → w.windows = [] → b.save = none →
        let took (c : ChkOp) : ChkOp :=
          if c.op = x.reg then
            { c with bytes := smSet c.bytes x.lane val, st := if (s.focus k wid).chipBad (.granary die) x.addr then 0x13 else c.st }
          else c
        let more := ∃ y ∈ w.gloads.eraseIdx (n - w.queue.length), y.dest = .tile ∧ y.reg = x.reg
        Gives (exec (.storeQueueDrain k wid n) s) fun t => t.dies = s.dies ∧ t.far = s.far ∧
          (more → t.chks = s.chks.map took) ∧
          (¬ more → ∀ c, s.chks.find? (·.op == x.reg) = some c → c.blk = k → c.wid = wid →
            let e := took c
            let size := trailerAt (tCodes c.words c.sub (c.lanes.length * tElems c.words c.k)).2 + 16
            let found := chkResult c.words c.sub c.k c.lanes
              ((List.range size).map fun i => BitVec.ofNat 8 ((smGet e.bytes i).getD 0))
            t.chks = (s.chks.map took).filter (·.op != x.reg) ∧
            ∃ b' v, smGet t.blocks k = some b' ∧ smGet b'.warps wid = some v ∧
              v.flags = (w.complete x.reg (if e.st = 0 then found.2 else e.st)).flags))) ∧
    ∀ w q, smGet b.warps wid = some w → w.queue[n]? = some q → b.core.isSome = true →
      let may := (∀ p ∈ w.queue.take n,
          (p.granary = true ∨ q.granary = true ∨ q.op ≠ none ∧ p.op = q.op) ∧ p.meets q = false) ∧
        (∀ a ∈ q.after, (∀ x ∈ s.farQ, x.id = a → x.acked = true) ∧ ∀ c ∈ s.copies, c.id ≠ a) ∧
        (q.granary = true → ∀ x ∈ w.gloads, x.serial < q.serial →
          x.addr + x.size ≤ q.addr ∨ q.addr + q.bytes.length ≤ x.addr)
      let f := (s.focus k wid).storeTo q.who q.clk q.space q.addr q.bytes
      let left : State := { f with w := { f.w with queue := f.w.queue.eraseIdx n } }
      (¬ may → exec (.storeQueueDrain k wid n) s = .next s) ∧
      (may → q.op = none → exec (.storeQueueDrain k wid n) s = .next left.bump.unfocus) ∧
      (∀ o, may → q.op = some o → Gives (exec (.storeQueueDrain k wid n) s) fun t => t = { (if left.w.queue.any (fun x => x.op == some o)
        then left else left.complete k wid o 0).bump.unfocus with order := t.order })) ∧
  (∀ (s : State) (k : Nat) (b0 : Block), s.cur = none → smGet s.blocks k = some b0 →
  let b : Block := if (∀ w ∈ b0.warps, ∀ l ∈ w.2.lanes, l.st = .exited ∨ l.st = .vacant) then
    { b0 with sheaves := b0.sheaves.map fun (x : Sheaf) => { x with due := true } } else b0
  let waits := exec (.sheafIssue k) s = .next { s with blocks := smSet s.blocks k b }
  (((∀ x ∈ b.sheaves, x.due = false) ∨ s.freeWid b = none ∨ b.core = none ∨ b.stopped = true) → waits) ∧
  ∀ (wid : Nat) (sh : Sheaf), b.sheaves.find? (·.due) = some sh → s.freeWid b = some wid → b.core.isSome = true →
  b.stopped = false →
  let p := s.pktOf b
  let free := s.freeWords b.onCore p
  let full := 128 ≤ (s.slotsTaken b.onCore).1 ∨ free.getD (mostFree free) 0 < p.width * sh.budget
  (full → waits) ∧
  (¬ full → b.template.length = 64 → Gives (exec (.sheafIssue k) s) fun t =>
    ∃ c w, smGet t.blocks k = some c ∧ smGet c.warps wid = some w ∧ c.sheaves = b.sheaves.erase sh ∧
      c.coreOf w = b.onCore ∧
      (∀ j v, j ≠ wid → smGet b.warps j = some v → j < 2 ^ 16 → smGet c.warps j = some v) ∧
      (∀ v, smGet b.warps wid = some v → v.over = true ∧
        smGet c.warps (wid + 2 ^ 16 * s.serial) = some { v with wid := wid + 2 ^ 16 * s.serial }) ∧
      w.lanes.length = p.width ∧ w.flags = [] ∧ w.queue = [] ∧ w.role = sh.role ∧ w.budget = sh.budget ∧
      (∀ j < 64, w.sraw j = b.template.getD j 0) ∧
      (∀ j l, sh.threads[j]? = some l → j < p.width → w.lanes[j]? = some { l with id := j, arr := 0xFFF, hint := {} }) ∧
      (∀ j < p.width, sh.threads.length ≤ j → ∃ l, w.lanes[j]? = some l ∧ l.st = .vacant ∧ l.id = j)))

/-- R144, R145, R159 to R174, R179, R187, R251, R304: the far-access unit. A line access that nothing holds back is
performed: a write changes exactly its lanes' bytes, the last lane in order that covers a byte giving it; a read or
atomic takes what it finds, and an atomic writes the result of its operation; a line with an uncorrectable error gives
status 0x0013. What is at home in host memory stands in the endpoint until it is performed there, for one line in the
order in which the endpoint accepted it (R160, R179), after those before it that the island has read (R178, R190) and, in
class O, in the order of R164. The reply
writes the lanes' registers, sets their arrival bits and completes the operation. A write by software to a plane
element of the live session leaves the element's bytes undefined: they hold free values. -/
def Obligations.FarEvents : Prop := ∀ (s : State) (x : FarAcc), s.cur = none →
  let mine (stage : FarAcc → Prop) : Prop := x ∈ s.farQ ∧ stage x ∧ ∀ y ∈ s.farQ, y.id = x.id → y = x
  let done (f : FarAcc → FarAcc) : List FarAcc := s.farQ.map fun y => if y.id = x.id then f y else y
  let i : Instr := .lineAccessPerform x.id
  let write := x.kind = 2 ∨ x.kind = 3
  let op (l : Nat × Nat × Nat × Nat × Nat) : Nat := atomOp x.aop x.aty (s.farNat l.2.1 x.size) l.2.2.2.1 l.2.2.2.2
  let got := x.lanes.map fun l => (l.1, s.farNat l.2.1 x.size)
  let bare (q : List FarAcc) : List FarAcc := q.map fun y => { y with clk := [] }
  let plain (u : State) : State := { u with
    order := {}
    farQ := bare u.farQ
    chks := u.chks.map fun c => { c with clk := [] }
    copies := u.copies.map fun c => { c with clk := [] }
    engines := u.engines.map fun e => (e.1, e.2.map fun y => { y with clk := [] })
    session := u.session.map fun v => { v with
      upds := v.upds.map fun y => { y with clk := [] }, ops := v.ops.map fun y => { y with clk := [] } }
    loft := u.loft.map fun e => (e.1, { e.2 with clk := [] })
    blocks := u.blocks.map fun b => (b.1, { b.2 with warps := b.2.warps.map fun w =>
      (w.1, { w.2 with queue := w.2.queue.map fun q => { q with clk := [] } }) }) }
  let apart := s.session = none ∨ x.lanes.length = 1 ∧ ∀ v n u p l, s.session = some v → (n, u) ∈ v.valid →
    p ∈ s.planePages v.tenant u → l ∈ x.lanes → ∀ j < x.size, ∀ a, s.home a = s.home (l.2.1 + j) → a < p.2 ∨ p.2 + 65536 ≤ a
  let seen := (s.sawHost (x.lanes.map fun l => (l.2.1, x.size))).hostSeen
  let straight (l : Nat) : Prop := ∀ j < x.size, s.home (l + j) = s.home l + j
  (mine (fun y => y.stage = 0) → s.canPerform x = false → exec i s = .next s) ∧
  (mine (fun y => y.stage = 0) → s.canPerform x = true →
    (write → Gives (exec i s) fun t =>
      plain t = plain { s with
        far := t.far, hostQ := t.hostQ, hostView := t.hostView
        farQ := done fun y => { y with stage := if locHost (s.home x.loc) then 1 else 2 } } ∧
      (apart → t.hostView = s.hostView ∧
        t.hostQ = s.hostQ ++ (x.lanes.filter fun l => locHost (s.home l.2.1)).map (fun l =>
          (x.id, s.home l.2.1, leBytes x.size l.2.2.2.1)) ∧
        (∀ a, (∀ l ∈ x.lanes, ∀ j < x.size, s.home a ≠ s.home (l.2.1 + j)) → t.farByte a = s.farByte a) ∧
        (∀ k l j, x.lanes[k]? = some l → straight l.2.1 → j < x.size →
          (∀ m ∈ x.lanes.drop (k + 1), ∀ n < x.size, s.home (m.2.1 + n) ≠ s.home (l.2.1 + j)) →
          memByte t.far farTag (s.home l.2.1 + j) = BitVec.ofNat 8 (l.2.2.2.1 / 256 ^ j)))) ∧
    (x.kind = 0 ∨ x.kind = 4 → s.bad x.loc 1 = true → Gives (exec i s) fun t => plain t = plain { s with
      hostSeen := seen, farQ := done fun y => { y with stage := 2, st := if y.st = 0 then 0x13 else y.st } }) ∧
    (x.kind = 0 → s.bad x.loc 1 = false → Gives (exec i s) fun t => plain t = plain { s with
      hostSeen := seen, farQ := done fun y => { y with stage := 2, got := got } }) ∧
    (x.kind = 1 → smWf s.blocks = true → (∀ b ∈ s.blocks, smWf b.2.warps = true) →
      Gives (exec i s) fun t => plain t = plain { s with
        hostSeen := seen
        farQ := done fun y =>
          if s.bad x.loc 1 then { y with stage := 2, st := if y.st = 0 then 0x13 else y.st }
          else { y with stage := 2, got := got } }) ∧
    (∀ l, x.kind = 4 → x.lanes = [l] → s.bad x.loc 1 = false → Gives (exec i s) fun t =>
      plain t = plain { s with
        far := t.far, hostQ := t.hostQ, hostView := t.hostView, hostSeen := seen
        farQ := done fun y => { y with stage := 2, got := got } } ∧
      (apart → t.hostView = s.hostView ∧
        t.hostQ = s.hostQ ++ (if locHost (s.home l.2.1) then [(x.id, s.home l.2.1, leBytes x.size (op l))] else []) ∧
        (∀ a, (∀ j < x.size, s.home a ≠ s.home (l.2.1 + j)) → t.farByte a = s.farByte a) ∧
        (straight l.2.1 → memNat t.far farTag (s.home l.2.1) x.size = op l % 256 ^ x.size)))) ∧
  (∀ id, (∀ y ∈ s.farQ, y.id = id → y.stage ≠ 0) →
    let own := s.hostQ.filter fun q => q.1 == id
    let later := s.hostQ.filter fun q => q.1 != id
    let waits := own = [] ∨
      (∃ q ∈ s.hostQ.takeWhile (fun q => q.1 != id), q.1 ∈ s.hostSeen ∨ ∃ m ∈ own, lineOf m.2.1 = lineOf q.2.1) ∨
      (∃ y ∈ s.farQ, y.id = id ∧ ∃ z ∈ s.farQ, y.inLine z = true ∧ ∃ q ∈ later, q.1 = z.id) ∨
      ∃ m ∈ own, s.frozen m.2.1 = true
    (waits → exec (.lineAccessPerform id) s = .next s) ∧
    (¬ waits → Gives (exec (.lineAccessPerform id) s) fun t => t.hostQ = later ∧ t.far = s.far ∧ t.dies = s.dies ∧
      t.hostSeen = s.hostSeen.filter (· != id) ∧ t.hostView = own.foldl (fun m q => memWrite m q.2.1 q.2.2) s.hostView)) ∧
  (∀ id loc bs v n u p r o sz k, s.session = some v → (n, u) ∈ v.valid → p ∈ s.planePages v.tenant u → r < 65536 →
    k < bs.length → s.home (loc + k) = s.home (p.2 + r) → u.elemAt (p.1 + r) = some (o, sz) → smWf s.far = true →
    ∀ j < sz, smGet (s.softWrite id loc bs).far (s.home (p.2 + (o - p.1) + j)) = none) ∧
  (∀ rs k, k ∈ (s.sawHost rs).hostSeen ↔ k ∈ s.hostSeen ∨ ∃ q ∈ s.hostQ, q.1 = k ∧ ∃ r ∈ rs, ∃ j < r.2,
    q.2.1 ≤ s.home (r.1 + j) ∧ s.home (r.1 + j) < q.2.1 + q.2.2.length) ∧
  (∀ (u : Tensor) (e : Nat), e < u.nel → let n := 32768 * ((u.nel + 32767) / 32768)
    (∀ k < 2, ∀ j < 2, u.elemAt (2 * n * k + 2 * e + j) = some (2 * n * k + 2 * e, 2)) ∧
    ∀ k, 1 ≤ k → k < 7 → ∀ j < 4, u.elemAt (4 * n * k + 4 * e + j) = some (4 * n * k + 4 * e, 4)) ∧
  (mine (fun y => y.stage = 2 ∧ y.acked = false ∧ y.kind ≠ 2 ∧ y.kind ≠ 3) →
    (∀ c ∈ s.chks, c.op ≠ x.op) → (∀ b, smGet s.blocks x.blk = some b → b.save = none) →
    Gives (exec (.farReply x.id) s) fun t => t.far = s.far ∧ t.hostView = s.hostView ∧ t.dies = s.dies ∧ t.grids = s.grids ∧
      (∀ y ∈ t.farQ, y.id = x.id → y.acked = true) ∧
      ∀ b w, smGet s.blocks x.blk = some b → smGet b.warps x.wid = some w →
        ∃ c v, smGet t.blocks x.blk = some c ∧ smGet c.warps x.wid = some v ∧ c.shared = b.shared ∧ v.s = w.s ∧
          v.lanes.length = w.lanes.length ∧
          ((∀ y ∈ s.farQ, y.op = x.op → y.id ≠ x.id → y.acked = true) → v.flags = (w.complete x.op x.st).flags) ∧
          (∀ f, f < 12 → x.kind ≤ 1 → x.flag = some f →
            (∀ y ∈ s.farQ, y.id ≠ x.id → y.acked = true ∨ y.flag ≠ some f ∨ y.wid ≠ x.wid) →
            ∀ m ∈ v.lanes, (∃ z ∈ x.lanes, z.1 = m.id) → m.arr.getLsbD f = true) ∧
          ∀ (j : Nat) (l m : Lane) (z : Nat × Nat × Nat × Nat × Nat) (val : Nat), x.lanes = [z] → z.1 = j →
            w.lanes[j]? = some l → v.lanes[j]? = some m → l.id = j → w.windows = [] → smGet x.got j = some val →
            m.vraw z.2.2.1 = BitVec.ofNat 32 val ∧ (x.size = 8 → m.vraw (z.2.2.1 + 1) = BitVec.ofNat 32 (val / 2 ^ 32)) ∧
            ∀ r, r ≠ z.2.2.1 → (x.size = 8 → r ≠ z.2.2.1 + 1) → m.vraw r = l.vraw r) ∧
  (mine (fun y => 1 ≤ y.stage ∧ y.acked = false ∧ (y.kind = 2 ∨ y.kind = 3)) →
    (x.kind = 3 → s.completeAt x x.scope = false → exec (.farAcknowledgement x.id) s = .next s) ∧
    ((x.kind = 3 → s.completeAt x x.scope = true) → Gives (exec (.farAcknowledgement x.id) s) fun t =>
      t.far = s.far ∧ t.hostView = s.hostView ∧ t.dies = s.dies ∧ ∀ y ∈ t.farQ, y.id = x.id → y.acked = true))

/-- R131, R133 to R142, R184: the life of a copy. It is accepted once the stores, acquires and permits before it
allow, completing its flag; its elements are read in ordinal order, and one that cannot be had stops the walk; what
they bring is on its way, in pieces of one line of far memory or one aligned 8-byte unit, each with the time it was first
sent, and the pieces land in any order but for those of one line, an on-chip unit as a whole; a dropped beat waits for
reservation windows; and at the end its stamp is written, and the copy is gone. A read that goes unanswered keeps it where it
stands (R392). R136: a walk that stopped leaves the counters of its element, the address that faulted and the side in its
slot. R140: a CPYQ that has landed every byte reads its trailer, whose finding is its status. R141, R142: a CPYT decodes its
tile before a pixel of it lands, and a bad one stops the walk: a code is a unary part, k bits and no more, or 17 bits after
sixteen ones; a pixel is predicted by the median of its neighbours' values; a tile of raw pixels is taken as it is where its CRC
agrees. -/
def Obligations.CopyEvents : Prop := ∀ (s : State) (c : Copy), s.cur = none → c ∈ s.copies →
  (∀ x ∈ s.copies, x.id = c.id → x = c) →
  let mod (t : State) (f : Copy → Copy) : List Copy := t.copies.map fun x => if x.id = c.id then f x else x
  let plain (u : State) : State := { u with order := {}, copies := u.copies.map fun x => { x with clk := [] } }
  let going := c.accepted = true ∧ c.stopAt = none ∧ c.status = 0 ∧ c.next < c.walk.total
  let visits := going ∧ c.deadSince = none
  let visited (loc : Nat) (bs : List Byte) (px : List Nat) : List Copy := mod s fun x => { x with
    next := c.next + 1
    out := x.out ++ (unitPieces (if c.walk.dsp = 2 then 64 else 8) loc bs).map fun p => ⟨p.1, p.2, (s.die c.die).ref⟩
    resv := none, srcOn := x.srcOn && decide (c.next + 1 < c.walk.total), pixels := px }
  let stopped (st addr side detail loc : Nat) : State := { s with copies := mod s fun x => { x with
    status := st, stopAt := some (c.next, addr, side), failed := (detail, loc), srcOn := false, pixels := [] } }
  let src := c.walk.srcAddr c.next
  let dst := c.walk.dstAddr c.next
  let read (t u : State) : Prop := plain t = plain { u with tlb := t.tlb, hostSeen := t.hostSeen }
  let element : Instr := .copyElement (2 ^ 64 * c.id)
  (s.canAccept c = false → exec (.copyAccept c.id) s = .next s) ∧
  (∀ l, s.canAccept c = true → s.slotOf c = .inl l → Gives (exec (.copyAccept c.id) s) fun t =>
    t = { s with
      tlb := t.tlb
      copies := mod s fun x => { x with
        accepted := true, slot := l, landOn := c.walk.dsp != 2, srcOn := c.walk.ssp != 2 } }.complete c.blk c.wid c.op 0) ∧
  (∀ st, s.canAccept c = true → s.slotOf c = .inr st → exec (.copyAccept c.id) s =
    .next ({ s with copies := s.copies.filter fun x => x.id != c.id }.complete c.blk c.wid c.op st)) ∧
  (¬ visits → exec element s = .next s) ∧
  (visits → c.kind ≠ 1 → ∀ l bs, s.copyRead c src = .ok l bs →
    (∀ loc r, s.copyReach c dst = .ok loc r → Gives (exec element s) fun t => read t { s with
      copies := visited loc bs (if c.kind = 2 then c.pixels ++ bs.map (·.toNat) else c.pixels) }) ∧
    (s.copyReach c dst = .hold → Gives (exec element s) fun t => read t s) ∧
    (∀ st d lc, s.copyReach c dst = .bad st d lc → Gives (exec element s) fun t => read t (stopped st dst.toNat 1 d lc))) ∧
  (visits → c.kind ≠ 1 → s.copyRead c src = .hold → exec element s = .next s) ∧
  (visits → c.kind ≠ 1 → ∀ st d lc, s.copyRead c src = .bad st d lc → exec element s = .next (stopped st src.toNat 0 d lc)) ∧
  (visits → c.kind = 1 → c.pixels ≠ [] →
    (∀ loc r, s.copyReach c dst = .ok loc r → Gives (exec element s) fun t => t = { s with
      tlb := t.tlb
      copies := visited loc (leBytes 2 (c.pixels.getD (c.next % 4096) 0))
        (if c.next % 4096 = 4095 then [] else c.pixels) }) ∧
    (s.copyReach c dst = .hold → exec element s = .next s) ∧
    (∀ st d lc, s.copyReach c dst = .bad st d lc → exec element s = .next (stopped st dst.toNat 1 d lc))) ∧
  (visits → c.kind = 1 → c.pixels = [] → ∀ l x hd, s.copyBytes c src.toNat 8 = (.ok l hd, x) →
    ∀ l' x' bs, s.copyBytes c src.toNat (max 8 (leNat (hd.take 2))) = (.ok l' bs, x') →
      (∀ px, decodeTile bs = .inl px → Gives (exec element s) fun t => read t { s with
        copies := mod s fun x => { x with pixels := px } }) ∧
      (∀ st, decodeTile bs = .inr st → exec element s = .next (stopped st 0 0 0 0))) ∧
  (visits → c.kind = 1 → c.pixels = [] → ∀ x,
    (s.copyBytes c src.toNat 8 = (.hold, x) → exec element s = .next s) ∧
    (∀ st d lc, s.copyBytes c src.toNat 8 = (.bad st d lc, x) → exec element s = .next (stopped st x 0 d lc))) ∧
  (∀ k, k + 1 < 2 ^ 64 → c.out[k]? = none → exec (.copyElement (2 ^ 64 * c.id + (k + 1))) s = .next s) ∧
  (∀ k p, k + 1 < 2 ^ 64 → c.out[k]? = some p →
    let line := c.walk.dsp = 2
    let unit (q : Beat) : Bool := q.loc / 8 == p.loc / 8
    let free := if line then s.cut c.die p.loc = false ∧ s.frozen p.loc = false ∧ ∀ q ∈ c.out.take k, lineOf q.loc ≠ lineOf p.loc
      else c.unitOpen (p.loc / 8) = false
    (¬ free → exec (.copyElement (2 ^ 64 * c.id + (k + 1))) s = .next s) ∧
    (free → line → s.session = none → Gives (exec (.copyElement (2 ^ 64 * c.id + (k + 1))) s) fun t =>
      t.far = s.farStore s.far p.loc p.bytes ∧
      (locHost (s.home p.loc) = false → t = { s with
        serial := t.serial, far := t.far, order := t.order, copies := mod s fun x => { x with out := x.out.eraseIdx k } }) ∧
      (locHost (s.home p.loc) = true → t.hostQ = s.hostQ ++ [(s.serial, s.home p.loc, p.bytes)] ∧
        t.copies = mod s fun x => { x with out := x.out.eraseIdx k, hostAcks := (s.serial, p.born) :: x.hostAcks })) ∧
    (free → ¬ line → c.spoilt = [] → (∃ b, smGet s.blocks c.blk = some b ∧ b.core.isSome = true) →
      Gives (exec (.copyElement (2 ^ 64 * c.id + (k + 1))) s) fun t => t =
        (let put (m : Mem) : Mem := (c.out.filter unit).foldl (fun m q => memWrite m q.loc q.bytes) m
        let u : State := { s with order := t.order, copies := mod s fun x => { x with out := c.out.filter fun q => !unit q } }
        if c.walk.dsp = 0 then { u with blocks := smMod s.blocks c.blk fun b => { b with shared := put b.shared } }
        else { u with dies := listMod s.dies c.die fun d => { d with granary := put d.granary } }))) ∧
  (∀ u a bs, 0 < u → bs ≠ [] → (unitPieces u a bs).flatMap (fun p => p.2.zipIdx p.1) = bs.zipIdx a ∧
    ∀ p ∈ unitPieces u a bs, p.2 ≠ [] ∧ p.1 / u = (p.1 + p.2.length - 1) / u) ∧
  exec (.dropNotice c.id) s = .next { s with copies := mod s fun x => if going ∧ x.resv = none then { x with resv := some 1 } else x } ∧
  exec (.reservationWindowExpiry c.id) s = .next { s with copies := mod s fun x => { x with resv := x.resv.map (· + 1) } } ∧
  (let ends := c.accepted = true ∧ ¬ going ∧ c.out = [] ∧ c.deadSince = none ∧ s.slotOpen c = true ∧ s.copyAcked c = true
  let stamps (st : Nat) : Prop := Gives (exec (.copyStampWrite c.id) s) fun t =>
    t.copies = s.copies.filter (fun x => x.id != c.id) ∧
      (∀ b, c.walk.stsp = 0 → smGet s.blocks c.blk = some b → b.core.isSome = true → st < 0x11 →
        ∃ b', smGet t.blocks c.blk = some b' ∧ memNat b'.shared (sharedTag c.blk) c.slot 8 = (c.walk.seq * 2 ^ 16 + st) % 2 ^ 64) ∧
      (c.walk.stsp = 1 → c.die < s.dies.length → memNat (t.die c.die).granary c.die c.slot 8 =
        (c.walk.seq * 2 ^ 16 + st) % 2 ^ 64 ∧
        ∀ n adr side, c.stopAt = some (n, adr, side) → n < c.walk.total → c.walk.ext.length = 6 →
          memBytes (t.die c.die).granary c.die (c.slot + 8) 24 = (List.range 6).flatMap (fun j => leBytes 2
            (n / (c.walk.ext.take j).foldl (· * ·) 1 % c.walk.ext.getD j 1)) ++ leBytes 8 adr ++ leBytes 2 side ++ leBytes 2 0) ∧
      (c.walk.stsp = 2 → st < 0x11 → s.session = none → (∀ j < 8, s.home (c.slot + j) = s.home c.slot + j) →
        memNat t.far farTag (s.home c.slot) 8 = (c.walk.seq * 2 ^ 16 + st) % 2 ^ 64)
  (¬ ends → exec (.copyStampWrite c.id) s = .next s) ∧
  (ends → c.kind ≠ 2 ∨ c.status ≠ 0 → stamps c.status) ∧
  (ends → c.kind = 2 → c.status = 0 → c.stopAt = none →
    let a := c.walk.sbase + (c.pixels.length + 15) / 16 * 16
    let payload : List Byte := c.pixels.map fun x => BitVec.ofNat 8 x
    ∀ tr : List Byte,
    (c.walk.ssp = 0 ∧ s.srcBroken c a 16 = false ∧ tr = (List.range 16).map fun j => s.sharedByte c.blk (a + j)) ∨
    (c.walk.ssp = 1 ∧ s.srcBroken c a 16 = false ∧ tr = (List.range 16).map fun j => memByte (s.die c.die).granary c.die (a + j)) ∨
    (c.walk.ssp = 2 ∧ ∃ l x, s.copyBytes c a 16 = (.ok l tr, x)) →
      stamps (if crc32c (payload ++ tr.take 12) ≠ leNat ((tr.drop 12).take 4) then 0x21
        else if leNat ((tr.drop 9).take 1) ≠ c.walk.qfmt then 0x22 else 0))) ∧
  (let bits (w u : Nat) : List Bool := (List.range w).map fun j => u.testBit j
  let difference (u : Nat) : Int := if u % 2 = 0 then ((u / 2 : Nat) : Int) else -(((u + 1) / 2 : Nat) : Int)
  (∀ k q r rest, k < 16 → q < 16 → r < 2 ^ k →
    takeCode k (List.replicate q true ++ false :: (bits k r ++ rest)) = some (difference (q * 2 ^ k + r), rest)) ∧
  (∀ k u rest, u < 2 ^ 17 → takeCode k (List.replicate 16 true ++ (bits 17 u ++ rest)) = some (difference u, rest)) ∧
  (∀ (x y : Nat) (a b d : Int), predPixel 0 0 a b d = 0 ∧ (x ≠ 0 → predPixel x 0 a b d = a) ∧ (y ≠ 0 → predPixel 0 y a b d = b) ∧
    (x ≠ 0 → y ≠ 0 → predPixel x y a b d = max (min a b) (min (max a b) (a + b - d)))) ∧
  ∀ px : List Nat, px.length = 4096 → (∀ x ∈ px, x < 2 ^ 16) → ∀ crc < 2 ^ 32, ∀ len flags,
    let body := px.flatMap (leBytes 2)
    len < 2 ^ 16 → flags < 2 ^ 16 → flags ≠ 0 ∨ len < 8 →
      decodeTile (leBytes 2 len ++ leBytes 2 flags ++ leBytes 4 crc ++ body) =
        if 2 ≤ flags ∨ len ≠ 8200 then .inr 0x15 else if crc32c body = crc then .inl px else .inr 0x16)

/-- R78, R79, R88, R92, R93, R185, R371: a load that completes, once what its OVLD comes after is over and its bytes
can be read: with the image's hash as the directory gives it the entry is resident with its words and with the
safe-point runs that main memory holds for it; otherwise the entry is absent again and its waiters learn status 2, 3
or 4. A quota write holds unless the core's total would pass 256 slots. -/
def Obligations.LoftEvents : Prop := ∀ (s : State) (core n : Nat) (e : LoftEntry), s.cur = none →
  let i : Instr := .overlayLoadComplete core n
  let key := core * 256 + n
  (smGet s.loft key = some e →
    let now := e.st = .loading ∧ (e.forced = true ∨ s.overlayHeld (core / 48) e = false)
    (¬ now → exec i s = .next s) ∧
    (now → ∀ x, s.loadImage core e = .inr x → e.evictMark = false → Gives (exec i s) fun t => smGet t.loft key = some { e with
      st := .resident, words := x.words, entries := x.entries, safe := x.safe, waiters := [] }) ∧
    (now → ∀ st, s.loadImage core e = .inl st → Gives (exec i s) fun t =>
      ∃ x, smGet t.loft key = some x ∧ x.st = .absent ∧ x.gen = e.gen ∧ x.words = [] ∧ x.waiters = []) ∧
    (now → ∀ x b w, e.waiters = [x] → x.reload = false → x.pin = false → smGet s.blocks x.blk = some b →
      smGet b.warps x.wid = some w → e.evictMark = false → Gives (exec i s) fun t =>
        ∃ c, smGet t.blocks x.blk = some c ∧ smGet c.warps x.wid = some (w.complete x.op
          (match s.loadImage core e with | .inl st => st | .inr _ => 0))) ∧
    (e.forced = true → s.loadImage core e = .inl 4) ∧
    (e.forced = false →
      let n := e.dirE.count
      let image := s.vaBytes (core / 48) e.tenant 0 (e.cont + e.dirE.image) (4 * n + e.dirE.size)
      let table := s.vaBytes (core / 48) e.tenant 0 (e.cont + 24) 8
      (image = none ∨ table = none → s.loadImage core e = .inl 3) ∧
      ∀ bs p runs, image = some bs → table = some p →
        s.safeRuns (core / 48) e.tenant (e.cont + leNat (p.take 8)) e.ovx = some runs →
        s.loadImage core e = if sha256Nat bs = e.dirE.hash then
          .inr { words := leWords 4 (e.dirE.size / 4) (bs.drop (4 * n)), entries := leWords 4 n bs, safe := runs }
          else .inl 2)) ∧
  (∀ die k j value, k < 48 → j < 16 → die < s.dies.length →
    let d := (s.die die).ctlWrite (0x1000 + 64 * k + 4 * j) value
    let total := ((List.range 16).map fun x => d.ctlField (0x1000 + 64 * k + 4 * x) 16 9).sum
    (256 < total → exec (.loftQuotaWrite die k j value) s = .next s) ∧
    (total ≤ 256 → Gives (exec (.loftQuotaWrite die k j value) s) fun t =>
      t.dies = listMod s.dies die (fun x => x.ctlWrite (0x1000 + 64 * k + 4 * j) value) ∧ t.grids = s.grids ∧ t.far = s.far))

/-- R125 to R129, R185, R321, R328, R408: the cube engine. An agreed operation enters while fewer than 16 stand; a pass
goes to the eligible entry of highest rank; after 4,096 clocks without a pass an entry is starved; a finished entry
leaves, its flags clearing with its status; after HANGT clocks without a pass, on an internal error and on RST the
engine is reset: the table, the batons and the stations are empty and the block's accumulators are lost. That a block on
a pair loses its operations with the reset of either engine is the model's reading (log entry 10). -/
def Obligations.EngineEvents : Prop := ∀ (s : State) (core id : Nat), s.cur = none →
  let clk := (s.die (core / 48)).clock
  let bare (es : List EngineEntry) : List EngineEntry := es.map fun x => { x with clk := [] }
  let reset (core : Nat) (t : State) : Prop := smWf s.engines = true → t.table core = [] ∧
    ∀ k b, smGet s.blocks k = some b → ∃ c, smGet t.blocks k = some c ∧
      let p := s.pktOf b
      let here := ∃ k, b.core = some k ∧ (k = core ∨ p.e ≠ 0 ∧ k + 1 = core)
      (¬ (here ∧ (p.acc ≠ 0 ∨ p.z ≠ 0)) → c = b) ∧
      (here ∧ (p.acc ≠ 0 ∨ p.z ≠ 0) →
        (∀ e ∈ t.table b.onCore, e.blk ≠ k) ∧ c.batons = [] ∧ c.accLost = true ∧ (∀ n < p.z, smGet c.stations n = none) ∧
        ∀ wid w, smGet b.warps wid = some w → ∃ v, smGet c.warps wid = some v ∧ v.lanes = w.lanes ∧ v.windows = [] ∧
          ∀ f, ((w.flag f).cube = true → (v.flag f).lost = true) ∧
            ((∃ o ∈ (w.flag f).ops, o.cube = true) → (v.flag f).ops = [] ∧ (v.flag f).status = 0x34))
  let hangs := ∃ e ∈ s.eligible core, ∃ t, e.eligSince = some t ∧
    0 < (s.die (core / 48)).hang ∧ t + (s.die (core / 48)).hang ≤ clk
  (∀ blk b k bt, smGet s.blocks blk = some k → smGet k.batons b = some bt → k.warps ≠ [] →
    (bt.agreed = false ∨ k.core = none ∨ 16 ≤ (s.table k.onCore).length → exec (.cubeAccept blk b) s = .next s) ∧
    (bt.agreed = true → k.core.isSome = true → (s.table k.onCore).length < 16 → smWf s.blocks = true → smWf k.warps = true →
      (∀ x ∈ k.warps, x.2.wid = x.1) → Gives (exec (.cubeAccept blk b) s) fun t =>
        smGet t.blocks blk = some { k with batons := smDel k.batons b } ∧
        ∃ e, t.table k.onCore = s.table k.onCore ++ [e] ∧ e.blk = k.key ∧ e.prio = s.gridPrio k.grid ∧ e.flags = bt.flags ∧
          e.op = bt.op (k.signerSeq k.warps bt.w0 bt.c) ∧ e.passes = 0 ∧ e.done = false)) ∧
  exec (.entryStarvation core id) s = .next { s with engines := smSet s.engines core ((s.table core).map fun e =>
    if e.id = id ∧ e.lastGrant + 4096 ≤ clk then { e with starved := true } else e) } ∧
  (∀ i kind, (i, kind) ∈ [(Instr.cubeComplete core id, fun o => EngineOp.isCube o), (.stationLoadComplete core id, fun o => o.loads),
      (.accumulatorOpComplete core id, fun o => !o.isCube && !o.loads)] →
    ((∀ e ∈ s.table core, e.id = id → e.done = false ∨ kind e.op = false) → exec i s = .next s) ∧
    (∀ e ∈ s.table core, (∀ x ∈ s.table core, x.id = id → x = e) → e.id = id → e.done = true → kind e.op = true →
      Gives (exec i s) fun t => bare (t.table core) = bare ((s.table core).filter (fun x => x.id != id)) ∧ t.far = s.far ∧ t.dies = s.dies ∧
        ∀ b, smGet s.blocks e.blk = some b → ∃ c, smGet t.blocks e.blk = some c ∧ c.stations = b.stations ∧ c.shared = b.shared ∧
          ((∀ f ∈ e.flags, b.spoiled.contains f.2.2 = false) → c.tiles = b.tiles) ∧
          ∀ f w, e.flags = [f] → smGet b.warps f.1 = some w → smGet c.warps f.1 = some (w.complete f.2.2 e.status))) ∧
  (¬ hangs → exec (.cubeHangTimeout core) s = .next s) ∧
  (hangs → exec (.cubeHangTimeout core) s = exec (.engineInternalError core) s) ∧
  Gives (exec (.engineInternalError core) s) (reset core) ∧
  ∀ die value, let c := value / 2 ^ 16 % 64
    (value.testBit 31 = false ∨ 48 ≤ c → exec (.cubectlRst die value) s =
      .next { s with dies := listMod s.dies die fun d => d.ctlWrite 0x9C value }) ∧
    (value.testBit 31 = true → c < 48 → Gives (exec (.cubectlRst die value) s) (reset (48 * die + c)))

/-- R113, R114, R116, R120, R121, R127 to R129, R328: a pass of the engine. It goes to the eligible entry of highest rank. A
CUBE that is not gather adds one k-slab to one tile: integer terms exactly, saturating; float terms as one rounded sum,
added with one more rounding. A term multiplies the element of A that the signer of its row and columns holds, the element
of B that the stations hold, and by the mode an element of T, each with its scale; a station load leaves there the elements
of the plane as they stand in shared memory, with their own blocks' scales. A gather reads its two lists in its first pass and
adds, in a tile's last, row G[i] of A times B to row H[i] of D in ascending i; an i out of range gives status 0x0032. ACCLD and ACCST move 32 words, ACCZ clears its tile. R321, R328: an uncorrectable error
under an ACCLD gives status 0x0013, and under a station load leaves its stations empty. -/
def Obligations.EnginePasses : Prop := ∀ (s : State) (core : Nat), s.cur = none →
  let clk := (s.die (core / 48)).clock
  (s.eligible core = [] → exec (.enginePass core) s = .next s) ∧
  ∀ e b, bestEntry (s.eligible core) = some e → smGet s.blocks e.blk = some b →
    let broken (a : Nat) : Bool := s.badChip.contains (sharedTag b.key, a)
    let r := e.pass b s.undef broken
    (∀ x ∈ s.eligible core, x.rank ≤ e.rank) ∧
    Gives (exec (.enginePass core) s) (fun t => ∃ c, t = { s with
      fresh := s.fresh + 1
      order := t.order
      blocks := smSet s.blocks e.blk r.2
      engines := smSet s.engines core ((s.table core).map fun x => if x.id = e.id then
        { r.1 with lastGrant := clk, eligSince := some clk, starved := false, clk := c } else x) }) ∧
    r.1.passes = e.passes + 1 ∧
    ((∀ mode fmt ws frags seq descs, e.op ≠ .cube mode fmt ws frags seq descs) →
      (r.1.done = true ↔ e.op.total ≤ e.passes + 1)) ∧
    (∀ acc, e.op = .accZero acc → e.bad = [] → ∀ w < 1024, smGet r.2.tiles (1024 * acc + w) = some 0) ∧
    (∀ acc nt off, e.op = .accLoad acc nt off → e.bad = [] → r.1.status = 0 → ∀ j < 32, let w := 32 * e.passes + j
      smGet r.2.tiles (1024 * (acc + w / 1024) + w % 1024) = some (w32 (b.sharedNat (off + 4 * w) 4))) ∧
    (∀ acc nt off, e.op = .accLoad acc nt off → (∃ j < 128, broken (off + 128 * e.passes + j) = true) → r.1.status = 0x13) ∧
    (∀ west ws, e.op = .load west ws → e.op.total ≤ e.passes + 1 → r.1.status ≠ 0 →
      ∀ n ∈ e.op.stations, smWf b.stations = true → smGet r.2.stations n = none) ∧
    (∀ acc nt off, e.op = .accStore acc nt off → e.bad = [] → ∀ j < 32, let w := 32 * e.passes + j
      memNat r.2.shared (sharedTag b.key) (off + 4 * w) 4 = ((smGet b.tiles (1024 * (acc + w / 1024) + w % 1024)).getD 0).toNat) ∧
    (∀ west ws, e.op = .load west ws →
      let w (n : Nat) : Nat := ws.getD n 0
      let fmt := w 3 / 2 ^ 21 % 2 ^ 4
      let k := w 3 % 2 ^ 14
      let n := 32 * (w 3 / 2 ^ 14 % 2 ^ 3 + 1)
      let rows := if west then n else k
      let cols := if west then k else n
      let row := cols * fmtWidth fmt / 8
      let scales := if (w 3).testBit 20 then rows * ((cols + 31) / 32) else 0
      let at' (p : Nat) : Nat := if p < rows * row then w 0 % 2 ^ 19 + p / row * (w 2 % 2 ^ 19) + p % row else w 1 % 2 ^ 19 + (p - rows * row)
      let moved (buf : SMap Nat) (m : Nat) : Prop := ∀ p < min m (rows * row + scales), smGet buf p = some (b.sharedNat (at' p) 1)
      cubeFmt fmt = true → k % cubeKs fmt = 0 → 1 ≤ k → smWf e.buf = true → smWf b.stations = true → moved e.buf (128 * e.passes) →
      (128 * (e.passes + 1) < rows * row + scales → moved r.1.buf (128 * (e.passes + 1)) ∧ r.2 = b) ∧
      (rows * row + scales ≤ 128 * (e.passes + 1) → r.1.status = 0 → ∃ st, smGet r.2.stations (w 3 / 2 ^ 17 % 2 ^ 3) = some st ∧
        st.fmt = fmt ∧ st.k = k ∧ st.n = n ∧ ∀ i j, i < k → j < n →
          let y := if west then j else i
          let x := if west then i else j
          let place := w 0 % 2 ^ 19 + y * (w 2 % 2 ^ 19) + x * fmtWidth fmt / 8
          smGet st.codes (i * n + j) = some (b.sharedNat place ((fmtWidth fmt + 7) / 8) / 2 ^ (if fmtWidth fmt = 4 then 4 * (x % 2) else 0) %
            2 ^ fmtBits fmt) ∧
          smGet st.scales (i * n + j) = some (if (w 3).testBit 20 then b.sharedNat (w 1 % 2 ^ 19 + y * ((cols + 31) / 32) + x / 32) 1
            else 127))) ∧
    (∀ mode fmt ws frags seq descs st, e.op = .cube mode fmt ws frags seq descs → b.stationsOk fmt ws = true →
      b.oneLoad fmt ws = true → smGet b.stations (cStb ws) = some st →
      let term (i j k : Nat) : Option (List (Nat × Nat)) := cubeTerm mode fmt ws frags seq descs st i j k
      let slabs := cK ws / cubeKs fmt
      let tile := e.passes / slabs
      let terms (i j slab : Nat) : List (List (Nat × Nat)) :=
        (List.range (cubeKs fmt)).map fun k => (term i j (slab * cubeKs fmt + k)).getD []
      let add (old : Word) (ts : List (List (Nat × Nat))) : Word :=
        if fmtInt fmt then w32i (saturate (old.toInt + (ts.map fun t => (t.map fun f => intCode fmt f.1).foldl (· * ·) 1).sum) 14)
        else r32 (XR.add false (f32 old) (f32 (r32 (XR.sum (ts.map fun t =>
          match t with
          | [] => .num false 0 0
          | f :: r => r.foldl (fun a x => XR.mul a (cubeVal fmt x)) (cubeVal fmt f))))))
      let key (i j : Nat) : Nat := 1024 * (cAcd ws + tile) + 32 * (i % 32) + j % 32
      let old (i j : Nat) : Word := (smGet b.tiles (key i j)).getD 0
      (mode ≠ 4 → ∀ i j, i < 32 → j < 32 →
        let row := tile / (cN ws / 32) * 32 + i
        let col := tile % (cN ws / 32) * 32 + j
        (∀ k < (e.passes % slabs + 1) * cubeKs fmt, (term row col k).isSome = true) →
          (smGet r.2.tiles (key i j)).getD 0 = add (old i j) (terms row col (e.passes % slabs))) ∧
      (mode = 4 →
        let list (o : Nat) : List Nat := (List.range (cM ws)).map fun i => b.sharedNat (o + 2 * i) 2
        let g := if e.passes = 0 then list (ws.getD 2 0 % 2 ^ 19) else e.rows
        let h := if e.passes = 0 then list (ws.getD 3 0 % 2 ^ 19) else e.cols
        r.1.rows = g ∧ r.1.cols = h ∧
        (e.passes = 0 → (r.1.status = if ∃ x ∈ g.zip h, cRowsA mode ws ≤ x.1 ∨ cRowsD mode ws ≤ x.2 then 0x32 else 0)) ∧
        (e.passes % slabs + 1 ≠ slabs → r.2.tiles = b.tiles) ∧
        (e.passes % slabs + 1 = slabs → ∀ i j, i < cRowsD mode ws → i / 32 = tile / (cN ws / 32) → j < cN ws →
          j / 32 = tile % (cN ws / 32) →
          let mine := (g.zip h).filter fun x => x.2 == i && decide (x.1 < cRowsA mode ws)
          (∀ x ∈ mine, ∀ k < cK ws, (term x.1 j k).isSome = true) →
            (smGet r.2.tiles (key i j)).getD 0 = mine.foldl (fun d x =>
              (List.range slabs).foldl (fun d slab => add d (terms x.1 j slab)) d) (old i j)))) ∧
    (∀ mode fmt ws frags seq descs st i j k,
      let signer (pos : Nat) : Nat × Nat := seq.getD pos (0, 0)
      let w1 (pos : Nat) : Nat := ((smGet descs (signer pos).1).map fun d => d.words.getD 1 0).getD 0
      let reg (pos n : Nat) : Nat := ((frags.find? fun f => f.wid == (signer pos).1 && f.lane == (signer pos).2).bind fun f =>
        smGet f.regs n).getD 0 |>.toNat
      let o := k % cubeS fmt
      let q := k / cubeS fmt
      let elem (pos base scale block : Nat) : Nat × Nat :=
        (reg pos (w1 pos / 2 ^ base % 2 ^ 7 + o / cubeE fmt) / 2 ^ (fmtWidth fmt * (o % cubeE fmt)) % 2 ^ fmtWidth fmt % 2 ^ fmtBits fmt,
          if cSc ws then reg pos (w1 pos / 2 ^ scale % 2 ^ 7) / 2 ^ (8 * ((block + k / 32) % 4)) % 256 else 127)
      let a := elem (q * cRowsA mode ws + i) 0 14 (ws.getD 2 0 / 2 ^ 21 % 4)
      let t (pos : Nat) := elem pos 7 21 (ws.getD 2 0 / 2 ^ 19 % 4)
      let b' := ((smGet st.codes (k * st.n + j)).getD 0, (smGet st.scales (k * st.n + j)).getD 127)
      ∀ fs, cubeTerm mode fmt ws frags seq descs st i j k = some fs → fs =
        if mode = 1 then [a, b', t (q * cRowsA mode ws + i)] else if mode = 2 then [a, b', t (q * cN ws + j)]
        else if mode = 3 then [a, b', t (q * cM ws)] else [a, b'])

/-- R145, R149, R151, R156, R158, R185: the update unit and the merge. A slice is applied element by element, or not at
all where its gradient cannot be read, OVF is set or an element is not finite. STEP.CLOSE waits for its UPDs, moves the
loss scale and closes the step. A merge waits while a DIV bit is set; it moves each element by the anchor's change and
clears PV. Each of the three begins only after the warp's earlier stores have left their queue and its earlier far
acquires have been answered, and the update unit and the merge only while no access of theirs goes unanswered (R392); a
grid keeps account of what they write to host memory for it (R378). -/
def Obligations.PlaneSteps : Prop := ∀ (s : State), s.cur = none →
  let R (x : XR) : Word := r32 x
  let mul (a b : Word) : Word := R (XR.mul (f32 a) (f32 b))
  let add (a b : Word) : Word := R (XR.add false (f32 a) (f32 b))
  let sub (a b : Word) : Word := R (XR.add false (f32 a) (XR.neg (f32 b)))
  let div (a b : Word) : Word := R (xrDiv (f32 a) (f32 b))
  let less (a b : Word) : Bool := XR.lt (f32 a) (f32 b)
  let bare (t : State) : State := { t with order := {}, grids := t.grids.map fun g => (g.1, { g.2 with hostOut := [] }) }
  let out (blk : Nat) (t : State) : Prop := ∀ q ∈ t.hostQ, q ∉ s.hostQ → ∀ b h, s.block? blk = some b →
    smGet t.grids b.grid = some h → q.1 ∈ h.hostOut
  (s.session = none → (∀ d, exec (.updSliceApply d) s = .next s) ∧ exec .stepCloseComplete s = .next s ∧ exec .mergePoint s = .next s) ∧
  ∀ x, s.session = some x →
  (∀ die u t, (x.upds.find? fun u => (x.tensor? u.tid).map (·.hdie) == some die) = some u → x.tensor? u.tid = some t →
    let i : Instr := .updSliceApply die
    let left (y : Session) : State := { s with session := some { y with upds := y.upds.filter fun v => v.op != u.op } }
    let read := s.gradients u t (List.range u.cnt)
    let gs := read.2.map fun g => R (xrDiv (decodeFmt (if u.gfmt = 0 then 0 else 2) g) (f32 x.ls))
    let runs := die ∉ x.stopped ∧ smGet x.deadSince (4 * die) = none
    (¬ runs ∨ s.mayBegin u.blk u.wid u.after u.acq = false → exec i s = .next s) ∧
    (runs → s.mayBegin u.blk u.wid u.after u.acq = true →
      (read.1 = .hold → exec i s = .next s) ∧
      (∀ st d l, read.1 = .bad st d l → Gives (exec i s) fun v => bare v = bare ((left x).complete u.blk u.wid u.op st)) ∧
      (∀ l b, read.1 = .ok l b → x.ovf = true ∨ ¬ (∀ g ∈ gs, finite32 g = true) →
        Gives (exec i s) fun v => bare v = bare ((left { x with ovf := true }).complete u.blk u.wid u.op 0x41)) ∧
      (∀ l b l' b', read.1 = .ok l b → x.ovf = false → (∀ g ∈ gs, finite32 g = true) →
        let es := (List.range u.cnt).map (u.first + ·)
        (s.planesReach x.tenant t [0, 1, 2, 4, 5] es).1 = .ok l' b' → 
        let apply (y : State × Bool) (p : Nat × Word) : State × Bool :=
          match y.1.session.bind fun z => z.groups[t.grp]? with
          | none => y
          | some k =>
            let e := p.1
            let g := p.2
            let w := y.1.weight x.tenant t e
            let a := y.1.planeGet x.tenant t 2 e
            let m := add (mul k.b1 (y.1.planeGet x.tenant t 4 e)) (mul k.omb1 g)
            let v := add (mul k.b2 (y.1.planeGet x.tenant t 5 e)) (mul k.omb2 (mul g g))
            let q := div (div m k.bc1) (add (R (xrSqrt (f32 (div v k.bc2)))) k.eps)
            let w2 := sub (sub w (mul k.lr q)) (mul k.lr (mul k.wd w))
            let dn := add k.dnorm (sub (mul (sub w2 a) (sub w2 a)) (mul (sub w a) (sub w a)))
            let dn := if less dn 0 then 0 else dn
            let hot := diverges dn k.dthr
            let put := ((y.1.planePut x.tenant t 4 e m).planePut x.tenant t 5 e v).putWeight x.tenant t e w2
            ({ put with session := put.session.map fun (z : Session) =>
              { z with groups := listMod z.groups t.grp fun _ => { k with dnorm := dn, div := hot } } }, y.2 || (hot && !k.div))
        let r := (es.zip gs).foldl apply (s, false)
        let done := ({ r.1 with session := r.1.session.map fun (z : Session) =>
          { z with upds := z.upds.filter fun v => v.op != u.op } } : State).complete u.blk u.wid u.op 0
        Gives (exec i s) fun v => out u.blk v ∧
          bare v = bare (if r.2 then done.modWarp u.blk u.wid fun w => { w with divPend := true } else done)))) ∧
  (∀ o, (x.ops.find? fun o => o.close && o.stage == 0) = some o →
    let lower := if less (R (XR.shift (f32 x.ls) (-1))) x.lsmin then x.lsmin else R (XR.shift (f32 x.ls) (-1))
    let higher := if less x.lsmax (R (XR.shift (f32 x.ls) 1)) then x.lsmax else R (XR.shift (f32 x.ls) 1)
    let st := if x.ovf then 0x41 else 0
    let ls := if x.ovf then lower else if x.clean + 1 < x.n then x.ls else higher
    let clean := if x.ovf then 0 else if x.clean + 1 < x.n then x.clean + 1 else 0
    let may := x.upds = [] ∧ s.mayBegin o.blk o.wid o.after o.acq = true
    (¬ may → exec .stepCloseComplete s = .next s) ∧
    (may → o.merge = false → Gives (exec .stepCloseComplete s) fun v => bare v = bare (({ s with session := some { x with
      ls := ls, clean := clean, step := .closed, ops := x.ops.filter fun y => y.op != o.op } } : State).complete o.blk o.wid o.op st)) ∧
    (may → o.merge = true → exec .stepCloseComplete s = .next { s with session := some { x with
      ls := ls, clean := clean, ops := x.ops.map fun y => if y.op = o.op then { y with stage := 1, status := st } else y } })) ∧
  (∀ o, (x.ops.find? fun o => o.stage == 1) = some o →
    let gs := (List.range 16).filter fun g => x.groups[g]?.map (·.pv) == some true
    let ts := gs.flatMap x.ofGroup
    ((∃ g ∈ x.groups, g.div = true) ∨ s.mayBegin o.blk o.wid o.after o.acq = false → exec .mergePoint s = .next s) ∧
    ((∀ g ∈ x.groups, g.div = false) → s.mayBegin o.blk o.wid o.after o.acq = true → (∀ t ∈ ts, t.hdie ∉ x.stopped ∧ smGet x.deadSince (4 * t.hdie + 1) = none) → x.groups.length ≤ 16 →
      ∀ l b, (s.tensorsReach x.tenant [0, 1, 2, 3] ts).1 = .ok l b → Gives (exec .mergePoint s) fun t =>
        let elem (t : Tensor) (a : State × List Word) (e : Nat) : State × List Word :=
          let p := a.1.planeGet x.tenant t 3 e
          let w2 := add (a.1.weight x.tenant t e) (sub p (a.1.planeGet x.tenant t 2 e))
          ((a.1.putWeight x.tenant t e w2).planePut x.tenant t 2 e p, a.2 ++ [sub w2 p])
        let merged (u : State) (g : Nat) : State × List Word :=
          (x.ofGroup g).foldl (fun a t => (List.range t.nel).foldl (elem t) a) (u, [])
        let after := gs.foldl (fun u g => (merged u g).1) s
        t.far = after.far ∧ t.hostQ = after.hostQ ∧ out o.blk t ∧
        ∃ y, t.session = some y ∧ y.ops = x.ops.filter (fun z => z.op != o.op) ∧ y.step = (if o.close then .closed else x.step) ∧
          (∀ g ∈ y.groups, g.pv = false) ∧ y.tensors = x.tensors ∧ y.upds = x.upds ∧ y.ls = x.ls ∧
          ∀ pre g post k, gs = pre ++ g :: post → x.groups[g]? = some k →
            let ds := (merged (pre.foldl (fun u g => (merged u g).1) s) g).2
            let dn := ds.foldl (fun a d => add a (mul d d)) 0
            y.groups[g]? = some { k with dnorm := dn, pv := false, div := diverges dn k.dthr })) ∧
  (∀ t e, let p := s.planeGet x.tenant t 3 e
    let w2 := add (s.weight x.tenant t e) (sub p (s.planeGet x.tenant t 2 e))
    s.mergeElems x.tenant t [e] = ((s.putWeight x.tenant t e w2).planePut x.tenant t 2 e p, [sub w2 p]))

/-- R152 to R155, R419: rounds. The Pacer of a listed island sends each block of a masked group whose PV is clear
once, as a segment record with its GCM tag, and keeps of each element the residual that its code leaves; records of other rounds and repeats are discarded; a manifest of the next
round, signed under a certificate of the trust list, begins it; past its deadline an incomplete round is abandoned; a
complete one is folded, which sets PV of the masked groups. A contribution enters the sum exactly as its code and
scale give it. What an island that is not listed does with a manifest is the model's reading (log entry 31). -/
def Obligations.PlaneRounds : Prop := ∀ (s : State) (bytes : List Nat), s.cur = none →
  let mul (a b : Word) : Word := r32 (XR.mul (f32 a) (f32 b))
  let add (a b : Word) : Word := r32 (XR.add false (f32 a) (f32 b))
  let bs : List Byte := bytes.map fun x => BitVec.ofNat 8 x
  let n (o k : Nat) : Nat := numAt bs o k
  let isl := (s.die 0).isl
  (∀ x, s.session = some x → x.round = none →
    (∀ t b, exec (.pacerBlock t b) s = .next s) ∧ exec (.segmentRecord bytes) s = .next s ∧ exec .fold s = .next s ∧
    exec .roundAbandon s = .next s ∧
    let c := n 10 2
    let ids := (List.range c).map fun i => n (24 + 2 * i) 2
    let good := bs.length = 24 + 2 * c + 64 ∧ 1 ≤ c ∧ c ≤ 256 ∧ n 14 2 = 0 ∧ n 20 4 = 0 ∧ ids.Pairwise (· < ·) ∧
      n 0 8 = x.nextRound ∧ ∃ k ∈ x.trust, Config.ecdsaValid k (bytes.take (24 + 2 * c)) (bytes.drop (24 + 2 * c)) = true
    (¬ good → exec (.roundManifest bytes) s = .next s) ∧
    (good →
      let rd : Round := ⟨x.nextRound, n 12 2, ids, (s.die 0).ref + 1200000 * n 16 4, [], []⟩
      exec (.roundManifest bytes) s = .next { s with session := some { x with round := some rd } })) ∧
  ∀ x rd, s.session = some x → x.round = some rd →
  exec (.roundManifest bytes) s = .next s ∧
  (let late := rd.deadline ≤ (s.die 0).ref ∧ (x.complete rd = false ∨ rd.isls.contains isl = false)
   (¬ late → exec .roundAbandon s = .next s) ∧
   (late → exec .roundAbandon s = .next { s with session := some { x with round := none, nextRound := rd.r + 1 } })) ∧
  (∀ t, x.tensor? (n 10 2) = some t →
    let parts := segmentParts bs t.nel
    let repeats := ∃ p ∈ parts, ∃ y ∈ rd.got, y.1 = n 8 2 ∧ y.2.1 = n 10 2 ∧ y.2.2.1 = p.1
    let good := bs.length = 24 + (n 16 2 + 7) / 8 * 8 + 32 * n 16 2 ∧ 1 ≤ n 16 2 ∧ n 16 2 ≤ 128 ∧ n 18 6 = 0 ∧ n 12 4 % 32 = 0
    (n 0 8 ≠ rd.r ∨ rd.mask.testBit t.grp = false ∨ repeats → exec (.segmentRecord bytes) s = .next s) ∧
    (good → n 0 8 = rd.r → rd.mask.testBit t.grp = true → ¬ repeats →
      let rd' : Round := { rd with got := rd.got ++ parts.map fun p => (n 8 2, n 10 2, p.1, p.2) }
      exec (.segmentRecord bytes) s = .next { s with session := some { x with round := some rd' } })) ∧
  (∀ tid b t g, x.tensor? tid = some t → x.groups[t.grp]? = some g →
    let mine := t.hdie ∉ x.stopped ∧ smGet x.deadSince (4 * t.hdie + 3) = none ∧ rd.isls.contains isl = true ∧ rd.mask.testBit t.grp = true ∧ g.pv = false ∧
      32 * b < t.nel ∧ (tid, b) ∉ rd.sent
    (¬ mine → exec (.pacerBlock tid b) s = .next s) ∧
    (mine → ∀ l r, (s.planesReach x.tenant t [0, 1, 2, 7] (((List.range 32).map (32 * b + ·)).filter (· < t.nel))).1 = .ok l r →
      Gives (exec (.pacerBlock tid b) s) fun v =>
        let xs := (List.range 32).map fun j => if 32 * b + j < t.nel then
          add (r32 (XR.add false (f32 (s.weight x.tenant t (32 * b + j))) (XR.neg (f32 (s.planeGet x.tenant t 2 (32 * b + j))))))
            (s.planeGet x.tenant t 7 (32 * b + j)) else 0
        let c := pacerScale xs
        let qs := (List.range 32).map fun j => rtf (XR.scale (f32 (xs.getD j 0)) (254 - c)) 3 5
          (genWord x.seed (32 * b + j) 1 (tid / 16 % 256) (tid % 16) 0 (rd.r % 2 ^ 32))
        let record := (leBytes 8 rd.r ++ leBytes 2 isl ++ leBytes 2 tid ++ leBytes 4 (32 * b) ++ leBytes 2 1 ++
          leBytes 6 0 ++ leBytes 1 c ++ leBytes 7 0 ++ qs.flatMap (leBytes 1)).map (·.toNat)
        let left (j : Nat) : Word := match f32 (xs.getD j 0) with
          | .nan => 0
          | z => r32 (XR.add false z (XR.neg (XR.scale (decodeFmt 3 (qs.getD j 0)) c)))
        let kept := (List.range 32).foldl (fun u j => if 32 * b + j < t.nel then u.planePut x.tenant t 7 (32 * b + j) (left j) else u) s
        v.far = kept.far ∧ v.hostQ = kept.hostQ ∧ v.outbox = s.outbox ++ [(1, record ++ gcmTag x.key record)] ∧
        ∃ y rd', v.session = some y ∧ y.round = some rd' ∧ rd'.sent = rd.sent ++ [(tid, b)] ∧ y.groups = x.groups ∧
          ∀ j < 32, 32 * b + j < t.nel → (isl, tid, 32 * b + j, 256 * c + qs.getD j 0) ∈ rd'.got)) ∧
  (let ts := (x.valid.filter fun t => rd.mask.testBit t.2.grp).map (·.2)
   let ready := rd.isls.contains isl = true ∧ x.complete rd = true ∧
      ∀ g < 16, rd.mask.testBit g = true → x.groups[g]?.map (·.pv) ≠ some true
   (¬ ready → exec .fold s = .next s) ∧
   (ready → (∀ t ∈ ts, t.hdie ∉ x.stopped ∧ smGet x.deadSince (4 * t.hdie + 2) = none) → ∀ l b, (s.tensorsReach x.tenant [2, 3, 6] ts).1 = .ok l b →
      Gives (exec .fold s) fun t =>
        let elem (tid : Nat) (v : Tensor) (g : Group) (u : State) (e : Nat) : State :=
          let sum := rd.isls.foldl (fun a i => r32 (XR.add false (f32 a) (rd.part i tid e))) 0
          let d := r32 (xrDiv (f32 sum) (XR.ofInt rd.isls.length))
          let mom := add (mul g.omu (u.planeGet x.tenant v 6 e)) d
          let pend := add (u.planeGet x.tenant v 2 e) (mul g.olr (add (mul g.omu mom) d))
          (u.planePut x.tenant v 6 e mom).planePut x.tenant v 3 e pend
        let after := (x.valid.filter fun t => rd.mask.testBit t.2.grp).foldl (fun u v => match x.groups[v.2.grp]? with
          | some g => (List.range v.2.nel).foldl (elem v.1 v.2 g) u
          | none => u) s
        t.far = after.far ∧ t.hostQ = after.hostQ ∧ ∃ y, t.session = some y ∧ y.round = none ∧ y.nextRound = rd.r + 1 ∧ y.tensors = x.tensors ∧
        y.ls = x.ls ∧ ∀ (k : Nat) (g h : Group), x.groups[k]? = some g → y.groups[k]? = some h →
          h = if rd.mask.testBit k then { g with pv := true } else g)) ∧
  ∀ tid t g e,
    let sum := rd.isls.foldl (fun a i => r32 (XR.add false (f32 a) (rd.part i tid e))) 0
    let d := r32 (xrDiv (f32 sum) (XR.ofInt rd.isls.length))
    let mom := add (mul g.omu (s.planeGet x.tenant t 6 e)) d
    let pend := add (s.planeGet x.tenant t 2 e) (mul g.olr (add (mul g.omu mom) d))
    s.foldElems x.tenant tid t g rd [e] = (s.planePut x.tenant t 6 e mom).planePut x.tenant t 3 e pend ∧
    ∀ i c q, (∀ y ∈ rd.got, y.1 = i → y.2.1 = tid → y.2.2.1 = e → y.2.2.2 = 256 * c + q) → (i, tid, e, 256 * c + q) ∈ rd.got →
      q < 256 → rd.part i tid e = XR.scale (decodeFmt 3 q) c

/-- R374 to R378, R402, R416: launch packets and grids in the controller. A packet is answered with the reason it is
rejected for, or accepted as a grid within every limit; a grid waits for its dependence word, and stays pending where
its read faults; it starts with its Granary allocation and its constants; when its blocks and children are over its
counters are added into the table, each saturating, and after them RETV is written to RETA and it retires; one that
GKILL ends takes its descendants and their blocks with it, and the copies that could not be accepted any more (log entry
43). Where an allocation
stands is a free choice (log entry 28); the payload of the reply to LAUNCH, and the statuses, are log entry 21's. -/
def Obligations.GridEvents : Prop := ∀ (s : State), s.cur = none →
  let code (tok seq : Nat) : Nat := ((s.rpcs.find? fun r => r.token == tok).bind fun r => smGet r.codes seq).getD 0
  let said (i : Inbound) (st : Nat) (ws : List Nat) (t : State) : Prop := ∀ tok seq, i.rpc = some (tok, seq) →
    s.leader.isSome = true → t.outbox = s.outbox ++ [(2, rpcReply (code tok seq) st tok seq ws)]
  (∀ die i, (s.inbound.find? fun i => i.die == die) = some i →
    let e : Instr := .gridAccept die
    let u : State := { s with inbound := s.inbound.erase i }
    (64 ≤ s.pendingOn die ∨ s.launchHeld i = true → exec e s = .next s) ∧
    (s.pendingOn die < 64 → s.launchHeld i = false →
      (∀ r, s.judge i = .inl r → Gives (exec e s) fun t =>
        t.grids = s.grids ∧ t.inbound = s.inbound.erase i ∧ said i r [] t) ∧
      (∀ p c, s.judge i = .inr (p, c) → Gives (exec e s) fun t =>
        t.grids = (u.admitGrid i p c).2.grids ∧ t.inbound = s.inbound.erase i ∧
        said i 0 (leNums 4 (u.admitGrid i p c).1) t))) ∧
  (∀ i p c, s.judge i = .inr (p, c) →
    1 ≤ p.gx ∧ 1 ≤ p.gy ∧ 1 ≤ p.gz ∧ p.gx * p.gy * p.gz < 2 ^ 32 ∧ 1 ≤ p.t ∧ p.t ≤ 3072 ∧ p.wc ≤ 2 ∧ 64 ≤ p.ub ∧ p.ub ≤ 1024 ∧
    p.ub % 64 = 0 ∧ p.shk ≤ 512 ∧ p.acc ≤ 192 ∧ p.z ≤ 8 ∧ p.spl ≤ 64 ∧ 1 ≤ p.chunk ∧ p.chunk ≤ 16 ∧ p.gran % 4096 = 0 ∧
    p.cslen ≤ p.gran ∧ (p.roles = true → p.nc + p.nm + p.ne = p.warps ∧ p.nc ≠ 0) ∧ s.grids.length < 1024) ∧
  (∀ gid g, smGet s.grids gid = some g →
    (g.depOk = true ∨ g.ended = true ∨ g.deadSince ≠ [] ∨ s.readWaita g = .hold → exec (.waitaPoll gid) s = .next s) ∧
    (∀ l bs, g.depOk = false → g.ended = false → g.deadSince = [] → s.readWaita g = .ok l bs → Gives (exec (.waitaPoll gid) s) fun t =>
      smGet t.grids gid = some { g with
        depOk := decide ((leNat bs + 2 ^ 64 - g.packet.waitv % 2 ^ 64) % 2 ^ 64 < 2 ^ 63) }) ∧
    (∀ st d l, g.depOk = false → g.ended = false → g.deadSince = [] → s.readWaita g = .bad st d l → exec (.waitaPoll gid) s =
      .next (s.record (engineRecord g.home 3 g.tenant 0 gid { Held.zero with detail := d, loc := l, addr := g.packet.waita }))) ∧
    (∀ die, let p := g.packet
      let may := g.ended = false ∧ g.depOk = true ∧ p.diem.testBit die = true ∧ die < 4 ∧ (∀ d ∈ g.dies, d.die ≠ die) ∧
        s.granaryRoom die g.tenant (p.gran + 49152) = true
      let held := (smGet g.deadSince die).isSome = true ∨ s.rangeHeld die g.tenant 0 p.csa p.cslen = true
      (¬ may ∨ held → exec (.gridStart gid die) s = .next s) ∧
      (∀ cs, may → ¬ held → s.vaBytes die g.tenant 0 p.csa p.cslen = some cs → s.dies.length = 4 → g.id = gid →
        findRoom (s.granaryUsed die) 0 (96 * 2 ^ 20) 4096 (p.gran + 49152) (s.choice 0 % 24576) ≠ none →
        Gives (exec (.gridStart gid die) s) fun t => ∃ off, off % 4096 = 0 ∧ off + p.gran + 49152 ≤ 96 * 2 ^ 20 ∧
          (∀ x ∈ s.granaryUsed die, off + p.gran + 49152 ≤ x.1 ∨ x.1 + x.2 ≤ off) ∧
          smGet t.grids gid = some { g with dies := g.dies ++ [⟨die, off, []⟩] } ∧
          ∀ j < cs.length, (memByte (t.die die).granary die (off + j)) = cs.getD j 0)) ∧
    (let isOver := s.gridQuiet gid = true ∧ (g.ended = true ∨ g.blocksEnded = g.total ∧ g.children = 0)
     let waits := g.deadSince ≠ [] ∨ ∃ a ∈ g.retireAt, s.rangeHeld g.home g.tenant a.2.2 a.1 a.2.1 = true
     let plain (l n : Nat) : Prop := s.session = none ∧ ∀ j < n, s.home (l + j) = s.home l + j
     (g.id = gid → ¬ isOver ∨ waits → exec (.gridRetire gid) s = .next s) ∧
     (isOver → ¬ waits → g.id = gid → g.counts ≠ [] → Gives (exec (.gridRetire gid) s) fun t =>
       (∃ h, smGet t.grids gid = some h ∧ h.counts = [] ∧ h.packet = g.packet ∧ h.ended = g.ended ∧
         h.dies = g.dies.map fun d => { d with counters := [] }) ∧ t.blocks = s.blocks ∧
       ∀ a n l, g.counts = [(a, n)] → a < 2 ^ 57 → s.reachVa g.home g.tenant 2 a = .ok l → plain l 4 →
         memNat t.far farTag (s.home l) 4 = min (s.farNat l 4 + n) (2 ^ 32 - 1)) ∧
     (isOver → ¬ waits → g.id = gid → g.counts = [] → (smWf s.grids = true → Gives (exec (.gridRetire gid) s) fun t =>
       smGet t.grids gid = none) ∧
     (∀ l, g.ended = false → g.packet.reta ≠ 0 → g.packet.reta < 2 ^ 57 →
       s.translate g.home g.tenant 1 g.packet.reta = .ok l → plain l 8 →
       Gives (exec (.gridRetire gid) s) fun t => memNat t.far farTag (s.home l) 8 = g.packet.retv % 2 ^ 64)))) ∧
  ∀ die gid, Gives (exec (.gkill die gid) s) fun t =>
    (smGet s.grids gid = none → t.grids = s.grids ∧ t.blocks = s.blocks) ∧
    ((smGet s.grids gid).isSome = true →
      t.copies = s.copies.filter (fun c => !(s.descends gid 11 c.grid && s.copyStuck c)) ∧
      t.grids = s.grids.map (fun g => (g.1, if s.descends gid 11 g.1 then { g.2 with ended := true } else g.2)) ∧
      t.blocks = s.blocks.map (fun b => (b.1, if s.descends gid 11 b.2.grid then { b.2 with stopped := true } else b.2)))

/-- R16, R29, R34, R369, R370, R379 to R383: claims and admission. A core, or for a spanning grid a pair, that is not
OFF and has an empty start queue claims up to a chunk of the grid that stands first among those that fit; a grid
passed over for 2^20 clocks bars younger ones; the head of the queue is admitted when it fits, its tenant holds the
cores and none is OFF, no swapped-out block comes before it, and its base overlay is resident. A new block's lanes
stand at the kernel's entry, with the template in s0 to s63. The order of claims within a clock is the model's own
(log entry 1). -/
def Obligations.BlockAdmission : Prop := ∀ (s : State) (core : Nat), s.cur = none →
  let d := core / 48
  let off (c : Nat) : Prop := (s.die (c / 48)).coreOff (c % 48) = true ∨ c ∈ s.failedCores
  let clear := s.startQueue core = [] ∧ (core % 2 = 1 → ∀ x ∈ s.startQueue (core - 1), ∀ g, smGet s.grids x.1 = some g → g.packet.e = 0)
  let fits := ((s.grids.map (·.2)).filter (s.qualifies core)).filter (s.claimFits core)
  (192 ≤ core ∨ off core ∨ ¬ clear ∨ s.waiterFor [core] none = true → exec (.blockClaim core) s = .next s) ∧
  (∀ g ∈ fits, s.fitsNew core g = true ∧ s.starved d g = false ∧ (g.packet.e ≠ 0 →
    ¬ off (core + 1) ∧ s.startQueue (core + 1) = [] ∧ s.waiterFor [core + 1] none = false)) ∧
  (∀ g, core < 192 → ¬ off core → clear → s.waiterFor [core] none = false → bestGrid fits = some g →
    (∀ x ∈ fits, x.ahead g = false) ∧
    ((∀ x ∈ s.grids, x.2.id = x.1) → smWf s.grids = true → s.dies.length = 4 → smWf (s.die d).startQ = true →
      1 ≤ g.packet.chunk → Gives (exec (.blockClaim core) s) fun t =>
      let hi := min (g.counter + g.packet.chunk) g.total
      let q := (List.range (hi - g.counter)).map fun i => (g.id, g.counter + i)
      (∃ x, smGet t.grids g.id = some x ∧ x.counter = hi) ∧ (t.startQueue core = q ∨ t.startQueue core = q.tail ∧
        ∃ b, smGet t.blocks s.serial = some b ∧ b.grid = g.id ∧ b.idx = g.counter ∧ b.core = some core))) ∧
  (∀ gid die g, smGet s.grids gid = some g →
    let old := ∃ t, smGet g.skipSince die = some t ∧ t + 2 ^ 20 ≤ (s.die die).clock ∧ g.barring.contains die = false
    (¬ old → exec (.claimStarvation gid die) s = .next s) ∧
    (old → exec (.claimStarvation gid die) s =
      .next { s with grids := smSet s.grids gid { g with barring := g.barring ++ [die] } })) ∧
  (s.startQueue core = [] → exec (.blockAdmit core) s = .next s) ∧
  ∀ gid n r g, s.startQueue core = (gid, n) :: r → smGet s.grids gid = some g → g.ended = false → g.id = gid →
    let cs := g.packet.cores core
    let may := (∀ c ∈ cs, ¬ off c) ∧ s.owned core g.tenant g.packet = true ∧ s.fitsNew core g = true ∧ s.waiterFor cs none = false
    (¬ may → exec (.blockAdmit core) s = .next s) ∧
    (may → (s.loadBases core g).basesReady core g = true → core < 192 → s.dies.length = 4 →
      smWf (s.die d).startQ = true → Gives (exec (.blockAdmit core) s) fun t =>
      t.startQueue core = r ∧ t.far = s.far ∧ ∃ b, smGet t.blocks s.serial = some b ∧ b.grid = gid ∧ b.idx = n ∧ b.core = some core ∧
        let p := g.packet
        b.tenant = g.tenant ∧ b.shared = [] ∧ b.batons = [] ∧ b.stations = [] ∧
        b.template.take 7 = [p.gx, p.gy, p.gz, n % p.gx, n / p.gx % p.gy, n / (p.gx * p.gy), p.t].map w32 ∧
        b.template.drop 8 = p.args.map w32 ∧
        ∀ wid w, smGet b.warps wid = some w →
          w.wid = wid ∧ w.role = p.role wid ∧ w.budget = p.budget (p.role wid) ∧ w.flags = [] ∧ w.queue = [] ∧
          w.lanes.length = p.width ∧ (∀ j < b.template.length, w.sraw j = b.template.getD j 0) ∧
          ∀ (j : Nat) (l : Lane), w.lanes[j]? = some l → l.id = j ∧ l.depth = 0 ∧ l.p = 0 ∧ l.h = false ∧ l.v = [] ∧
            if wid * p.width + j < p.t then l.st = .runnable ∧ l.tid = wid * p.width + j ∧ l.pc = mkPc 0 g.kernel
            else l.st = .vacant)

/-- R34, R89 to R91, R385 to R389, R401, R403 to R405: time slices and swapping. A block's quantum ends by the clock; an
idle block is swapped out after IDLE clocks when another can take its room; a block without room gets that of the one
longest resident among those whose quantum is over; system software may ask for any block's; a block at rest is set
aside into a save area, or runs on, deferred, while the pool has no room; it comes back, overlays first, with the shared
memory that its area holds; both wait where the area cannot be reached, and a save where it is frozen (R188, R423, R424, R426). Where a save area stands is a free choice (log entry 28). -/
def Obligations.SwapEvents : Prop := ∀ (s : State) (k : Nat) (b : Block), s.cur = none → smGet s.blocks k = some b →
  let put (k : Nat) (b : Block) : State := { s with blocks := smSet s.blocks k b }
  (∀ c, b.core = some c → let isOver := b.resStart + (s.die (c / 48)).quantum (s.gridPrio b.grid) ≤ (s.die (c / 48)).clock
    exec (.quantumEnd k) s = .next (put k { b with quantumOver := decide isOver })) ∧
  (b.core = none → exec (.quantumEnd k) s = .next (put k { b with quantumOver := false })) ∧
  (let idle := ∃ c t, b.core = some c ∧ b.idleSince = some t ∧ (s.die (c / 48)).idleDelay ≠ 0 ∧
      t + (s.die (c / 48)).idleDelay ≤ (s.die (c / 48)).clock ∧ b.swapReason = none ∧
      (s.without k).takers ((s.pktOf b).cores c) k = true
   (¬ idle → exec (.idleSwap k) s = .next s) ∧
   (idle → exec (.idleSwap k) s = .next (put k { b with
     swapReason := some (if b.warps.all fun w => w.2.parked.isSome then 5 else 1) }))) ∧
  (let wants := s.able k b = true ∧ (∀ x ∈ s.blocks, x.2.core.isSome = true → x.2.roomFor ≠ some k) ∧
      ∀ i < 48, s.roomBack (48 * b.homeDie + i) b = false
   let outs := s.blocks.filter fun x => match x.2.core with
     | some c => x.2.quantumOver && x.2.roomFor.isNone && !x.2.stopped && c / 48 == b.homeDie &&
         ((s.pktOf x.2).cores c).any fun y => (s.without x.1).roomBack (if (s.pktOf b).e = 0 then y else y / 2 * 2) b
     | none => false
   (¬ wants ∨ outs = [] → exec (.waitingForCore k) s = .next s) ∧
   (wants → outs ≠ [] → ∃ x ∈ outs, (∀ y ∈ outs, y.2.sooner x.2 = false) ∧ (smGet s.blocks x.1 = some x.2 →
     exec (.waitingForCore k) s = .next (put x.1 { x.2 with swapReason := some (x.2.swapReason.getD 0), roomFor := some k })))) ∧
  (let lo := (s.die b.homeDie).ctl64 0x64
   let size := s.saveSize b (s.masksOf k b)
   let room := findRoom (s.savesOn b.homeDie) lo (lo + (s.die b.homeDie).ctlNat 0x6C * 2 ^ 20) 64 size (s.choice 0)
   let leaves := b.core.isSome = true ∧ (b.swapReason.isSome = true ∨ b.held ≠ []) ∧ b.stopped = false
   let out := leaves ∧ b.deferred = false ∧ s.atRest k b = true
   let sh := 64 + ((s.masksOf k b).map fun x => sectionSize (s.pktOf b).width x.2.1 x.2.2).sum
   (b.core.isSome = true → exec (.swapOut k 1) s = .next (put k { b with swapReason := some (b.swapReason.getD 2) })) ∧
   (¬ leaves ∨ b.deferred = false ∧ s.atRest k b = false → exec (.swapOut k 0) s = .next s) ∧
   (leaves → b.deferred = true → exec (.swapOut k 0) s = .next (put k { b with deferred := room.isNone })) ∧
   (out → room = none → exec (.swapOut k 0) s = .next (put k { b with deferred := true })) ∧
   (∀ a, out → room = some a → s.areaHeld b.homeDie a size = true → exec (.swapOut k 0) s = .next s.bump) ∧
   (∀ a, out → room = some a → s.areaHeld b.homeDie a size = false → Gives (exec (.swapOut k 0) s) fun t =>
     lo ≤ a ∧ a + size ≤ lo + (s.die b.homeDie).ctlNat 0x6C * 2 ^ 20 ∧
     ∃ c, smGet t.blocks k = some c ∧ c.core = none ∧ c.save = some a ∧ c.saved = s.masksOf k b ∧ c.swapReason = none ∧
       c.outReason = some (if b.held = [] then b.swapReason.getD 0 else 3) ∧ (∀ h ∈ c.held, h.recorded = true) ∧
       (b.held = [] → s.moves = [] → memNat t.far farTag a 4 = 0x43584741 ∧
         ∀ j < (s.pktOf b).shk * 1024, memByte t.far farTag (a + sh + j) = memByte b.shared (sharedTag b.key) j))) ∧
  ∀ core a, b.save = some a →
    let may := s.able k b = true ∧ s.roomBack core b = true ∧ s.waiterFor ((s.pktOf b).cores core) (some b.adm) = false
    let there := ((s.pktOf b).cores core).all fun c => (0 :: b.overlays).all fun o => s.overlayOn c b o
    let sh := a + 64 + (b.saved.map fun x => sectionSize (s.pktOf b).width x.2.1 x.2.2).sum
    (¬ may → exec (.swapIn k core) s = .next s) ∧
    (may → there = false → Gives (exec (.swapIn k core) s) fun t => ∃ c, smGet t.blocks k = some c ∧ c.core = none ∧ c.save = some a) ∧
    let cut := s.areaCut b.homeDie a (s.saveSize b b.saved)
    (may → there = true → cut = true → exec (.swapIn k core) s = .next s) ∧
    (may → there = true → cut = false → Gives (exec (.swapIn k core) s) fun t => ∃ c, smGet t.blocks k = some c ∧ c.core = some core ∧
      c.save = none ∧ c.resStart = (s.die (core / 48)).clock ∧ c.quantumOver = false ∧ t.far = s.far ∧
      ∀ j < (s.pktOf b).shk * 1024, memByte c.shared (sharedTag b.key) j = memByte s.far farTag (s.home (sh + j)))

/-- R368, R391, R397, R401, R410 to R414: writes to the control space, by die and offset or by a service core's
physical address. A plain register takes the bits that a write may change; one that acts does what its event does; IDENT goes to all four dies, while no grid
is live and no plane session exists; SRHEAD goes no further than the slots of committed calls; LEADER takes a claim
for the next epoch only; DRAIN and MAP take effect with QUIET shown; TSHCTL starts a shootdown that drops the kept
translations of its range and is done when the accesses before it are performed; RESUMEA frees a held block or the
engines of its die. That a TSHCTL write during a shootdown changes nothing, and which accesses a shootdown waits for,
are the model's readings (log entries 15, 16). -/
def Obligations.ControlWrites : Prop := ∀ (s : State) (die value : Nat), s.cur = none → s.dies.length = 4 → die < 4 →
  let d := s.die die
  let onDie (f : Die → Die) : State := { s with dies := listMod s.dies die f }
  let set (o : Nat) (e : Die) : Die := e.ctlSet o (w32 ((e.ctlNat o &&& (0xFFFFFFFF - ctlMask o)) ||| (value &&& ctlMask o)))
  (∀ o, ctlActs o = false → o ≠ 0xB4 → o ≠ 0xBC → exec (.controlRegisterWrite die o value) s = .next (onDie (set o))) ∧
  (s.grids = [] → s.session = none → Gives (exec (.controlRegisterWrite die 0xBC value) s) fun t => t = { s with dies := t.dies } ∧
    ∀ e < 4, t.die e = set 0xBC (s.die e)) ∧
  (s.grids ≠ [] ∨ s.session ≠ none → exec (.controlRegisterWrite die 0xBC value) s = .next s) ∧
  (∀ x ∈ [(0x4C, Instr.shootdown die value), (0x5C, .faultRingHeadWrite die value), (0x70, .planeMapWrite die value),
      (0x74, .planeDrain die value), (0x88, .migration die value), (0x98, .gkill die value), (0x9C, .cubectlRst die value),
      (0x90, .resumea die (value % 2 ^ 32 + 2 ^ 32 * d.ctlNat 0x94)), (0xAC, .requestRingHeadWrite die value),
      (0xB8, .leaderClaim die value)], exec (.controlRegisterWrite die x.1 value) s = exec x.2 s) ∧
  (∀ k < 48, ∀ j < 16, exec (.controlRegisterWrite die (0x1000 + 64 * k + 4 * j) value) s = exec (.loftQuotaWrite die k j value) s) ∧
  (∀ n o, 4 ≤ n → o < 2 ^ 24 → exec (.controlRegisterWrite n (0x00F000000000 + 0x01000000 * die + o) value) s =
    exec (.controlRegisterWrite die o value) s) ∧
  (let changed := (value &&& 0xFFFFFFFF) ≠ d.ctlNat 0xB4
   exec (.controlRegisterWrite die 0xB4 value) s = .next (onDie fun e =>
     if changed then { set 0xB4 e with beatSince := e.ref } else set 0xB4 e)) ∧
  (let ahead (n : Nat) : Nat := (n + 2 ^ 17 - d.ctlNat 0xAC) % 2 ^ 17
   exec (.requestRingHeadWrite die value) s = .next (onDie fun e => if ahead value ≤ ahead d.svcDone then set 0xAC e else e)) ∧
  exec (.planeMapWrite die value) s = .next (onDie (set 0x70)) ∧
  (Gives (exec (.planeMapWrite die value) s) fun t => ∀ p < 8, (t.die die).planeMap p = value / 2 ^ (3 * p) % 8) ∧
  (Gives (exec (.planeDrain die value) s) fun t => t = { s with dies := t.dies } ∧ t.dies.length = 4 ∧
    (∀ p < 8, (t.die die).drain p = value.testBit p ∧
      ((t.die die).ctlNat 0x74).testBit (8 + p) = !s.planeBusy die p) ∧ ∀ e, e ≠ die → t.die e = s.die e) ∧
  (d.backlog = [] ∨ s.recordCut die = true → exec (.faultRingHeadWrite die value) s = .next (onDie (set 0x5C))) ∧
  (∀ r, d.backlog = [r] → r.die = die → s.recordCut die = false → (set 0x5C d).faultUsed < d.faultSlots → Gives (exec (.faultRingHeadWrite die value) s) fun t =>
    (t.die die).backlog = [] ∧ (t.die die).ctlNat 0x60 = (d.ctlNat 0x60 + 1) % 2 ^ 17 ∧ (t.die die).faultSeq = d.faultSeq + 1 ∧
    (memBytes t.far farTag (s.home (d.ctl64 0x50 + 64 * (d.ctlNat 0x60 % d.faultSlots))) 64 = r.bytes (d.faultSeq + 1))) ∧
  (let next := value.testBit 31 = true ∧ value / 4 % 2 ^ 16 = ((d.ctlNat 0xB8) / 4 % 2 ^ 16 + 1) % 2 ^ 16
   (¬ next → exec (.leaderClaim die value) s = .next s) ∧
   let claimed : State := onDie fun e => { e.ctlSet 0xB8 (w32 (value &&& 0x8003FFFF)) with beatSince := e.ref }
   (next → claimed.leader = none ∨ claimed.leader = s.leader → exec (.leaderClaim die value) s = .next claimed) ∧
   (next → claimed.leader ≠ none → claimed.leader ≠ s.leader → exec (.leaderClaim die value) s = .next claimed.takeOver ∧
     (s.outcomes = [] → Gives (exec (.leaderClaim die value) s) fun t =>
       t.rpcs = ((newest s.journals).map (·.rpcs)).getD [] ∧ t.dies = claimed.dies))) ∧
  (d.shooting = true → exec (.shootdown die value) s = .next s) ∧
  (d.shooting = false → value.testBit 31 = false → exec (.shootdown die value) s = .next (onDie (set 0x4C))) ∧
  (d.shooting = false → value.testBit 31 = true → Gives (exec (.shootdown die value) s) fun t =>
    let va := d.ctl64 0x40 / 2 ^ 16 * 2 ^ 16
    let len := d.ctlNat 0x48 * 2 ^ 16
    (t.die die).shooting = true ∧ ((t.die die).ctlNat 0x4C).testBit 30 = false ∧
    t.tlb = s.tlb.filter (fun x => !(x.die == die && x.slot == value % 16 && x.overlaps va len)) ∧
    ∃ x, t.shoots = s.shoots ++ [x] ∧ x.die = die ∧ x.slot = value % 16 ∧ x.va = va ∧ x.len = len ∧ x.since = d.ref ∧
      (∀ y ∈ s.tlb, y.die = die → y.slot = value % 16 → y.overlaps va len = true → (y.va, y.size) ∈ x.pages) ∧
      ∀ y ∈ s.farQ, y.acked = false → y.core / 48 = die → s.tenantOf y.grid = some (d.tenTid (value % 16)) → y.id ∈ x.waits) ∧
  (let isOver := d.shooting = true ∧ ∀ x ∈ s.shoots, x.die = die →
     (∀ y ∈ s.farQ, y.id ∈ x.waits → 1 ≤ y.stage) ∧ s.sentOut x = false ∧
     ∀ c ∈ s.copies, x.awaits c = false ∧ (c.id ∈ x.waits → c.walk.stsp = 2 → x.covers c.walk.stampa = false)
   (¬ isOver → exec (.shootdownDone die) s = .next s) ∧
   (isOver → Gives (exec (.shootdownDone die) s) fun t =>
     (t.die die).shooting = false ∧ ((t.die die).ctlNat 0x4C).testBit 30 = true ∧ t.tlb = s.tlb ∧ t.far = s.far)) ∧
  (∀ addr, addr ≠ 0 → exec (.resumea die addr) s = .next { onDie (fun e => e.ctlSet64 0x90 addr) with
    blocks := s.blocks.map fun b => (b.1, if b.2.homeDie = die ∧ b.2.save = some addr then { b.2 with held := [] } else b.2) }) ∧
  ∀ x, s.session = some x → Gives (exec (.resumea die 0) s) fun t => ∃ y, t.session = some y ∧
    y.stopped = x.stopped.filter (· != die) ∧ y.groups = x.groups ∧ y.upds = x.upds ∧ t.blocks = s.blocks

/-- R188, R392, R399, R406, R407: what happens to pages and to accesses. A write of GO to MCTL starts the migration of
a page, or ends at once with MST 1 on a malformed locator; its lines freeze one by one, each is copied and switches
over, once both its places can be reached and no host endpoint holds an accepted write of it, and with the last one it
ends with MST 0; a line with an uncorrectable error ends it with MST 2. What goes unanswered for the system timeout is
given up: a line access, and an UPD whose gradient line does not answer, with status 0x0017 in their flags; a copy with
status 0x0017; an access of a plane engine with an engine fault; one of a grid's controller, of a controller that reads
a packet, or of an overlay's load as log entry 43 reads it (the model's choice: R392 and R399 say no more of those). A
machine check stops its block at once, and an error that stands in a byte of shared memory is remembered there. That an
MCTL write during a migration changes nothing, and that each line freezes and switches in steps of its own, are the
model's readings (log entries 15, 17); the numbers by which the events name units and bytes are its own (log entry 36). -/
def Obligations.PageEvents : Prop := ∀ (s : State) (die value : Nat), s.cur = none → s.dies.length = 4 → die < 4 →
  let d := s.die die
  let sz := value % 4
  let bad := locatorBad sz (d.ctl64 0x78) = true ∨ locatorBad sz (d.ctl64 0x80) = true
  let i : Instr := .migration die value
  let mctl (t : State) : Nat := (t.die die).ctlNat 0x88
  let free := (d.ctlNat 0x88).testBit 31 = false
  (¬ free → exec i s = .next s) ∧
  (free → value.testBit 31 = false → Gives (exec i s) fun t => t.moves = s.moves ∧ mctl t % 4 = sz) ∧
  (free → value.testBit 31 = true → bad → Gives (exec i s) fun t => t.moves = s.moves ∧ t.far = s.far ∧
    (mctl t).testBit 31 = false ∧ (mctl t).testBit 30 = true ∧ mctl t / 2 ^ 16 % 256 = 1) ∧
  (free → value.testBit 31 = true → ¬ bad → Gives (exec i s) fun t => t.far = s.far ∧ (mctl t).testBit 31 = true ∧
    (mctl t).testBit 30 = false ∧ ∃ m, t.moves = s.moves.filter (fun x => x.die != die) ++ [m] ∧ m.die = die ∧
      m.switched = false ∧ m.gone = [] ∧ m.held = [] ∧ m.ended = false ∧ m.src = s.locatorHome (d.ctl64 0x78) ∧ m.dst = s.locatorHome (d.ctl64 0x80) ∧
      m.size = if sz = 1 then 2 ^ 21 else if sz = 2 then 2 ^ 30 else 2 ^ 16) ∧
  ((∀ m ∈ s.moves, m.die = die → m.ended = true) → ∀ mst, exec (.migrationDone die mst) s = .next s) ∧
  (∀ m, (s.moves.find? fun x => x.die == die && decide (die < 4) && !x.ended) = some m →
    let n := m.size / 64
    let spoilt (k : Nat) : Prop := m.src / 64 + k ∈ s.badLines
    let moved (f : Migration → Migration) : List Migration := s.moves.map fun x => if x.die = die ∧ x.ended = false then f x else x
    let ends (mst : Nat) (t : State) : Prop := t.far = s.far ∧ (mctl t).testBit 31 = false ∧ (mctl t).testBit 30 = true ∧
      mctl t / 2 ^ 16 % 256 = mst ∧ ∀ x ∈ t.moves, x.die = die → x.ended = true ∧ x.held = []
    let waits (k : Nat) : Prop := s.shut die (m.src + 64 * k) = true ∨ s.shut die (m.dst + 64 * k) = true ∨
      ∃ q ∈ s.hostQ, lineOf q.2.1 = lineOf (s.home (m.src + 64 * k))
    (∀ k < n, exec (.migrationDone die (256 + 2 * k)) s = .next (if waits k ∨ k ∈ m.gone ∨ k ∈ m.held ∨ spoilt k then s
      else { s with moves := moved fun x => { x with held := x.held ++ [k] } })) ∧
    (∀ k < n, waits k ∨ k ∉ m.held → exec (.migrationDone die (257 + 2 * k)) s = .next s) ∧
    (∀ k < n, ¬ waits k → k ∈ m.held → Memory.wf s.far = true → Gives (exec (.migrationDone die (257 + 2 * k)) s) fun t =>
      t.moves = moved (fun x => { x with gone := x.gone ++ [k], held := x.held.filter (· != k) }) ∧ Memory.wf t.far = true ∧
      (∀ j < 64, smGet t.far (m.dst + 64 * k + j) = smGet s.far (m.src + 64 * k + j)) ∧
      ∀ a, a < m.dst + 64 * k ∨ m.dst + 64 * k + 64 ≤ a → smGet t.far a = smGet s.far a) ∧
    (m.gone.length ≠ n → exec (.migrationDone die 0) s = .next s) ∧
    ((∀ x ∈ s.moves, x.die = die → x.ended = true → x.held = []) →
      (m.gone.length = n → Gives (exec (.migrationDone die 0) s) (ends 0)) ∧
      ((∃ k < n, spoilt k ∧ k ∉ m.gone) → Gives (exec (.migrationDone die 2) s) (ends 2)))) ∧
  (let up (e y : Nat) : Prop := y + 1200 * (s.die e).tms ≤ (s.die e).ref
   let fails (blk wid op : Nat) (t : State) : Prop := ∀ w k f c, s.warp? blk wid = some w → w.flagOf op = some k →
     smGet w.flags k = some f → f.ops = [⟨op, none, c⟩] →
     ∃ v g, t.warp? blk wid = some v ∧ smGet v.flags k = some g ∧ g.ops = [] ∧ g.status = 0x17
   (∀ x y, x ∈ s.farQ → (∀ z ∈ s.farQ, z.id = x.id → z = x) → x.acked = false → x.born = some y → s.regsHeld x.blk = false →
     (¬ up (x.core / 48) y → exec (.systemTimeout 0 x.id) s = .next s) ∧
     (up (x.core / 48) y → Gives (exec (.systemTimeout 0 x.id) s) fun t => (∀ z ∈ t.farQ, z.id = x.id → z.acked = true) ∧
       ((∀ z ∈ s.farQ, z.op = x.op → z = x) → (∀ c ∈ s.chks, c.op ≠ x.op) → x.st = 0 → fails x.blk x.wid x.op t))) ∧
   (∀ c, c ∈ s.copies → (∀ z ∈ s.copies, z.id = c.id → z = c) →
     let late := c.walk.dsp = 2 ∧ (∃ p ∈ c.out, up c.die p.born) ∨
       c.scope = 5 ∧ (∃ n ∈ c.hostAcks, (∃ q ∈ s.hostQ, q.1 = n.1) ∧ up c.die n.2) ∨ ∃ y, c.deadSince = some y ∧ up c.die y.since
     (¬ late → exec (.systemTimeout 1 c.id) s = .next s) ∧
     (late → Gives (exec (.systemTimeout 1 c.id) s) fun t => ∃ x ∈ t.copies, x.id = c.id ∧ x.status = 0x17 ∧ x.stopAt = none)) ∧
   (∀ x e n y, s.session = some x → e < 4 → n < 4 → smGet x.deadSince (4 * e + n) = some y →
     let i : Instr := .systemTimeout 2 (4 * e + n)
     (¬ up e y.since → exec i s = .next s) ∧
     (up e y.since → (∀ u ∈ x.upds, y.op = 0 ∨ u.op ≠ y.op) → Gives (exec i s) fun t =>
       ∃ z, t.session = some z ∧ z.stopped = e :: x.stopped ∧ z.upds = x.upds) ∧
     ∀ u, up e y.since → y.op ≠ 0 → (x.upds.find? fun v => v.op == y.op) = some u → Gives (exec i s) fun t =>
       ∃ z, t.session = some z ∧ z.upds = x.upds.filter (fun v => v.op != u.op) ∧ z.stopped = x.stopped ∧
         fails u.blk u.wid u.op t) ∧
   (∀ gid e g y, e < 4 → smGet s.grids gid = some g → smWf s.grids = true → g.id = gid → smGet g.deadSince e = some y →
     let i : Instr := .systemTimeout 3 (4 * gid + e)
     let h : Grid := { g with deadSince := smDel g.deadSince e }
     (¬ up e y.since → exec i s = .next s) ∧
     (up e y.since → y.op = 0 → exec i s = .next (({ s with grids := smSet s.grids gid h } : State).record
       (engineRecord e 3 g.tenant 0 gid { Held.zero with reason := 0x17, addr := y.addr }))) ∧
     (up e y.since → y.op ≠ 0 → Gives (exec i s) fun t =>
       (g.counts ≠ [] → ∃ h, smGet t.grids gid = some h ∧ h.counts = [] ∧ h.packet = g.packet) ∧
       (g.counts = [] → smGet t.grids gid = none))) ∧
   (∀ i y, (s.inbound.find? fun i => i.die == die) = some i → i.deadSince = some y →
     (¬ up die y.since → exec (.systemTimeout 4 die) s = .next s) ∧
     (up die y.since → Gives (exec (.systemTimeout 4 die) s) fun t => t.inbound = s.inbound.erase i ∧ t.grids = s.grids)) ∧
   (∀ core n e y, n < 256 → smGet s.loft (core * 256 + n) = some e → e.deadSince = some y →
     (¬ up (core / 48) y.since → exec (.systemTimeout 5 (core * 256 + n)) s = .next s) ∧
     (up (core / 48) y.since → Gives (exec (.systemTimeout 5 (core * 256 + n)) s) fun t =>
       ∃ x, smGet t.loft (core * 256 + n) = some x ∧ x.st = .absent ∧ x.gen = e.gen ∧ x.waiters = []))) ∧
  (∀ k p, p + 1 < 2 ^ 32 → exec (.machineCheck (2 ^ 33 * k + (p + 1))) s =
    .next { s with badChip := s.badChip ++ [(sharedTag k, p)] }) ∧
  ∀ k b, smGet s.blocks k = some b →
    (b.core = none ∨ b.stopped = true → exec (.machineCheck (2 ^ 33 * k)) s = .next s) ∧
    (b.core.isSome = true → b.stopped = false → Gives (exec (.machineCheck (2 ^ 33 * k)) s) fun t =>
      t.blocks = smSet s.blocks k { b with stopped := true } ∧ t.grids = s.grids)

/-- R63, R162, R188, R368, R411 to R414, R419, R421 to R426: the package's health. Reset leaves the control registers
at their Reset values and nothing running; a pair that boots runs the newer valid image, derives its die's identity
key and claims epoch 1, and the leader writes IDENT; a follower that runs, and whose heartbeat stands still for its
time, claims the next epoch and reads the journal; a stack's lanes are trained, or restored where their saved results
are whole; a sag halves the clock for at least 64 clocks; a core that fails stops its blocks; an isolated die's grids
end; a spare takes the place of a failed core that is off and empty; a datagram of a slow link whose GCM tag holds is
taken: a segment record's contributions are kept, a manifest begins its round. What a reset keeps, how a pair claims and what a spare holds are the model's readings (log entries 18, 26, 27), as
are what a patrol scrub does and what a link training stores (log entry 23). -/
def Obligations.HealthEvents : Prop := ∀ (s : State) (die : Nat), s.cur = none → s.dies.length = 4 → die < 4 →
  let d := s.die die
  let onDie (f : Die → Die) : State := { s with dies := listMod s.dies die f }
  (Gives (exec .packageReset s) fun t => t.dies.length = 4 ∧ (∀ e < 4, ∃ j, j.map (·.num) = (s.die e).journal.map (·.num) ∧
      let old := s.die e
      t.die e = { Die.reset with journal := j, keyed := old.keyed, baseUp := old.baseUp, sparesUsed := old.sparesUsed }) ∧
    t.rpcs.map (·.token) = s.rpcs.map (·.token) ∧ t.blocks = [] ∧ t.grids = [] ∧ t.session = none ∧
    t.farQ = [] ∧ t.copies = [] ∧ t.loft = [] ∧ t.engines = [] ∧ t.tlb = [] ∧ t.images = s.images ∧
    t.fusedRollback = s.fusedRollback ∧ t.measureLog = s.measureLog ∧ ∀ o, (t.die die).ctlGet o = ctlReset o) ∧
  (let boots := d.pairFailed = false ∧ d.isolated = false ∧ d.running = none ∧ 2 * die * 1200000 ≤ d.ref
   let runs (k : Nat) : Prop := ∃ i, s.images[k]? = some i ∧ i.valid = true ∧ s.fusedRollback ≤ i.rollback
   (¬ boots ∨ ¬ runs 0 ∧ ¬ runs 1 → exec (.coldBoot die) s = .next s) ∧
   (∀ k i, boots → s.images[k]? = some i → runs k → k < 2 →
     (∀ j i', j < 2 → j ≠ k → s.images[j]? = some i' → runs j → i'.version < i.version ∨ i'.version = i.version ∧ k = 0) →
     Gives (exec (.coldBoot die) s) fun t => (t.die die).running = some k ∧ (t.die die).keyed = true ∧
       t.measureLog = s.measureLog ++ [i.hash] ∧
       (t.leader = some die → s.grids = [] → s.session = none → ∀ e < 4,
         (t.die e).isl = s.flashIdent / 2 ^ 16 % 2 ^ 16 ∧ (t.die e).dev = s.flashIdent % 2 ^ 11) ∧
       (die = 0 → d.ctlNat 0xB8 / 4 % 2 ^ 16 = 0 → (t.die 0).ctlNat 0xB8 = 2 ^ 31 + 4) ∧
       ((∀ r ∈ s.rpcs, ∀ o ∈ r.openCmds, o.2.1 ≠ 0x60) → t.fusedRollback = s.fusedRollback))) ∧
  (let leads := (d.ctlNat 0xB8).testBit 31 = true ∧ d.ctlNat 0xB8 % 4 = die
   let stands := d.isolated = false ∧ d.pairFailed = false ∧ d.running.isSome = true ∧ ¬ leads ∧ d.beatSince + 1200000 * (10 + 2 * die) ≤ d.ref
   (¬ stands → exec (.heartbeatTimeout die) s = .next s) ∧
   (stands → (∀ e < 4, (s.die e).isolated = false ∧ (s.die e).ctlNat 0xB8 / 4 % 2 ^ 16 = d.ctlNat 0xB8 / 4 % 2 ^ 16) →
     Gives (exec (.heartbeatTimeout die) s) fun t => t.grids = s.grids ∧ t.blocks = s.blocks ∧ t.far = s.far ∧
       (s.outcomes = [] → t.rpcs = ((newest s.journals).map (·.rpcs)).getD []) ∧ ∀ e < 4,
       (t.die e).ctlNat 0xB8 = 2 ^ 31 + (d.ctlNat 0xB8 / 4 % 2 ^ 16 + 1) % 2 ^ 16 * 4 + die)) ∧
  exec (.lockStepMismatch die) s = .next (onDie fun e => { e with pairFailed := true }) ∧
  (∀ stack < 8, let up (u : State) : State := { u with trained := listMod u.trained stack fun _ => true }
    let lost : State := { s with laneSets := smDel s.laneSets stack }
    (Gives (exec (.linkTrainingComplete stack 0) s) fun t => t.trained = (up s).trained ∧ t.far = s.far ∧
      ∃ xs, smGet t.laneSets stack = some (xs, crc32c (xs.flatMap (leBytes 4)))) ∧
    (∀ xs c, smGet s.laneSets stack = some (xs, c) → exec (.linkTrainingComplete stack 1) s =
      .next (if crc32c (xs.flatMap (leBytes 4)) = c then up s else lost)) ∧
    (smGet s.laneSets stack = none → exec (.linkTrainingComplete stack 1) s = .next s) ∧
    exec (.linkTrainingComplete stack 2) s = .next lost) ∧
  (∀ stack < 8, exec (.patrolScrub stack) s = .next s ∧
    ∀ l, exec (.patrolScrub (8 * (l + 1) + stack)) s = .next (if l ∈ s.badLines then s else { s with badLines := s.badLines ++ [l] })) ∧
  (∀ line, Gives (exec (.rowRepair line 0) s) fun t => t = { s with moves := t.moves } ∧
    (∀ a, 64 * line ≤ a → a < 64 * line + 64 → t.frozen a = true)) ∧
  (∀ line phase, phase ≠ 0 → exec (.rowRepair line phase) s =
    .next { s with moves := s.moves.filter fun x => !(x.die == 4 && x.src == 64 * line) }) ∧
  exec (.supplySagTrip die) s = .next (onDie fun e => if e.sag.isNone then { e with sag := some (0, false) } else e) ∧
  (∀ n b, d.sag = some (n, b) → n < 64 → exec (.supplyRecovery die) s = .next s) ∧
  (∀ n b, d.sag = some (n, b) → 64 ≤ n → exec (.supplyRecovery die) s = .next (onDie fun e => { e with sag := none })) ∧
  (∀ up, let may := d.pairFailed = true ∧ ∀ i < 48, 48 * die + i ∈ s.failedCores
    (¬ may → exec (.dieIsolation (4 * up + die)) s = .next s) ∧
    (may → Gives (exec (.dieIsolation (4 * up + die)) s) fun t => (t.die die).isolated = true ∧
      (t.die die).baseUp = [up.testBit 0, up.testBit 1] ∧
      ∀ k g, smGet s.grids k = some g → g.id = k →
        g.home = die ∨ (∃ x ∈ g.dies, x.die = die) → ∃ h, smGet t.grids k = some h ∧ h.ended = true)) ∧
  (∀ k core, core < 192 → core ∉ s.failedCores → smWf s.blocks = true →
    Gives (exec (.machineCheck (2 ^ 33 * k + (2 ^ 32 + core))) s) fun t => t.failedCores = s.failedCores ++ [core] ∧
      ∀ i b, smGet s.blocks i = some b → s.runsOn b core = true → ∃ c, smGet t.blocks i = some c ∧ c.stopped = true) ∧
  (∀ core, core / 48 = die →
    let used := ∃ b ∈ s.blocks, s.runsOn b.2 core = true ∨ b.2.core = none ∧
      (b.2.lastCore = core ∨ (s.pktOf b.2).e ≠ 0 ∧ b.2.lastCore + 1 = core)
    let may := core ∈ s.failedCores ∧ d.coreOff (core % 48) = true ∧ ¬ used ∧ d.sparesUsed < 4
    (¬ may → exec (.spareCoreReplacement core) s = .next s) ∧
    (may → Gives (exec (.spareCoreReplacement core) s) fun t => core ∉ t.failedCores ∧ (t.die die).sparesUsed = d.sparesUsed + 1 ∧
      (∀ e ∈ t.loft, e.1 / 256 ≠ core) ∧ t.blocks = s.blocks)) ∧
  (∀ p < 8, exec (.switchPlaneFailure p) s =
    .next { s with deadPlanes := if p ∈ s.deadPlanes then s.deadPlanes else s.deadPlanes ++ [p] }) ∧
  ∀ kind bytes tag, (s.session = none → exec (.slowLinkDatagram kind bytes tag) s = .next s) ∧ ∀ x, s.session = some x →
    (tag ≠ gcmTag x.key bytes → exec (.slowLinkDatagram kind bytes tag) s = .next s) ∧
    let bs : List Byte := bytes.map fun b => BitVec.ofNat 8 b
    let n (o k : Nat) : Nat := numAt bs o k
    let taken (y : Session) : Prop := exec (.slowLinkDatagram kind bytes tag) s = .next { s with session := some y }
    tag = gcmTag x.key bytes →
      (kind = 0 → exec (.slowLinkDatagram kind bytes tag) s = exec (.segmentRecord bytes) s ∧
        ∀ rd t, x.round = some rd → x.tensor? (n 10 2) = some t →
          let parts := segmentParts bs t.nel
          let good := bs.length = 24 + (n 16 2 + 7) / 8 * 8 + 32 * n 16 2 ∧ 1 ≤ n 16 2 ∧ n 16 2 ≤ 128 ∧ n 18 6 = 0 ∧ n 12 4 % 32 = 0
          good → n 0 8 = rd.r → rd.mask.testBit t.grp = true →
          (∀ p ∈ parts, ∀ y ∈ rd.got, ¬ (y.1 = n 8 2 ∧ y.2.1 = n 10 2 ∧ y.2.2.1 = p.1)) →
          taken { x with round := some { rd with got := rd.got ++ parts.map fun p => (n 8 2, n 10 2, p.1, p.2) } }) ∧
      (kind ≠ 0 → exec (.slowLinkDatagram kind bytes tag) s = exec (.roundManifest bytes) s ∧
        let c := n 10 2
        let ids := (List.range c).map fun i => n (24 + 2 * i) 2
        x.round = none → bs.length = 24 + 2 * c + 64 → 1 ≤ c → c ≤ 256 → n 14 2 = 0 → n 20 4 = 0 → ids.Pairwise (· < ·) →
        n 0 8 = x.nextRound →
        (∃ k ∈ x.trust, Config.ecdsaValid k (bytes.take (24 + 2 * c)) (bytes.drop (24 + 2 * c)) = true) →
        taken { x with round := some ⟨x.nextRound, n 12 2, ids, (s.die 0).ref + 1200000 * n 16 4, [], []⟩ })

/-- R158, R341, R345, R348 to R352, R418: traps and calls that come back to a warp by themselves. A pending divergence
trap enters the handler at a safe point; a parked warp gets its replies in its registers and goes on after its SVC; the
service answers every calling lane of the first call, an unknown number with words of ones, which it never gives for a
number it knows; service 7 refuses arguments outside their limits, and grants a buffer or refuses it; service 8 writes
what it has read where the caller asked for it, and answers with the block count, or with why it could not; the call of
a block that is gone or has been stopped is passed over. That one call is answered in one event, and what the outside
contributes to an answer, are the model's choice (log entry 22). -/
def Obligations.WarpResumptions : Prop := ∀ (s : State) (k wid : Nat), s.cur = none → smWf s.blocks = true →
  (let t := s.focus k wid
   (t.cur = none ∨ t.divReady = false → exec (.divergenceTrap k wid) s = .next s.unfocus) ∧
   (∀ p u, t.cur = some (k, wid) → t.divReady = true → t.firstPath = some p →
     { t with im := p.mask }.kernelTrap p.mask Lane.rewind id { t with im := p.mask }.divFrame = .go u →
     exec (.divergenceTrap k wid) s = .next { u with w := { u.w with divPend := false } }.bump.unfocus)) ∧
  (∀ b w, smGet s.blocks k = some b → smGet b.warps wid = some w →
    (b.core = none ∨ w.parked = none → exec (.svcResume k wid) s = .next s) ∧
    (∀ p c, b.core.isSome = true → b.save = none → w.parked = some p → w.windows = [] → smWf b.warps = true →
      (s.calls.find? fun c => c.id == p.id && c.blk == k) = some c →
      (c.replies.length + 1 ≠ c.slots → exec (.svcResume k wid) s = .next s) ∧
      (c.replies.length + 1 = c.slots → Gives (exec (.svcResume k wid) s) fun t =>
        ∃ d v, smGet t.blocks k = some d ∧ smGet d.warps wid = some v ∧ v.parked = none ∧ v.s = w.s ∧ d.shared = b.shared ∧
          t.far = s.far ∧ v.lanes.length = w.lanes.length ∧
          (∀ x ∈ t.calls, x.id ≠ c.id ∨ x.blk ≠ k) ∧
          ∀ (j : Nat) (l m : Lane), w.lanes[j]? = some l → v.lanes[j]? = some m → l.id = j →
            m.pc = (if p.mask.testBit j then l.pc + 4 else l.pc) ∧
            ∀ r, c.replies = [r] → r.1 = j → ∀ x < 8, m.vraw (p.va + x) = r.2.getD x 0))) ∧
  ∀ die known answers,
    (s.leader = none ∨ (∀ c ∈ s.calls, c.die = die → c.consumed = true) → exec (.serviceCall die known answers) s = .next s) ∧
    ∀ c, s.leader.isSome = true → (s.calls.find? fun c => c.die == die && !c.consumed) = some c →
      (∀ x ∈ s.calls, x.id = c.id → x.die = die → x = c) → c.args.length ≤ 64 → die < s.dies.length →
      let passed (t : State) : Prop := (t.die die).svcDone = ((s.die die).svcDone + c.slots) % 2 ^ 17
      let runs := ∃ b, smGet s.blocks c.blk = some b ∧ b.stopped = false
      let stops := ∃ x ∈ c.args.zip (answers ++ List.replicate 64 []), s.serveStops c (known == 1) x.1.2 x.2 = true
      (runs → stops → exec (.serviceCall die known answers) s = .next s) ∧
      (smGet s.blocks c.blk = none → Gives (exec (.serviceCall die known answers) s) fun t => passed t ∧
        ∀ x ∈ t.calls, x.id = c.id → x.die ≠ die) ∧
      (∀ b, smGet s.blocks c.blk = some b → b.stopped = true → Gives (exec (.serviceCall die known answers) s) fun t => passed t ∧
        t.far = s.far ∧ t.buffers = s.buffers ∧ ∃ x ∈ t.calls, x.id = c.id ∧ x.consumed = true ∧ x.replies = []) ∧
      (runs → ¬ stops → Gives (exec (.serviceCall die known answers) s) fun t => passed t ∧
        ∃ x ∈ t.calls, x.id = c.id ∧ x.consumed = true ∧ x.replies.map (·.1) = c.args.map (·.1) ∧
          (known ≠ 1 → ∀ r ∈ x.replies, r.2 = List.replicate 8 0xFFFFFFFF) ∧
          ∀ a, known = 1 → c.args = [a] →
            let ans := answers.getD 0 []
            let g (i : Nat) : Nat := (a.2.getD i 0).toNat
            let words (ws : List Nat) : List Word := (List.range 8).map fun i => w32 (ws.getD i 0)
            let replies (ws : List Nat) : Prop := x.replies = [(a.1, words ws)]
            (c.num ≠ 7 → c.num ≠ 8 → replies ans ∧ ∀ r ∈ x.replies, r.2 ≠ List.replicate 8 0xFFFFFFFF) ∧
            (c.num = 7 →
              let bad := g 0 < 4096 ∨ 1048576 < g 0 ∨ g 0 % 4096 ≠ 0 ∨ g 1 < 12 ∨ 30 < g 1 ∨ 2 ≤ g 3 ∨ ∃ i ∈ [4, 5, 6, 7], g i ≠ 0
              let at' := ans.getD 1 0
              let base := at' / 65536 * 65536
              let pages := (List.range ((at' + g 0 - base + 65535) / 65536)).map fun i => base + 65536 * i
              let refused (st : Nat) : Prop := replies [0, 0, st, 0] ∧ t.buffers = s.buffers
              let granted := replies [at' % 2 ^ 32, at' / 2 ^ 32, 0, g 0] ∧ ∃ y, t.buffers = s.buffers ++ [y] ∧ y.tenant = c.tenant ∧
                y.session = s.callSession c
              let may := ans.getD 0 0 ≠ 0 ∧ at' % 2 ^ g 1 = 0 ∧ at' ≠ 0 ∧ at' + g 0 ≤ 2 ^ 57 ∧ ∀ p ∈ pages, s.bufferPage c.tenant p ≠ none
              (bad → refused 2) ∧ (¬ bad → ¬ may → refused 1) ∧ (¬ bad → may → refused 1 ∨ granted) ∧
              ∀ slot, ¬ bad → may → (s.die c.die).tenSlot c.tenant = some slot →
                (s.mapBuffer slot c.tenant (ans.getD 2 0 % 2048) (ans.getD 3 0 % 2 ^ 31 * 65536) pages).isSome = true → granted) ∧
            (c.num = 8 →
              let dest := g 5 + 2 ^ 32 * g 6
              let bad := 64 ≤ g 0 ∨ g 4 = 0 ∨ 256 < g 4 ∨ dest % 4096 ≠ 0 ∨ g 7 ≠ 0
              let put := s.vaWrite c.die c.tenant dest ((List.range (4096 * g 4)).map fun i => BitVec.ofNat 8 (ans.getD (2 + i) 0))
              let rec' := parkingOf c.die c.id
              (bad → replies [2, 0, 0]) ∧ (¬ bad → ans.getD 0 0 = 1 → replies [1, 0, 0]) ∧
              (¬ bad → 2 ≤ ans.getD 0 0 → replies [3, ans.getD 1 0, 0]) ∧
              (¬ bad → ans.getD 0 0 = 0 → (put.2 = true → replies [0, ans.getD 1 0, g 4]) ∧ (put.2 = false → replies [2, 0, 0]) ∧
                ∀ r, x.replies = [r] → t.far = ((put.1.farPut (rec' + 64 + 32 * a.1) (r.2.flatMap fun w => leBytes 4 w.toNat)).farPut
                  rec' (leBytes 4 1)).far)))

/-- R370, R371, R374, R390, R402, R411, R414 to R418, R420 to R422, R427: host commands. With a leader, the next
command of an open session starts, committed first; a committed one is answered from the journal and does nothing more;
any other is held. What each does: its reply, and its effect: the leaves that MAP installs and UNMAP removes, page by
page over all that it names, and the planes that ANCHOR.SYNC writes, among them. Which commands fail, for whom, and with which status is the model's choice (log
entries 20, 21, 24), as is the form in which a command's arguments reach the machine (log entry 36). That PLANE.DESTROY is
done beside a live joined grid after an engine fault is the model's reading (log entry 19), as are the next round and the
given-up round of ANCHOR.SYNC (log entry 31). -/
def Obligations.HostCommands : Prop := ∀ (s : State) (r : Rpc) (tok seq : Nat) (lo : Nat → List Nat) (hi : List Nat), s.cur = none → s.leader.isSome = true →
  (s.rpcs.find? fun x => x.token == tok) = some r → s.buffers = [] →
  (∀ c < 2 ^ 16, readHeader (lo c ++ hi) = some (c, tok, seq)) →
  let begun (code : Nat) : State := s.setRpc tok fun x => { x with seq := seq, codes := smSet x.codes seq code }
  let next := (r.journal.find? fun j => j.1 == seq) = none ∧ seq = r.seq + 1 ∧ r.closing = none
  let said (code st : Nat) (ws : List Nat) (t : State) : Prop := t.outbox = s.outbox ++ [(2, rpcReply code st tok seq ws)] ∧
    ∃ x ∈ t.rpcs, x.token = tok ∧ x.seq = seq ∧ x.journal = r.journal ++ [(seq, st, ws)]
  let failed (code : Nat) (t : State) : Prop := ∃ st, st ≠ 0 ∧ said code st [] t
  let pends (code arg : Nat) (t : State) : Prop := t.outbox = s.outbox ∧
    ∃ x ∈ t.rpcs, x.token = tok ∧ x.seq = seq ∧ x.openCmds = r.openCmds ++ [(seq, code, arg)]
  let serves (tenant : Nat) : Prop := r.owner = true ∨ r.tenant = tenant
  let does (i : Instr) (P : State → Prop) : Prop := next → Gives (exec i s) P
  let fresh := (r.journal.find? fun j => j.1 == seq) = none
  let known : List Nat := [0x01, 0x02, 0x10, 0x11, 0x12, 0x20, 0x21, 0x22, 0x30, 0x31, 0x40, 0x41, 0x50, 0x60, 0x70]
  (∀ a b c d e f g h l1 l2 l3 l4, c < 2 ^ 16 → c ∉ known →
    ∀ i ∈ [Instr.sessionClose (lo 0x02) hi, .tenantSet (lo 0x10) hi a l1 l2, .map (lo 0x11) hi a b c d e f g h, .unmap (lo 0x11) hi a b d e,
      .islandSet (lo 0x12) hi a b, .hostLaunch (lo 0x20) hi a b d, .gridWait (lo 0x21) hi a, .gridKill (lo 0x22) hi a,
      .memRead (lo 0x30) hi a b d, .memWrite (lo 0x31) hi a b l1, .planeCreate (lo 0x40) hi a l1 l3 l4, .planeDestroy (lo 0x40) hi,
      .anchorSync (lo 0x41) hi a b l3, .attest (lo 0x50) hi l1, .fwStage (lo 0x60) hi l1, .fwActivate (lo 0x60) hi, .telemetry (lo 0x70) hi,
      .unknownCommand (lo c) hi l1],
    (∀ j, (r.journal.find? fun j => j.1 == seq) = some j →
      exec i s = .next { s with outbox := s.outbox ++ [(2, rpcReply ((smGet r.codes seq).getD 0) j.2.1 tok seq j.2.2)] }) ∧
    (fresh → seq ≠ r.seq + 1 ∨ r.closing ≠ none → exec i s = .next s)) ∧
  (∀ pay, ∀ c < 2 ^ 16, c ∉ known → does (.unknownCommand (lo c) hi pay) (said c 1 [])) ∧
  does (.sessionClose (lo 0x02) hi) (fun t => (∀ k g, smGet s.grids k = some g → g.session = some tok → g.id = k →
    ∃ h, smGet t.grids k = some h ∧ h.ended = true) ∧ (∀ i ∈ t.inbound, ∀ q, i.rpc ≠ some (tok, q)) ∧
    (s.busyRpc tok = false → s.rpcs.filter (fun x => x.token == tok) = [r] →
      (∀ x ∈ s.rpcs, x.token ≠ tok → x.closing = none) → said 0x02 0 [] t)) ∧
  (∀ n e q, does (.tenantSet (lo 0x10) hi n e q) fun t =>
    (r.owner = true → n < 16 → e.length = 8 → s.dies.length = 4 → said 0x10 0 [] t ∧ (q = [] → ∀ d < 4,
      (t.die d).ctlNat (0x4004 + 32 * n) = e.getD 1 0 % 2 ^ 32 ∧ (t.die d).ctlField (0x4000 + 32 * n) 0 16 = e.getD 0 0 % 2 ^ 16)) ∧
    (r.owner = false → failed 0x10 t ∧ ∀ d, (t.die d).ctl = (s.die d).ctl)) ∧
  (∀ isl dev, does (.islandSet (lo 0x12) hi isl dev) fun t =>
    (r.owner = true → s.grids = [] → s.session = none → s.dies.length = 4 → said 0x12 0 [] t ∧ ∀ d < 4,
      (t.die d).isl = isl % 2 ^ 16 ∧ (t.die d).dev = dev % 2 ^ 11) ∧
    (r.owner = true → s.grids ≠ [] ∨ s.session ≠ none → said 0x12 2 [] t ∧ ∀ d, (t.die d).ctl = (s.die d).ctl)) ∧
  (∀ a tn h, does (.hostLaunch (lo 0x20) hi a tn h) fun t =>
    (serves tn → h < 4 → pends 0x20 0 t ∧ t.inbound = s.inbound ++ [⟨h, a, tn, none, some (tok, seq), none⟩]) ∧
    (¬ serves tn → failed 0x20 t ∧ t.inbound = s.inbound)) ∧
  (∀ a tn h, h < 4 → exec (.hostLaunch [] [] a tn h) s = .next { s with inbound := s.inbound ++ [⟨h, a, tn, none, none, none⟩] }) ∧
  (∀ g, does (.gridWait (lo 0x21) hi g) fun t =>
    (smGet s.grids g = none → said 0x21 0 [] t) ∧ ∀ x, smGet s.grids g = some x → serves x.tenant → pends 0x21 g t) ∧
  (∀ g x, smGet s.grids g = some x → does (.gridKill (lo 0x22) hi g) fun t =>
    (serves x.tenant → pends 0x22 g t ∧ ∃ y, smGet t.grids g = some y ∧ y.ended = true) ∧
    (¬ serves x.tenant → failed 0x22 t ∧ t.grids = s.grids)) ∧
  (∀ n va len, let tn := (s.die 0).tenTid n
    (fresh → s.rangeHeld 0 tn 0 va len = true → exec (.memRead (lo 0x30) hi n va len) s = .next s) ∧
    (s.rangeHeld 0 tn 0 va len = false → serves tn → (s.die 0).tenVal n = true →
      (∀ bs, s.vaBytes 0 tn 0 va len = some bs → does (.memRead (lo 0x30) hi n va len) fun t =>
        said 0x30 0 (bs.map (·.toNat)) t ∧ t.far = s.far) ∧
      (s.vaBytes 0 tn 0 va len = none → s.vaSpoilt 0 tn 0 va len = true → does (.memRead (lo 0x30) hi n va len) (said 0x30 0x13 [])))) ∧
  (∀ n va x l, serves ((s.die 0).tenTid n) → (s.die 0).tenVal n = true → va < 2 ^ 57 →
    s.translate 0 ((s.die 0).tenTid n) 1 va = .ok l → s.session = none →
    (fresh → s.rangeHeld 0 ((s.die 0).tenTid n) 1 va 1 = true → exec (.memWrite (lo 0x31) hi n va [x]) s = .next s) ∧
    (s.rangeHeld 0 ((s.die 0).tenTid n) 1 va 1 = false → does (.memWrite (lo 0x31) hi n va [x]) fun t => said 0x31 0 [] t ∧
      memByte t.far farTag (s.home l) = BitVec.ofNat 8 x ∧
      ∀ a, a ≠ s.home l → memByte t.far farTag a = memByte s.far farTag a)) ∧
  (∀ n va sz c tier node fr pm,
    let u := begun 0x11
    let leaf := 2 ^ 61 + tier * 2 ^ 58 + node * 2 ^ 47 + fr + pm * 32
    let held := s.anyShooting = true ∨ s.tablesCut n sz va c = true
    let ok := rangeOk n va sz c = true ∧ serves ((s.die 0).tenTid n)
    let fits := pm < 8 ∧ tier < 3 ∧ node < 2048 ∧ fr + c * 2 ^ levelShift sz ≤ 2 ^ 47 ∧ pteBad sz leaf = false ∧
      meetsPool (s.locator tier node fr) (c * 2 ^ levelShift sz) = false
    let page (i : Nat) : Nat := va + i * 2 ^ levelShift sz
    let pages (m : Nat) (build : Bool) (e : Nat → Nat) : Option State := (List.range m).foldl (fun o i => o.bind fun v =>
      (v.leafPlace n sz (page i) build).map fun x => match x.1 with
        | some a => (x.2.dropTables sz (x.2.farNat a 8)).farPut a (leBytes 8 (e i))
        | none => x.2) (some u)
    let leaves (i : Nat) : Nat := leaf + i * 2 ^ levelShift sz
    let shot (t : State) : Prop := pends 0x11 0 t ∧ (s.dies.length = 4 → ∀ d < 4, (t.die d).shooting = true)
    let holds (t v : State) (a e : Nat) : Prop := t.far = ((v.dropTables sz (v.farNat a 8)).farPut a (leBytes 8 e)).far ∧
      ((∀ j < 8, s.home (a + j) = s.home a + j) → memNat t.far farTag (s.home a) 8 = e)
    (fresh → held → exec (.unmap (lo 0x11) hi n va sz c) s = .next s ∧ exec (.map (lo 0x11) hi n va sz c tier node fr pm) s = .next s) ∧
    (¬ held →
      (¬ ok → does (.unmap (lo 0x11) hi n va sz c) fun t => failed 0x11 t ∧ t.far = s.far) ∧
      (¬ ok ∨ ¬ fits → does (.map (lo 0x11) hi n va sz c tier node fr pm) fun t => failed 0x11 t ∧ t.far = s.far) ∧
      (ok → does (.unmap (lo 0x11) hi n va sz c) fun t =>
        (pages c false (fun _ => 0) = none → failed 0x11 t ∧ t.far = s.far) ∧
        (∀ v, pages c false (fun _ => 0) = some v → shot t ∧ t.far = v.far) ∧
        (∀ v a w, pages (c - 1) false (fun _ => 0) = some v → v.leafPlace n sz (page (c - 1)) false = some (some a, w) →
          shot t ∧ holds t w a 0) ∧
        ((s.die 0).root n = none → shot t ∧ t.far = s.far)) ∧
      (ok → fits → does (.map (lo 0x11) hi n va sz c tier node fr pm) fun t =>
        (pages c true leaves = none → failed 0x11 t ∧ t.far = s.far) ∧
        (∀ v, pages c true leaves = some v → shot t ∧ t.far = v.far) ∧
        (∀ v a w, pages (c - 1) true leaves = some v → v.leafPlace n sz (page (c - 1)) true = some (some a, w) →
          shot t ∧ holds t w a (leaves (c - 1)))))) ∧
  (∀ tn sc ts gs, let table := ts.map fun x => (x.headD 0, tensorOf x.tail)
    let good := serves tn ∧ ∀ x ∈ table, x.1 < 4096 ∧ x.2.ok = true
    does (.planeCreate (lo 0x40) hi tn sc ts gs) fun t =>
      (¬ good → failed 0x40 t ∧ t.session = s.session) ∧
      (∀ y, s.session = some y → y.tenant ≠ tn ∨ (∃ x ∈ table, (y.tensor? x.1).isSome = true) ∨ gs ≠ [] ∧ s.joinedLive = true →
        failed 0x40 t ∧ t.session = s.session) ∧
      (∀ y, good → s.session = some y → y.tenant = tn → (∀ x ∈ table, y.tensor? x.1 = none) → gs = [] →
        said 0x40 0 [] t ∧ t.session = some { y with tensors := smSets y.tensors table }) ∧
      (∀ y, good → s.session = some y → y.tenant = tn → ts = [] → gs.length = 16 → y.groups.length = 16 → s.joinedLive = false →
        said 0x40 0 [] t ∧ ∃ x, t.session = some x ∧ x.tensors = y.tensors ∧ x.groups.length = 16 ∧
          ∀ (k : Nat) (g h : Group), y.groups[k]? = some g → x.groups[k]? = some h → h.lr = (groupOf (gs.getD k [])).lr ∧
            h.dnorm = g.dnorm ∧ h.dthr = g.dthr ∧ h.pv = g.pv ∧ h.div = g.div) ∧
      (s.session = none → good → gs.length = 16 → said 0x40 0 [] t ∧
        ∃ x, t.session = some x ∧ x.tenant = tn ∧ x.step = .closed ∧ x.ovf = false ∧ x.clean = 0 ∧ x.ls = w32 (sc.getD 0 0) ∧
          x.nextRound = sc.getD 5 0 ∧ x.round = none ∧ x.key = sc.getD 6 0 ∧ x.trust = sc.drop 7 ∧ x.groups.length = 16 ∧
          ∀ g ∈ x.groups, g.p1 = 0x3F800000 ∧ g.p2 = 0x3F800000 ∧ g.dnorm = 0 ∧ g.dthr = 0x7F800000 ∧ g.pv = false ∧ g.div = false)) ∧
  (∀ x, s.session = some x → does (.planeDestroy (lo 0x40) hi) fun t =>
    (serves x.tenant → (∀ g ∈ s.grids, g.2.joined = false) ∨ x.stopped ≠ [] → said 0x40 0 [] t ∧ t.session = none) ∧
    (¬ serves x.tenant ∨ (∃ g ∈ s.grids, g.2.joined = true) ∧ x.stopped = [] → failed 0x40 t ∧ t.session = s.session)) ∧
  (∀ x m rn ts, s.session = some x →
    let gs := (List.range 16).filter (m.testBit ·)
    let tens := gs.flatMap x.ofGroup
    let may := serves x.tenant ∧ (∀ g ∈ s.grids, g.2.joined = false) ∧ x.step = .closed ∧
      ∀ k ∈ x.valid, k.2.grp ∈ gs → ∃ c ∈ ts, c.headD 0 = k.1 ∧ 2 * k.2.nel < c.length
    (fresh → s.syncWaits m = true → exec (.anchorSync (lo 0x41) hi m rn ts) s = .next s) ∧
    (s.syncWaits m = false → does (.anchorSync (lo 0x41) hi m rn ts) fun t =>
      (¬ may → failed 0x41 t ∧ t.session = s.session ∧ t.far = s.far) ∧
      (may → (∀ k ∈ tens, k.hdie ∉ x.stopped ∧ smGet x.deadSince (4 * k.hdie + 1) = none) → ∀ l b, (s.tensorsReach x.tenant [0, 1, 2, 3, 6] tens).1 = .ok l b →
        let add (a b : Word) : Word := r32 (XR.add false (f32 a) (f32 b))
        let sub (a b : Word) : Word := r32 (XR.add false (f32 a) (XR.neg (f32 b)))
        let mul (a b : Word) : Word := r32 (XR.mul (f32 a) (f32 b))
        let fill (p : Nat) (u : State) (c : List Nat) : State :=
          match x.tensor? (c.headD 0) with
          | some v =>
            if v.grp ∈ gs then
              (((if p = 3 then c.tail else c.tail.drop v.nel).take v.nel).zipIdx).foldl
                (fun u w => u.planePut x.tenant v p w.2 (w32 w.1)) u
            else u
          | none => u
        let elem (t : Tensor) (a : State × List Word) (e : Nat) : State × List Word :=
          let p := a.1.planeGet x.tenant t 3 e
          let w2 := add (a.1.weight x.tenant t e) (sub p (a.1.planeGet x.tenant t 2 e))
          ((a.1.putWeight x.tenant t e w2).planePut x.tenant t 2 e p, a.2 ++ [sub w2 p])
        let merged (u : State) (g : Nat) : State × List Word :=
          (x.ofGroup g).foldl (fun a t => (List.range t.nel).foldl (elem t) a) (u, [])
        let filled := ts.foldl (fill 3) (begun 0x41)
        let after := ts.foldl (fill 6) (gs.foldl (fun u g => (merged u g).1) filled)
        said 0x41 0 [] t ∧ t.far = after.far ∧ t.hostQ = after.hostQ ∧
        ∃ y, t.session = some y ∧ y.step = .closed ∧ y.groups.length = x.groups.length ∧
          y.nextRound = rn + 1 ∧ y.round = x.round.filter (fun d => d.r == rn + 1) ∧
          ∀ pre g post k, gs = pre ++ g :: post → x.groups[g]? = some k →
            let ds := (merged (pre.foldl (fun u g => (merged u g).1) filled) g).2
            let dn := ds.foldl (fun a d => add a (mul d d)) 0
            y.groups[g]? = some { k with dnorm := dn, pv := false, div := diverges dn k.dthr }))) ∧
  (∀ n, does (.attest (lo 0x50) hi n) fun t => ∃ l, s.leader = some l ∧
    said 0x50 0 (s.report l n ++ (List.range 64).map (fun i => (Config.ecdsaSign l (s.report l n) i).toNat) ++ Config.certChain l) t) ∧
  (∀ im, let i := parseImage im
    does (.fwStage (lo 0x60) hi im) fun t =>
      (r.owner = true → i.valid = true → s.fusedRollback ≤ i.rollback → said 0x60 0 [] t ∧ i ∈ t.images) ∧
      (r.owner = false ∨ i.valid = false ∨ i.rollback < s.fusedRollback → failed 0x60 t ∧ t.images = s.images)) ∧
  does (.fwActivate (lo 0x60) hi) (fun t => (r.owner = true → pends 0x60 0 t) ∧ (r.owner = false → failed 0x60 t)) ∧
  does (.telemetry (lo 0x70) hi) (fun t => ∃ ws, said 0x70 0 ws t)

/-- R169, R174, R187, R188, R415 to R417: sessions and host processors. A message has the 32-byte header of R415. A
session opens under an enrolled certificate, with the features that both ends have; a revocation ends every session
opened under the certificate, with its grids. A host's loads see its own buffered stores, its stores leave the buffer oldest first, a
fence empties it, and an atomic writes the result of its operation; a write waits while a device atomic on its word is
between its read and its write, or its line is frozen, or its home cannot be reached. Host atomics and unwritten host bytes follow the model's
reading (log entry 25); so do the payload and the sequence number of the SESSION.OPEN reply (log entry 21), that
reconnecting changes nothing (log entry 23), and what identifies a certificate (log entry 36). -/
def Obligations.HostEvents : Prop := ∀ (s : State), s.cur = none →
  (∀ code st tok seq pay, code < 2 ^ 16 → st < 2 ^ 16 → tok < 2 ^ 64 → seq < 2 ^ 64 → pay.length < 2 ^ 32 →
    let bs : List Byte := (rpcReply code st tok seq pay).map fun x => BitVec.ofNat 8 x
    numAt bs 0 4 = 0x43524741 ∧ numAt bs 4 2 = code ∧ numAt bs 6 2 = st ∧ numAt bs 8 8 = tok ∧ numAt bs 16 8 = seq ∧
    numAt bs 24 4 = pay.length ∧ numAt bs 28 4 = 0 ∧ (rpcReply code st tok seq pay).drop 32 = pay) ∧
  (∀ code tok seq len, code < 2 ^ 16 → tok < 2 ^ 64 → 1 ≤ seq → seq < 2 ^ 64 →
    readHeader (rpcHeader code 0 tok seq len) = some (code, tok, seq)) ∧
  (∀ h code tok seq, readHeader h = some (code, tok, seq) →
    let bs : List Byte := h.map fun x => BitVec.ofNat 8 x
    h.length = 32 ∧ numAt bs 0 4 = 0x43524741 ∧ numAt bs 4 2 = code ∧ numAt bs 6 2 = 0 ∧ numAt bs 8 8 = tok ∧
    numAt bs 16 8 = seq ∧ 1 ≤ seq ∧ numAt bs 28 4 = 0) ∧
  (∀ hdr tenant, ∀ owner < 2, ∀ offer,
    let first := ∃ tok, readHeader hdr = some (1, tok, 1)
    let cert := 2 * tenant + owner
    (s.leader = none ∨ ¬ first ∨ (tenant, owner == 1) ∉ s.certs → exec (.sessionOpen hdr cert offer) s = .next s) ∧
    (s.leader.isSome = true → first → (tenant, owner == 1) ∈ s.certs → (∀ r ∈ s.rpcs, r.token ≠ s.serial) →
      Gives (exec (.sessionOpen hdr cert offer) s) fun t =>
        t = { s with serial := s.serial + 1, rpcs := t.rpcs, outbox := t.outbox, dies := t.dies } ∧
        (∀ d, { t.die d with journal := none } = { s.die d with journal := none }) ∧
        let ws := leNums 8 s.serial ++ leNums 4 (offer &&& 0x3F)
        t.outbox = s.outbox ++ [(2, rpcReply 1 0 s.serial 1 ws)] ∧
        t.rpcs = s.rpcs ++ [⟨s.serial, tenant, owner == 1, offer &&& 0x3F, 1, [(1, 0, ws)], [], none, [(1, 1)]⟩])) ∧
  (∀ tok, exec (.rpcReconnect tok) s = .next s) ∧
  (∀ ev, s.leader = none → exec (.certificateRevocation ev) s = .next s) ∧
  (∀ tok, (s.rpcs.find? fun x => x.token == tok) = none → exec (.certificateRevocation (2 * tok)) s = .next s) ∧
  (∀ tok r, s.leader.isSome = true → (s.rpcs.find? fun x => x.token == tok) = some r → s.buffers = [] →
    (∀ x ∈ s.rpcs, ∀ y ∈ s.rpcs, x.token = y.token → x = y) →
    let under (x : Rpc) : Bool := x.tenant == r.tenant && x.owner == r.owner
    Gives (exec (.certificateRevocation (2 * tok)) s) fun t => t.rpcs = s.rpcs.filter (fun x => !under x) ∧
      t.certs = s.certs.filter (· != (r.tenant, r.owner)) ∧
      ∀ x ∈ s.rpcs, under x = true → (∀ i ∈ t.inbound, ∀ q, i.rpc ≠ some (x.token, q)) ∧
        ∀ k g, smGet s.grids k = some g → g.session = some x.token → ∃ h, smGet t.grids k = some h ∧ h.ended = true) ∧
  (∀ tn, ∀ o < 2, s.leader.isSome = true → exec (.certificateRevocation (4 * tn + 2 * o + 1)) s =
    .next (if (tn, o == 1) ∈ s.certs then s else { s with certs := s.certs ++ [(tn, o == 1)] })) ∧
  ∀ host addr v cmp,
    let loc := 2 ^ 59 + addr % 2 ^ 58 / 4 * 4
    let mine := s.hostStores.filter fun x => x.host == host
    let own := mine.reverse.find? fun x => x.loc == loc
    let mem := s.hostGet loc
    let atom (l : Nat) : Prop := ∃ q ∈ s.hostQ, q.2.1 < s.home l + 4 ∧ s.home l < q.2.1 + q.2.2.length ∧
      ∃ x ∈ s.farQ, x.id = q.1 ∧ x.kind = 4
    let cut (l : Nat) : Prop := s.hostCut l = true
    let waits (l : Nat) : Prop := atom l ∨ s.frozen l = true ∨ cut l
    let wrote (l x : Nat) (t : State) : Prop := locHost (s.home l) = true → s.planeCells l 4 = [] →
      memNat t.hostView farTag (s.home l) 4 = x ∧
      ∀ a, a < s.home l ∨ s.home l + 4 ≤ a → memByte t.hostView farTag a = memByte s.hostView farTag a
    (locHost (s.home loc) = true → mem = memNat s.hostView farTag (s.home loc) 4) ∧
    (own = none → cut loc → exec (.hostAccess host 0 addr v cmp) s = .next s) ∧
    (own ≠ none ∨ ¬ cut loc → Gives (exec (.hostAccess host 0 addr v cmp) s) fun t => t = { s with
      order := t.order, outbox := s.outbox ++ [(3, [host, loc, (own.map (·.value)).getD mem])] }) ∧
    (Gives (exec (.hostAccess host 1 addr v cmp) s) fun t => ∃ k, t = { s with
      hostStores := s.hostStores ++ [⟨host, loc, v % 2 ^ 32, k⟩] }) ∧
    (mine = [] → exec (.hostAccess host 2 addr v cmp) s = .next s ∧ exec (.hostAccess host 3 addr v cmp) s = .next s) ∧
    (∀ x r, mine = x :: r → (waits x.loc → exec (.hostAccess host 2 addr v cmp) s = .next s) ∧
      (¬ waits x.loc → Gives (exec (.hostAccess host 2 addr v cmp) s) fun t =>
        t.hostStores = s.hostStores.erase x ∧ wrote x.loc (x.value % 2 ^ 32) t)) ∧
    ((∃ x ∈ mine, waits x.loc) → exec (.hostAccess host 3 addr v cmp) s = .next s) ∧
    ((∀ x ∈ mine, ¬ waits x.loc) →
      Gives (exec (.hostAccess host 3 addr v cmp) s) fun t => t.hostStores.filter (fun x => x.host == host) = [] ∧ t.outbox = s.outbox) ∧
    ∀ op, mine = [] →
      (s.frozen loc = true ∨ cut loc ∨ atom loc ∧ s.atomRace loc = false → exec (.hostAccess host (4 + op) addr v cmp) s = .next s) ∧
      (s.frozen loc = false → ¬ cut loc → ¬ atom loc → s.atomRace loc = false →
        Gives (exec (.hostAccess host (4 + op) addr v cmp) s) fun t => t.outbox = s.outbox ++ [(3, [host, loc, mem])] ∧
          wrote loc (atomOp op 0 mem (v % 2 ^ 32) (cmp % 2 ^ 32) % 2 ^ 32) t)

/-- R63, R368, R369, R391, R410: the package right after reset: every clock at 0, every control register at its Reset
value (the quanta 0x40, IDLE 4, the age limits 0x400, TMS 0x2710, HANGT 0x100, the planes mapped to themselves, the
rings at their least size), and nothing running; the invariant of every step holds. The lists of grids, blocks and code
are empty because nothing has launched; that no tenant entry is valid and that no tenant has a root table, where R370
and R393 give their registers no Reset column, is the model's choice (log entry 3). -/
def Obligations.ResetState : Prop :=  State.reset.Sound ∧ State.reset.blocks = [] ∧ State.reset.grids = [] ∧ State.reset.loft = [] ∧ State.reset.session = none ∧
  State.reset.far = [] ∧ ∀ d < 4, let x := State.reset.die d
    x.clock = 0 ∧ x.granary = [] ∧ (∀ p < 8, x.ctlField (4 * p) 0 20 = 0x40) ∧ x.ctlField 0x20 0 16 = 4 ∧
    (∀ i < 48, x.ctlField (0x100 + 4 * i) 0 16 = 0x400 ∧ x.coreOff i = false ∧ x.corePol i = none) ∧
    (∀ n < 16, x.tenVal n = false ∧ x.root n = none) ∧ x.tms = 0x2710 ∧ x.hang = 0x100 * 1024 ∧ x.faultSlots = 64 ∧
    x.svcSlots = 128 ∧ (∀ p < 8, x.planeMap p = p ∧ x.drain p = false) ∧ x.shooting = false ∧ x.ctlNat 0xB8 = 0 ∧ x.ctlNat 0xB4 = 0

/-- R39, R41, R44, R55, R76, R215, R217, R228, R241, R243: a step runs the decoded instruction. An event of the agenda is
executed; a clock with nothing left passes; the word at the path's PC is fetched, decoded and executed, a word past
the overlay's end or one that decodes to nothing trapping; and an issue slot A runs the first ready path of the warp
its policy puts first, with the slot's bookkeeping added. The first word of a clause waits for the flags of the header's
WAIT mask when it issues, since another path may have marked one (R44); a header that is passed leaves the slot free,
its warp holding the choice, and the hints that led to it standing (R228). Where R41 lets the warp's second path issue beside it, that
path is fixed before slot A's word runs, with what stood then for its word to read; slot B runs that word. The agenda,
the slots and their order are the model's own (log entries 1, 7). -/
def Obligations.StepRunsWord : Prop := ∀ (s : State),
  (∀ e r, s.agenda = e :: r → step s = exec e { s with agenda := r }) ∧
  (s.agenda = [] → s.slots = [] → step s = .next s.tick) ∧
  (∀ l, s.lead = some l →
    (∀ w i, s.fetch l.pc = .word w → decode w = some i → l.clause.isSome = true ∨ isHeader w = true →
      let m := (l.clause.map (·.wait)).getD 0
      (m = 0 → s.issueWord = exec i s) ∧
      (m ≠ 0 → s.accTrap m = true → s.issueWord = .next { s.takeAccTrap with stalled := false }) ∧
      (m ≠ 0 → s.accTrap m = false → s.w.seen.flagsClear m = false → s.issueWord = .next { s with stalled := true }) ∧
      (m ≠ 0 → s.accTrap m = false → s.w.seen.flagsClear m = true →
        s.issueWord = exec i { s with w := s.w.closeWindows m, order := s.flagsHeard s.issuing m })) ∧
    (s.fetch l.pc = .past → Traps s { cause := 0x14 } s.issueWord) ∧
    (∀ w, s.fetch l.pc = .word w → decode w = none ∨ l.clause = none ∧ isHeader w = false →
      Traps s { cause := 0x10 } s.issueWord)) ∧
  (∀ m, let f := s.beside m
    (s.partner m = 0 → f = s) ∧
    (f = s ∨ f.im = m ∧ f.w.second = s.partner m ∧
      f.w.view = some { s := s.w.s, flags := s.w.flags, handling := maskOf (s.w.lanes.filter fun l => l.live && l.h), dthr := s.dthrs })) ∧
  ∀ sl r, s.agenda = [] → s.slots = sl :: r → s.cur = none →
    let z : State := { s with slots := r }
    let cs := z.candidates sl.core sl.part 0
    let y := z.useHints (z.warpsOn sl.core sl.part 0) cs
    let runs (g : State) (l : Lane) (w : Nat) (i : Instr) (u : State) : Prop := g.lead = some l ∧ ∃ c, l.clause = some c ∧
      g.fetch l.pc = .word w ∧ decode w = some i ∧ u.stalled = false ∧
      (c.wait = 0 ∧ exec i g = .next u ∨ c.wait ≠ 0 ∧ g.accTrap c.wait = false ∧ g.w.seen.flagsClear c.wait = true ∧
        exec i { g with w := g.w.closeWindows c.wait, order := g.flagsHeard g.issuing c.wait } = .next u)
    (∀ c q p ps l w i u v, sl.slot = 0 → z.narrow sl.core = false → z.busySlot sl 0 = false → cs = c :: q →
      (y.focus c.blk c.wid).readyPaths = p :: ps →
      let g := y.at c.blk c.wid p.mask
      (z.at c.blk c.wid p.mask).atHeader = false → runs g l w i u → runs (g.beside p.mask) l w i v →
        Gives (step s) fun t => ∃ x, t = { v with issue := smSet v.issue (issueKey sl.core sl.part 0) x }.unfocus ∧
          x.last = some (c.blk, c.wid) ∧ x.busyTill =
            if twoPass p.mask ∧ ¬ (0x70 ≤ w / 2 ^ 25 ∧ w / 2 ^ 25 ≤ 0x73) then (z.die (sl.core / 48)).clock + 2 else 0) ∧
    (∀ c q p ps l w i u, sl.slot = 0 → z.narrow sl.core = false → z.busySlot sl 0 = false → cs = c :: q →
      (y.focus c.blk c.wid).readyPaths = p :: ps → (z.at c.blk c.wid p.mask).atHeader = true →
      let g := y.at c.blk c.wid p.mask
      g.lead = some l → l.clause = none → g.fetch l.pc = .word w → decode w = some i → exec i g = .next u → u.stalled = false →
        Gives (step s) fun t => t.slots = sl :: u.slots ∧ (t.issueOf sl.core sl.part 0).turn = some (c.blk, c.wid) ∧
          ∀ x ∈ z.warpsOn sl.core sl.part 0, ∀ o v, z.warp? x.1 x.2 = some o → t.warp? x.1 x.2 = some v →
            v.boost = o.boost ∧ v.defer = o.defer) ∧
    ∀ b k l w i u, sl.slot = 1 → z.narrow sl.core = false → (z.issueOf sl.core sl.part 0).last = some (b, k) →
      let f : State := { z.focus b k with im := (z.focus b k).w.second }
      f.im ≠ 0 → runs f l w i u → z.trapWaits sl 1 f u = false →
        Gives (step s) fun t => ∃ x,
          let v : State := { u with issue := smSet u.issue (issueKey sl.core sl.part 1) x }
          let a := z.issueOf sl.core sl.part 0
          let q := if f.hint.sched = some 2 then v.setIssue sl.core sl.part 0 { a with standing := false } else v
          t = (q.modWarp b k fun y => { y with second := 0, view := none }).unfocus

/-- R214 to R240, R363: words of the spec's worked program, and a word of every format and layout of R219 and R220 written
out bit by bit, decode to the instructions they stand for; the words of OP 0x74 to 0x77 decode to none (R229). -/
def Obligations.DecodeWords : Prop :=  decode 0xF000FFD0 = some (.clauseHeader 0 15 15 13 0 0) ∧ decode 0xF0001F00 = some (.clauseHeader 0 1 15 0 0 0) ∧
  decode 0xF002FF10 = some (.clauseHeader 2 15 15 1 0 0) ∧ decode 0xE0002000 = some (.hintImm 0x2000) ∧
  decode 0x5C0C0000 = some (.movi 3 0 0) ∧ decode 0x1E20140C = some (.movs 16 0x0A) ∧
  decode 0x1C202201 = some (.scmp 16 17 0 0 1) ∧ decode 0x04000081 = some (.bru 8 1) ∧
  decode 0x05FFFFB2 = some (.bru (2 ^ 21 - 5) 2) ∧ decode 0xB6182309 = some (.fst 6 4 1 4 0 2) ∧
  decode 0xB61C714B = some (.fstrel 7 14 0 5 0 2) ∧ decode 0xB620710A = some (.fldacq 8 14 0 4 0 2) ∧
  decode 0xB6282308 = some (.fld 10 4 1 4 0 2) ∧
  decode 0x20402049 = some (.setpI32 2 0 8 9 1) ∧ decode 0x282860C0 = some (.voteBallot 20 3 0) ∧
  decode 0xBE01D880 = some (.fnc 7 3) ∧
  decode 0b0100000_0000011_0000001_0000010_0000 = some (.iadd 3 1 2 0) ∧
  decode 0b0011000_0000001_0000010_0000011_0000 = some (.bcast 1 2 3 0) ∧
  decode 0b0101100_0000011_0000001_1111111_0000 = some (.iaddImm 3 1 127 0) ∧
  decode 0b1010011_0000010_0000001_0000011_0000 = some (.stsB64 2 1 3 0) ∧
  decode 0b0001010_00000001_00000010_00000011_1 = some (.ssub 1 2 3 1) ∧
  decode 0b1011101_00000001_00000010_000000011 = some (.sld 1 2 3) ∧
  decode 0b0111111_0000011_0000001_0010000_0000 = some (.pxclamp 3 1 0) ∧
  decode 0b1001001_0000011_0000010_11_01_000_0000 = some (.dot4E5m2 3 2 3 0) ∧
  decode 0b0011010_0000001_0000010_0011_101_0000 = some (.segscanIncl 1 2 3 5 0) ∧
  decode 0b0011101_0000001_0010_00001000_00_0000 = some (.glean 1 2 8 0) ∧
  decode 0b0010011_0001_0010_0011_1_0_010_0000_0100 = some (.pxor 1 2 3 1 0 4) ∧
  decode 0b1011110_0000000_0000001_0000101_0000 = some (.hurdleArrive 1 5 0) ∧
  decode 0b1011010_0000010_0000001_111_1_01_0_0000 = some (.atom 2 1 7 1 1 0) ∧
  decode 0b0000100_00000111_0000000000110_0001 = some (.loopn 7 6 1) ∧
  decode 0b0000101_0000011_00000000000100_0000 = some (.reform 3 4 0) ∧
  decode 0b0000111_000000000101_00000000_1_0000 = some (.waitl 5 0) ∧
  decode 0b0001000_00000000_0001_000000000_0011 = some (.exit 3) ∧
  decode 0b1100000_0011_00000010_00000100_0_0000 = some (.batonArm 3 2 4 0) ∧
  decode 0b1100100_00000000_001_1_00000000_1_0010 = some (.stepClose 1 1 2) ∧
  decode 0b1100110_0001000_00000000000101_0000 = some (.svc 8 5 0) ∧
  decode 0b0001111_00000001_00000011_01000101_0 = some (.rdlane 1 3 5) ∧
  decode 0b0000110_00001001_0000000100000010_0 = some (.callo 9 258) ∧
  decode 0b1100001_00000100_001_0010_00000_1_0101 = some (.cube 4 1 2 1 5) ∧
  decode 0b1100011_00000011_0000010_01_000_1_0000 = some (.accst 3 2 1) ∧ ∀ w, 0x74 ≤ w / 2 ^ 25 → w / 2 ^ 25 ≤ 0x77 → decode w = none

/-- R215, R219 to R240: decode and encode agree on every word: a well-formed instruction with an encoding has a word
below 2^32 that decodes to it, and a word that decodes to an instruction is that instruction's word; so no bit of an
encoding is dropped, and no two instructions share a word. -/
def Obligations.RoundTrip : Prop :=  (∀ (i : Instr) (w : Nat), i.wf = true → encode i = some w → w < 2 ^ 32 ∧ decode w = some i) ∧
  (∀ (w : Nat) (i : Instr), w < 2 ^ 32 → decode w = some i → encode i = some w)

/-- Every step goes on: where the agenda holds steps of the machine only, no step ends in a fault or a refusal. -/
def Obligations.StepGoes : Prop := ∀ s : State, s.agendaOk → Goes (step s)

/-- The invariant that every step keeps: the memories stay in canonical form, no word enters the agenda, the package
keeps its four dies, and blocks, warps, grids, engines and start queues stand under rising keys. -/
def Obligations.SoundKept : Prop := ∀ s t : State, s.Sound → step s = .next t → t.Sound
end

