-- ==== Sys2Proof/Laws/Maps.lean ====
section
/-! SUPPORT. Sparse maps and memories: what a read finds after a write, and that every update keeps the canonical form. -/

namespace Sys2Proof.Machine

/-! ### Reading after writing -/

@[simp] theorem smGet_nil {α : Type} (k : Nat) : smGet ([] : SMap α) k = none := rfl

theorem smGet_smSet {α : Type} (m : SMap α) (k n : Nat) (v : α) :
    smGet (smSet m k v) n = if n = k then some v else smGet m n := by
  induction m with
  | nil => simp [smSet, smGet, eq_comm]
  | cons e r ih =>
    obtain ⟨j, x⟩ := e
    simp only [smSet]
    split
    · simp [smGet, eq_comm]
    · split
      · subst k; simp only [smGet]; split <;> simp_all [eq_comm]
      · simp only [smGet, ih]; split
        · rename_i h; subst h; simp; omega
        · rfl

theorem smGet_smSet_same {α : Type} (m : SMap α) (k : Nat) (v : α) : smGet (smSet m k v) k = some v := by
  simp [smGet_smSet]

theorem smGet_smSet_other {α : Type} (m : SMap α) {k n : Nat} (h : n ≠ k) (v : α) :
    smGet (smSet m k v) n = smGet m n := by
  simp [smGet_smSet, h]

theorem memByte_smSet (m : Mem) (tag k a : Nat) (b : Byte) :
    memByte (smSet m k b) tag a = if a = k then b else memByte m tag a := by
  simp only [memByte, smGet_smSet]; split <;> rfl

theorem memByte_memWrite_out (bs : List Byte) (m : Mem) (tag k a : Nat) (h : a < k ∨ k + bs.length ≤ a) :
    memByte (memWrite m k bs) tag a = memByte m tag a := by
  induction bs generalizing m k with
  | nil => rfl
  | cons b r ih =>
    simp only [List.length_cons] at h
    rw [memWrite, ih _ _ (by omega), memByte_smSet, if_neg (by omega)]

theorem memByte_memWrite_in (bs : List Byte) (m : Mem) (tag k i : Nat) (h : i < bs.length) :
    memByte (memWrite m k bs) tag (k + i) = bs[i] := by
  induction bs generalizing m k i with
  | nil => simp at h
  | cons b r ih =>
    cases i with
    | zero => rw [memWrite, memByte_memWrite_out _ _ _ _ _ (by omega), memByte_smSet]; simp
    | succ i =>
      simp only [List.length_cons] at h
      have := ih (smSet m k b) (k + 1) i (by omega)
      rw [memWrite, show k + (i + 1) = k + 1 + i by omega, this]; rfl

/-! ### The canonical form -/

theorem smWf_cons {α : Type} (j : Nat) (x : α) (r : SMap α) :
    smWf ((j, x) :: r) = true ↔ (∀ e ∈ r, j < e.1) ∧ smWf r = true := by
  induction r generalizing j x with
  | nil => simp [smWf]
  | cons e q ih =>
    obtain ⟨k, y⟩ := e
    have h1 : smWf ((j, x) :: (k, y) :: q) = (decide (j < k) && smWf ((k, y) :: q)) := rfl
    rw [h1, Bool.and_eq_true, decide_eq_true_iff]
    constructor
    · rintro ⟨hjk, h⟩
      refine ⟨?_, h⟩
      intro e he
      rcases List.mem_cons.mp he with rfl | he
      · exact hjk
      · exact lt_trans hjk (((ih k y).mp h).1 e he)
    · rintro ⟨h, h'⟩
      exact ⟨h _ (List.mem_cons_self ..), h'⟩

theorem smSet_keys {α : Type} (m : SMap α) (k : Nat) (v : α) : ∀ e ∈ smSet m k v, e.1 = k ∨ e ∈ m := by
  induction m with
  | nil => simp [smSet]
  | cons e r ih =>
    obtain ⟨j, x⟩ := e
    simp only [smSet]
    split
    · intro e he; rcases List.mem_cons.mp he with rfl | he <;> simp_all
    · split
      · intro e he; rcases List.mem_cons.mp he with rfl | he <;> simp_all
      · intro e he
        rcases List.mem_cons.mp he with rfl | he
        · simp
        · rcases ih e he with h | h <;> simp [h]

theorem smWf_smSet {α : Type} (m : SMap α) (k : Nat) (v : α) (h : smWf m = true) : smWf (smSet m k v) = true := by
  induction m with
  | nil => rfl
  | cons e r ih =>
    obtain ⟨j, x⟩ := e
    have h' := (smWf_cons j x r).mp h
    simp only [smSet]
    split
    · rename_i hk
      refine (smWf_cons ..).mpr ⟨?_, h⟩
      intro e he
      rcases List.mem_cons.mp he with rfl | he
      · exact hk
      · exact lt_trans hk (h'.1 e he)
    · split
      · rename_i hk; subst hk; exact (smWf_cons ..).mpr h'
      · refine (smWf_cons ..).mpr ⟨?_, ih h'.2⟩
        intro e he
        rcases smSet_keys r k v e he with h1 | h1
        · omega
        · exact h'.1 e h1

theorem smWf_filter {α : Type} (m : SMap α) (p : Nat × α → Bool) (h : smWf m = true) : smWf (m.filter p) = true := by
  induction m with
  | nil => rfl
  | cons e r ih =>
    obtain ⟨j, x⟩ := e
    have h' := (smWf_cons j x r).mp h
    rw [List.filter_cons]
    split
    · exact (smWf_cons ..).mpr ⟨fun e he => h'.1 e (List.mem_of_mem_filter he), ih h'.2⟩
    · exact ih h'.2

theorem smWf_smCut {α : Type} (m : SMap α) (lo n : Nat) (h : smWf m = true) : smWf (smCut m lo n) = true :=
  smWf_filter m _ h

theorem smWf_memWrite (bs : List Byte) (m : Mem) (a : Nat) (h : Memory.wf m = true) : Memory.wf (memWrite m a bs) = true := by
  induction bs generalizing m a with
  | nil => exact h
  | cons b r ih => exact ih _ _ (smWf_smSet m a b h)

theorem smWf_foldl_smSet {α β : Type} (f : β → Nat) (g : β → α) (xs : List β) (m : SMap α) (h : smWf m = true) :
    smWf (xs.foldl (fun m x => smSet m (f x) (g x)) m) = true := by
  induction xs generalizing m with
  | nil => exact h
  | cons x r ih => exact ih _ (smWf_smSet m _ _ h)

theorem smWf_foldl_memWrite {β : Type} (f : β → Nat) (g : β → List Byte) (xs : List β) (m : Mem) (h : Memory.wf m = true) :
    Memory.wf (xs.foldl (fun m x => memWrite m (f x) (g x)) m) = true := by
  induction xs generalizing m with
  | nil => exact h
  | cons x r ih => exact ih _ (smWf_memWrite (g x) m (f x) h)

/-! ### Bytes and numbers -/

theorem leBytes_length (n x : Nat) : (leBytes n x).length = n := by
  induction n generalizing x with
  | zero => rfl
  | succ n ih => simp [leBytes, ih]

theorem leNat_leBytes (n x : Nat) : leNat (leBytes n x) = x % 256 ^ n := by
  induction n generalizing x with
  | zero => simp [leBytes, leNat, Nat.mod_one]
  | succ n ih =>
    have h8 : (BitVec.ofNat 8 x).toNat = x % 256 := BitVec.toNat_ofNat x 8
    rw [leBytes, leNat, ih, h8, pow_succ, mul_comm (256 ^ n) 256, Nat.mod_mul]

theorem listMod_length {α : Type} (xs : List α) (i : Nat) (f : α → α) : (listMod xs i f).length = xs.length := by
  induction xs generalizing i with
  | nil => rfl
  | cons x r ih => cases i <;> simp [listMod, ih]

theorem listMod_mem {α : Type} (xs : List α) (i : Nat) (f : α → α) :
    ∀ y ∈ listMod xs i f, y ∈ xs ∨ ∃ x ∈ xs, y = f x := by
  induction xs generalizing i with
  | nil => simp [listMod]
  | cons x r ih =>
    cases i with
    | zero => intro y hy; rcases List.mem_cons.mp hy with rfl | hy <;> simp_all
    | succ i =>
      intro y hy
      rcases List.mem_cons.mp hy with rfl | hy
      · simp
      · rcases ih i y hy with h | ⟨z, hz, rfl⟩
        · simp [h]
        · exact .inr ⟨z, by simp [hz], rfl⟩

theorem listMod_get {α : Type} (xs : List α) (i j : Nat) (f : α → α) :
    (listMod xs i f)[j]? = if i = j then xs[j]?.map f else xs[j]? := by
  induction xs generalizing i j with
  | nil => simp [listMod]
  | cons x r ih => cases i <;> cases j <;> simp [listMod, ih]

end Sys2Proof.Machine
end

