-- ==== Sys2Proof/Laws/Commands.lean ====
section
/-! SUPPORT. The command of a session, said once: what its header reads as, and how it is taken (R414 to R416). -/

namespace Sys2Proof.Machine

theorem leNums_length (n x : Nat) : (leNums n x).length = n := by simp [leNums, leBytes_length]

theorem numOf_leNums (n x : Nat) : numOf (leNums n x) = x % 256 ^ n := by
  rw [← leNat_leBytes]
  show (List.map _ (leBytes n x)).foldr _ 0 = _
  induction n generalizing x with
  | zero => rfl
  | succ n ih => simp [leBytes, leNat, ih]

/-- A number of a header stands where the ones before it end. -/
theorem numOf_part {k : Nat} (a b : List Nat) (n x : Nat) (h : a.length = k) :
    numOf (((a ++ (leNums n x ++ b)).drop k).take n) = x % 256 ^ n := by
  subst h
  rw [List.drop_left, List.take_append_of_le_length (by rw [leNums_length]), List.take_of_length_le (by rw [leNums_length]),
    numOf_leNums]

/-- The numbers of a header's parts are bytes. -/
theorem leNums_small (n x : Nat) : (leNums n x).all (· < 256) = true := by
  simp only [leNums, List.all_eq_true, List.mem_map, decide_eq_true_eq]
  rintro _ ⟨b, -, rfl⟩
  exact b.isLt

/-- The header of a command whose payload has `len` bytes, part after part. -/
theorem rpcHeader_eq (code tok seq len : Nat) : rpcHeader code 0 tok seq len = leNums 4 0x43524741 ++ (leNums 2 code ++ (leNums 2 0 ++
    (leNums 8 tok ++ (leNums 8 seq ++ (leNums 4 len ++ leNums 4 0))))) := by
  simp only [rpcHeader, List.append_assoc]

/-- A part of it as a number. -/
theorem header_part {code tok seq len : Nat} (k : Nat) (a b : List Nat) (n x : Nat) (h : a.length = k)
    (e : rpcHeader code 0 tok seq len = a ++ (leNums n x ++ b)) :
    numOf (((rpcHeader code 0 tok seq len).drop k).take n) = x % 256 ^ n := by rw [e]; exact numOf_part a b n x h

/-- The header of a command reads as its code, token and sequence number (R415). -/
theorem readHeader_command (code tok seq len : Nat) (h1 : code < 2 ^ 16) (h2 : tok < 2 ^ 64) (h3 : seq < 2 ^ 64) (h4 : 1 ≤ seq) :
    readHeader (rpcHeader code 0 tok seq len) = some (code, tok, seq) := by
  have e := rpcHeader_eq code tok seq len
  have hl : (rpcHeader code 0 tok seq len).length = 32 := by rw [e]; simp only [List.length_append, leNums_length]
  have hs : (rpcHeader code 0 tok seq len).all (· < 256) = true := by rw [e]; simp only [List.all_append, leNums_small, Bool.and_self]
  have p0 := header_part (code := code) (tok := tok) (seq := seq) (len := len) 0 ([])
    (leNums 2 code ++ (leNums 2 0 ++ (leNums 8 tok ++ (leNums 8 seq ++ (leNums 4 len ++ (leNums 4 0)))))) 4 0x43524741
    rfl (by rw [List.nil_append]; exact e)
  have p4 := header_part (code := code) (tok := tok) (seq := seq) (len := len) 4 (leNums 4 0x43524741)
    (leNums 2 0 ++ (leNums 8 tok ++ (leNums 8 seq ++ (leNums 4 len ++ (leNums 4 0))))) 2 code
    (leNums_length ..) e
  have p6 := header_part (code := code) (tok := tok) (seq := seq) (len := len) 6 (leNums 4 0x43524741 ++ leNums 2 code)
    (leNums 8 tok ++ (leNums 8 seq ++ (leNums 4 len ++ (leNums 4 0)))) 2 0
    (by simp only [List.length_append, leNums_length]) (by rw [e]; simp only [List.append_assoc])
  have p8 := header_part (code := code) (tok := tok) (seq := seq) (len := len) 8 (leNums 4 0x43524741 ++ leNums 2 code ++ leNums 2 0)
    (leNums 8 seq ++ (leNums 4 len ++ (leNums 4 0))) 8 tok
    (by simp only [List.length_append, leNums_length]) (by rw [e]; simp only [List.append_assoc])
  have p16 := header_part (code := code) (tok := tok) (seq := seq) (len := len) 16 (leNums 4 0x43524741 ++ leNums 2 code ++ leNums 2 0 ++ leNums 8 tok)
    (leNums 4 len ++ (leNums 4 0)) 8 seq
    (by simp only [List.length_append, leNums_length]) (by rw [e]; simp only [List.append_assoc])
  have p28 := header_part (code := code) (tok := tok) (seq := seq) (len := len) 28 (leNums 4 0x43524741 ++ leNums 2 code ++ leNums 2 0 ++ leNums 8 tok ++ leNums 8 seq ++ leNums 4 len)
    ([]) 4 0
    (by simp only [List.length_append, leNums_length]) (by rw [List.append_nil, e]; simp only [List.append_assoc])
  replace p4 := p4.trans (Nat.mod_eq_of_lt (by omega))
  replace p8 := p8.trans (Nat.mod_eq_of_lt (by omega))
  replace p16 := p16.trans (Nat.mod_eq_of_lt (by omega))
  unfold readHeader
  generalize rpcHeader code 0 tok seq len = b at *
  simp only [hl, hs, p0, p4, p6, p8, p16, p28, h4, Nat.zero_mod, Nat.reducePow, Nat.reduceMod, and_self, if_true]

/-- The next command of an open session starts, with its code, its entry committed first. -/
theorem command_next {s : State} {code tok seq : Nat} {hdr : List Nat} {r : Rpc} (run : Nat → Nat → State → Rpc → State)
    (hc : s.cur = none) (hl : s.leader.isSome = true) (hh : readHeader hdr = some (code, tok, seq))
    (hr : (s.rpcs.find? fun x => x.token == tok) = some r) (hj : (r.journal.find? fun j => j.1 == seq) = none)
    (hs : seq = r.seq + 1) (ho : r.closing = none) :
    s.command code hdr false run =
      run tok seq (s.setRpc tok fun x => { x with seq := seq, codes := smSet x.codes seq code }) r := by
  obtain ⟨l, hl⟩ := Option.isSome_iff_exists.mp hl
  have hu : s.unfocus = s := by simp [State.unfocus, hc]
  have hj' : r.reply seq = none := hj
  simp only [State.command, hu, hl, hh, hr, hj', ne_eq, not_true_eq_false, if_false]
  rw [if_pos ⟨trivial, hs, ho⟩]

/-- A committed command gets its journalled reply again, whether or not it would wait. -/
theorem command_again {s : State} {code tok seq : Nat} {hdr : List Nat} {r : Rpc} {j : Nat × Nat × List Nat} (wait : Bool)
    (run : Nat → Nat → State → Rpc → State) (hc : s.cur = none) (hl : s.leader.isSome = true)
    (hh : readHeader hdr = some (code, tok, seq)) (hr : (s.rpcs.find? fun x => x.token == tok) = some r)
    (hj : (r.journal.find? fun j => j.1 == seq) = some j) :
    s.command code hdr wait run = s.sendReply tok seq j.2.1 j.2.2 := by
  obtain ⟨l, hl⟩ := Option.isSome_iff_exists.mp hl
  have hu : s.unfocus = s := by simp [State.unfocus, hc]
  have hj' : r.reply seq = some j := hj
  simp only [State.command, hu, hl, hh, hr, hj', ne_eq, not_true_eq_false, if_false]

end Sys2Proof.Machine
end

