-- ==== Sys2Proof/Laws/Lanes.lean ====
section
/-! SUPPORT. What the named updates of a lane leave: registers, predicates, and the rest of it. -/

namespace Sys2Proof.Machine

/-! ### One lane -/

theorem Lane.vraw_vput (l : Lane) (n k : Nat) (x : Word) : (l.vput n x).vraw k = if k = n then x else l.vraw k := by
  simp only [Lane.vraw, Lane.vput, smGet_smSet]; split <;> rfl

theorem Lane.rest_vput (l : Lane) (n : Nat) (x : Word) : (l.vput n x).rest = l.rest := rfl
theorem Lane.pc_vput (l : Lane) (n : Nat) (x : Word) : (l.vput n x).pc = l.pc := rfl
theorem Lane.p_vput (l : Lane) (n : Nat) (x : Word) : (l.vput n x).p = l.p := rfl

theorem Lane.rest_vputs (l : Lane) (ds : List Nat) (xs : List Word) : (l.vputs ds xs).rest = l.rest := by
  induction ds generalizing l xs with
  | nil => cases xs <;> rfl
  | cons d ds ih => cases xs with
    | nil => rfl
    | cons x xs => exact (ih _ _).trans (Lane.rest_vput ..)

theorem Lane.pc_vputs (l : Lane) (ds : List Nat) (xs : List Word) : (l.vputs ds xs).pc = l.pc := by
  induction ds generalizing l xs with
  | nil => cases xs <;> rfl
  | cons d ds ih => cases xs with
    | nil => rfl
    | cons x xs => exact (ih _ _).trans (Lane.pc_vput ..)

theorem Lane.p_vputs (l : Lane) (ds : List Nat) (xs : List Word) : (l.vputs ds xs).p = l.p := by
  induction ds generalizing l xs with
  | nil => cases xs <;> rfl
  | cons d ds ih => cases xs with
    | nil => rfl
    | cons x xs => exact (ih _ _).trans (Lane.p_vput ..)

theorem Lane.vraw_vputs_out (l : Lane) (ds : List Nat) (xs : List Word) (n : Nat) (h : n ∉ ds) :
    (l.vputs ds xs).vraw n = l.vraw n := by
  induction ds generalizing l xs with
  | nil => cases xs <;> rfl
  | cons d ds ih =>
    simp only [List.mem_cons, not_or] at h
    cases xs with
    | nil => rfl
    | cons x xs => rw [Lane.vputs, ih _ _ h.2, Lane.vraw_vput, if_neg h.1]

theorem Lane.vraw_vputs_in (l : Lane) (ds : List Nat) (xs : List Word) (hn : ds.Nodup) :
    ∀ x ∈ ds.zip xs, (l.vputs ds xs).vraw x.1 = x.2 := by
  induction ds generalizing l xs with
  | nil => simp
  | cons d ds ih =>
    rw [List.nodup_cons] at hn
    cases xs with
    | nil => simp
    | cons y xs =>
      intro x hx
      rcases List.mem_cons.mp hx with rfl | hx
      · rw [Lane.vputs, Lane.vraw_vputs_out _ _ _ _ hn.1, Lane.vraw_vput, if_pos rfl]
      · exact ih _ _ hn.2 x hx

theorem Lane.pget_pput (l : Lane) (n k : Nat) (v : Bool) (hn : n < 16) :
    (l.pput n v).pget k = if k = 0 then true else if k = n then v else l.pget k := by
  unfold Lane.pput Lane.pget
  by_cases h0 : n = 0
  · subst h0; rw [if_pos rfl]; by_cases hk : k = 0 <;> simp [hk]
  · rw [if_neg h0]
    by_cases hk : k = 0
    · simp [hk]
    · have hb : (BitVec.ofNat 16 (2 ^ n)).getLsbD k = decide (n = k) := by
        rw [BitVec.getLsbD_ofNat, Nat.testBit_two_pow]
        by_cases h : n = k
        · subst h; simp [hn]
        · simp [h]
      generalize BitVec.ofNat 16 (2 ^ n) = b at hb
      have hk' : (k == 0) = false := by simpa using hk
      rw [if_neg hk, hk', Bool.false_or, Bool.false_or]
      cases v
      · rw [if_neg (by simp), BitVec.getLsbD_and, BitVec.getLsbD_not, hb]
        by_cases h : k = n
        · subst h; simp
        · have h' : ¬ n = k := fun e => h e.symm
          rw [if_neg h]
          by_cases hl : k < 16
          · simp [hl, h']
          · simp [BitVec.getLsbD_of_ge l.p k (by omega)]
      · rw [if_pos rfl, BitVec.getLsbD_or, hb]
        by_cases h : k = n
        · subst h; simp
        · have h' : ¬ n = k := fun e => h e.symm
          simp [h, h']

theorem Lane.rest_pput (l : Lane) (n : Nat) (v : Bool) : (l.pput n v).rest = l.rest := by unfold Lane.pput; split <;> rfl
theorem Lane.pc_pput (l : Lane) (n : Nat) (v : Bool) : (l.pput n v).pc = l.pc := by unfold Lane.pput; split <;> rfl
theorem Lane.v_pput (l : Lane) (n : Nat) (v : Bool) : (l.pput n v).v = l.v := by unfold Lane.pput; split <;> rfl

theorem Lane.vraw_pput (l : Lane) (n k : Nat) (v : Bool) : (l.pput n v).vraw k = l.vraw k := by
  rw [Lane.vraw, Lane.vraw, Lane.v_pput]

theorem Lane.keeps_next {l m : Lane} {vs ps : List Nat} (h : l.keeps m vs ps) : l.keeps m.next vs ps := h
theorem Lane.went_next (l : Lane) : l.went l.next := ⟨rfl, rfl, fun _ _ => rfl, fun _ _ => rfl⟩

/-! ### Lists of lanes -/

theorem laneStep_mapIm {s t : State} {P : Lane → Lane → Prop} (f : Lane → Lane)
    (ht : t.w.lanes = s.w.lanes.map fun l => if s.issues l then f l else l) (h : ∀ l, s.issues l = true → P l (f l)) :
    LaneStep s t P := by
  refine ⟨by rw [ht, List.length_map], ?_⟩
  intro k l m hl hm
  rw [ht, List.getElem?_map, hl] at hm
  simp only [Option.map_some, Option.some.injEq] at hm
  subst hm
  by_cases hi : s.issues l = true
  · simp [hi, h l hi]
  · simp [hi]

end Sys2Proof.Machine
end

