-- ==== Sys2Proof/Laws/Issue.lean ====
section
/-! SUPPORT. What issuing a word does, said once: the shared checks and what follows a word (`issue`, `settle`), and
from it the result of every word that only writes registers. -/

namespace Sys2Proof.Machine

/-! ### The prologue -/

theorem issue_ready {i : Instr} {s : State} (h : Ready i s) (body : Act) :
    issue i s body = match body with
      | .go t => .next (settle i s t)
      | .stall => .next { s with stalled := true }
      | .wait t => .next { t with stalled := true }
      | .trap t => .next { s.sysTrap t with stalled := false } := by
  have h1 : s.cur.isNone = false := by
    cases hc : s.cur with
    | none => simp [Ready, hc] at h
    | some x => rfl
  simp only [issue, h1, h.2]; rfl

theorem issue_go {i : Instr} {s : State} (h : Ready i s) (t : State) : issue i s (.go t) = .next (settle i s t) :=
  issue_ready h _

theorem issue_check {i : Instr} {s : State} {x : TrapInfo} (hc : s.cur.isSome) (h : issueTrap i s = some x) (body : Act) :
    issue i s body = .next { s.sysTrap x with stalled := false } := by
  have h1 : s.cur.isNone = false := by
    cases hc' : s.cur with
    | none => simp [hc'] at hc
    | some x => rfl
  simp only [issue, h1, h]; rfl

theorem Ready.wf {i : Instr} {s : State} (h : Ready i s) : i.wf = true := by
  have h2 := h.2
  unfold issueTrap at h2
  simp only at h2
  split at h2
  · simp at h2
  · rename_i hn
    simp only [Bool.not_eq_true', Bool.not_eq_false, Bool.and_eq_true] at hn
    exact hn.1.1.1.1

/-! ### What follows a word -/

/-- Two lanes agree but for vector registers of `regs` that some window covers. -/
def Lane.near (ws : List Window) (regs : List Nat) (l m : Lane) : Prop :=
  m.rest = l.rest ∧ m.pc = l.pc ∧ m.p = l.p ∧
  ∀ n, (n ∉ regs ∨ (ws.any fun y => y.covers l.id n) = false) → m.vraw n = l.vraw n

theorem Lane.near_refl (ws : List Window) (regs : List Nat) (l : Lane) : l.near ws regs l :=
  ⟨rfl, rfl, rfl, fun _ _ => rfl⟩

/-- A register of a lane with a window over it overwritten. -/
def Lane.smudge (hit : List Window) (f : Nat → Word) (m : Lane) (n : Nat) : Lane :=
  if hit.any (fun y => y.covers m.id n) then m.vput n (f n) else m

theorem Lane.near_fold (hit : List Window) (f : Nat → Word) (regs : List Nat) (l : Lane) (rs : List Nat)
    (hr : ∀ n ∈ rs, n ∈ regs) (m : Lane) (h : l.near hit regs m) : l.near hit regs (rs.foldl (Lane.smudge hit f) m) := by
  induction rs generalizing m with
  | nil => exact h
  | cons n rs ih =>
    refine ih (fun k hk => hr k (List.mem_cons_of_mem _ hk)) _ ?_
    have hid : m.id = l.id := (congrArg Lane.id h.1 :)
    unfold Lane.smudge
    split
    · rename_i hc
      refine ⟨h.1, h.2.1, h.2.2.1, fun k hk => ?_⟩
      rw [Lane.vraw_vput]
      split
      · rename_i hkn
        subst hkn
        rcases hk with hk | hk
        · exact absurd (hr k (List.mem_cons_self ..)) hk
        · rw [hid, hk] at hc; simp at hc
      · exact h.2.2.2 k hk
    · exact h

/-- What `spoil` leaves. -/
structure Near (t u : State) (lanes regs : List Nat) : Prop where
  others : u.others = t.others
  serial : u.serial = t.serial
  block : u.blk.rest = t.blk.rest
  whole : t.w.windows = [] → u.blk = t.blk
  warp : u.w.rest = t.w.rest
  uniform : u.w.s = t.w.s
  length : u.w.lanes.length = t.w.lanes.length
  near : ∀ (k : Nat) (l m : Lane), t.w.lanes[k]? = some l → u.w.lanes[k]? = some m → l.near t.w.windows regs m
  out : ∀ (k : Nat) (l : Lane), t.w.lanes[k]? = some l → l.id ∉ lanes → u.w.lanes[k]? = some l
  bare : regs = [] → u.w.lanes = t.w.lanes ∧ u.blk = t.blk

theorem Block.rest_undefTiles (b : Block) (ts : List Nat) (f : Nat → Word) : (b.undefTiles ts f).rest = b.rest := rfl

theorem near_refl (t : State) (lanes regs : List Nat) : Near t t lanes regs :=
  ⟨rfl, rfl, rfl, fun _ => rfl, rfl, rfl, rfl, fun k l m hl hm => by
    rw [hl] at hm; cases hm; exact Lane.near_refl .., fun _ _ h _ => h, fun _ => ⟨rfl, rfl⟩⟩

theorem smudge_fold (hit : List Window) (t : State) (regs : List Nat) (l : Lane) :
    regs.foldl (fun (l : Lane) n => if hit.any (fun y => y.covers l.id n) then l.vput n (t.undef (2 ^ 16 + l.id * 128 + n)) else l) l =
    regs.foldl (Lane.smudge hit fun n => t.undef (2 ^ 16 + l.id * 128 + n)) l := by
  have : ∀ (rs : List Nat) (l0 : Lane), l0.id = l.id →
      rs.foldl (fun (l : Lane) n => if hit.any (fun y => y.covers l.id n) then l.vput n (t.undef (2 ^ 16 + l.id * 128 + n)) else l) l0 =
      rs.foldl (Lane.smudge hit fun n => t.undef (2 ^ 16 + l.id * 128 + n)) l0 := by
    intro rs
    induction rs with
    | nil => intros; rfl
    | cons r rs ih =>
      intro l0 h0
      simp only [List.foldl_cons, Lane.smudge, h0]
      split
      · exact ih _ h0
      · exact ih _ h0
  exact this regs l rfl

theorem near_spoil (t : State) (lanes regs : List Nat) : Near t (t.spoil lanes regs) lanes regs := by
  unfold State.spoil
  simp only
  split
  · exact near_refl ..
  · rename_i hne
    refine ⟨rfl, rfl, rfl, fun hw => ?_, rfl, rfl, by simp [State.mapLanes], ?_, ?_, fun hr => ?_⟩
    · rw [hw] at hne; simp at hne
    · intro k l m hl hm
      simp only [State.mapLanes, List.getElem?_map, hl, Option.map_some, Option.some.injEq] at hm
      subst hm
      split
      · rw [smudge_fold]
        have := Lane.near_fold (t.w.windows.filter fun w => lanes.any fun l => regs.any fun n => w.covers l n)
          (fun n => t.undef (2 ^ 16 + l.id * 128 + n)) regs l regs (fun _ h => h) l (Lane.near_refl ..)
        refine ⟨this.1, this.2.1, this.2.2.1, fun n hn => this.2.2.2 n ?_⟩
        rcases hn with h | h
        · exact .inl h
        · refine .inr ?_
          rw [List.any_eq_false] at h ⊢
          exact fun y hy => h y (List.mem_of_mem_filter hy)
      · exact Lane.near_refl ..
    · intro k l hl hid
      simp only [State.mapLanes, List.getElem?_map, hl, Option.map_some, Option.some.injEq]
      rw [if_neg (by simpa using hid)]
    · subst hr; simp at hne

/-- The lanes that a word's destinations stand in. -/
def spoilLanes (i : Instr) (s : State) : List Nat :=
  (s.issuing.filter fun l => s.active (shapeOf s.W i).g l || s.zi).map (·.id)

theorem near_settle (i : Instr) (s t : State) : Near t (settle i s t) (spoilLanes i s) (shapeOf s.W i).vw := by
  have h := near_spoil t (spoilLanes i s) (shapeOf s.W i).vw
  exact ⟨h.others, h.serial, h.block, h.whole, h.warp, h.uniform, h.length, h.near, h.out, h.bare⟩

theorem not_spoilLanes (i : Instr) (s : State) (l : Lane) (h : s.issues l = false) : l.id ∉ spoilLanes i s := by
  intro hm
  simp only [spoilLanes, State.issuing, List.mem_map, List.mem_filter] at hm
  obtain ⟨m, ⟨⟨_, h1⟩, _⟩, h2⟩ := hm
  unfold State.issues at h h1
  rw [h2, h] at h1
  cases h1

/-! ### Words of registers -/

theorem lane_rest_of (s t : State) (P : Lane → Lane → Prop) (hP : ∀ l m, P l m → m.rest = l.rest) (h : LaneStep s t P) :
    ∀ k : Nat, (t.w.lanes[k]?).map Lane.rest = (s.w.lanes[k]?).map Lane.rest := by
  intro k
  rcases hs : s.w.lanes[k]? with _ | l
  · have : t.w.lanes[k]? = none := by
      rw [List.getElem?_eq_none_iff] at hs ⊢; rw [h.1]; exact hs
    rw [this]
  · have hk : k < t.w.lanes.length := by
      rw [h.1]; rw [List.getElem?_eq_some_iff] at hs; exact hs.1
    rw [List.getElem?_eq_getElem hk]
    have := h.2 k l _ hs (List.getElem?_eq_getElem hk)
    split at this
    · simp [hP _ _ this]
    · simp [this]

theorem sameMem_of (s t : State) (ho : t.others = s.others) (hsh : t.blk.shared = s.blk.shared) (hk : t.blk.key = s.blk.key)
    (hl : ∀ k : Nat, (t.w.lanes[k]?).map Lane.rest = (s.w.lanes[k]?).map Lane.rest) : s.sameMem t := by
  have hfar : t.far = s.far := (congrArg State.far ho :)
  have hmv : t.moves = s.moves := (congrArg State.moves ho :)
  have hv : t.hostView = s.hostView := (congrArg State.hostView ho :)
  have hd : t.dies = s.dies := (congrArg State.dies ho :)
  refine ⟨fun a => ?_, fun a => by rw [hv], fun sp a => ?_⟩
  · simp only [State.farByte, State.home, hfar, hmv]
  · cases sp with
    | shared => simp only [State.rawByte, hsh, hk]
    | granary d => simp only [State.rawByte, State.die, hd]
    | spill l =>
      have := hl l
      simp only [State.rawByte, hk]
      generalize t.w.lanes[l]? = x at this ⊢
      generalize s.w.lanes[l]? = y at this ⊢
      cases x <;> cases y <;> simp only [Option.map_some, Option.map_none, reduceCtorEq, Option.some.injEq] at this ⊢
      have e1 := (congrArg Lane.spill this :)
      have e2 := (congrArg Lane.tid this :)
      simp only [Lane.rest] at e1 e2
      rw [e1, e2]

/-- From what the word's own part leaves to what the word leaves. -/
theorem regStep_settle {i : Instr} {s t : State} {b : Block} {u : List (Nat × Word)} {f : Lane → Lane} {P : Lane → Lane → Prop}
    (ho : t.others = s.others) (hs : t.serial = s.serial) (hb : t.blk = b) (hsh : b.shared = s.blk.shared) (hk : b.key = s.blk.key)
    (hw : t.w.rest = s.w.rest) (hu : ∀ n, t.w.sraw n = (u.lookup n).getD (s.w.sraw n))
    (ht : t.w.lanes = s.w.lanes.map fun l => if s.issues l then f l else l) (hf : ∀ l, (f l).rest = l.rest)
    (hP : ∀ l m, s.issues l = true → (f l).near s.w.windows (shapeOf s.W i).vw m → P l m) :
    RegStep s (settle i s t) b u P := by
  have hn := near_settle i s t
  have hwin : t.w.windows = s.w.windows := (congrArg Warp.windows hw :)
  have hl : LaneStep s (settle i s t) fun l m => P l m ∧ m.rest = l.rest := by
    refine ⟨by rw [hn.length, ht, List.length_map], ?_⟩
    intro k l m hl hm
    have htk : t.w.lanes[k]? = some (if s.issues l then f l else l) := by rw [ht, List.getElem?_map, hl]; rfl
    by_cases hi : s.issues l = true
    · rw [if_pos hi] at htk ⊢
      have h := hn.near k _ m htk hm
      rw [hwin] at h
      exact ⟨hP l m hi h, h.1.trans (hf l)⟩
    · rw [if_neg hi] at htk ⊢
      have h := hn.out k l htk (not_spoilLanes i s l (by simpa using hi))
      rw [hm] at h
      exact Option.some.inj h
  refine ⟨hn.others.trans ho, hn.serial.trans hs, ?_, ?_, ?_, hn.warp.trans hw, ?_, ?_⟩
  · refine sameMem_of s _ (hn.others.trans ho) ?_ ?_ (lane_rest_of s _ _ (fun l m h => h.2) hl)
    · exact ((congrArg Block.shared hn.block :) : _ = t.blk.shared).trans (hb ▸ hsh)
    · exact ((congrArg Block.key hn.block :) : _ = t.blk.key).trans (hb ▸ hk)
  · rw [hn.block, hb]
  · intro h; rw [hn.whole (hwin.trans h), hb]
  · intro n; rw [← hu n]; simp only [Warp.sraw, hn.uniform]
  · refine ⟨hl.1, fun k l m h1 h2 => ?_⟩
    have := hl.2 k l m h1 h2
    split at this
    · rename_i hi; rw [if_pos hi]; exact this.1
    · rename_i hi; rw [if_neg hi]; exact this

end Sys2Proof.Machine
end

