-- ==== Sys2Proof/Laws/Words.lean ====
section
/-! SUPPORT. The result of a word by its shape: vector, float, uniform, predicate. One lemma each, which the claims about
single words cite. -/

namespace Sys2Proof.Machine

/-- A word's own part gives its next state. -/
theorem gives_settle {i : Instr} {s t : State} {Q : State → Prop} (hR : Ready i s) (he : exec i s = issue i s (.go t))
    (h : Q (settle i s t)) : Gives (exec i s) Q := ⟨_, by rw [he, issue_go hR], h⟩

/-- The lane after a write of vector registers as R244 gives. -/
def State.putV (s : State) (g : Nat) (ds : List Nat) (f : Lane → List Word) (l : Lane) : Lane :=
  if s.active g l then l.vputs ds (f l) else if s.zi then l.vputs ds (ds.map fun _ => 0) else l

theorem rest_putV (s : State) (g : Nat) (ds : List Nat) (f : Lane → List Word) (l : Lane) :
    (s.putV g ds f l).rest = l.rest := by
  unfold State.putV; split
  · exact Lane.rest_vputs ..
  · split
    · exact Lane.rest_vputs ..
    · rfl

theorem wroteV_near {s : State} {i : Instr} {g : Nat} {ds : List Nat} {f : Lane → List Word} (hn : ds.Nodup)
    (hvw : ∀ n ∈ (shapeOf s.W i).vw, n ∈ ds) (l m : Lane)
    (h : (s.putV g ds f l).next.near s.w.windows (shapeOf s.W i).vw m) : s.wroteV g ds f l m := by
  obtain ⟨h1, h2, h3, h4⟩ := h
  have hr : (s.putV g ds f l).next.rest = l.rest := rest_putV ..
  have hid : (s.putV g ds f l).next.id = l.id := (congrArg Lane.id hr :)
  have hpc : (s.putV g ds f l).pc = l.pc := by
    unfold State.putV; split
    · exact Lane.pc_vputs ..
    · split
      · exact Lane.pc_vputs ..
      · rfl
  have hp : (s.putV g ds f l).p = l.p := by
    unfold State.putV; split
    · exact Lane.p_vputs ..
    · split
      · exact Lane.p_vputs ..
      · rfl
  refine ⟨?_, ⟨h1.trans hr, fun n hnd => ?_, fun n _ => ?_⟩, fun x hx hc => ?_⟩
  · rw [h2]; exact congrArg (· + 4) hpc
  · rw [h4 n (.inl fun hm => hnd (hvw n hm))]
    show (s.putV g ds f l).vraw n = _
    unfold State.putV; split
    · exact Lane.vraw_vputs_out _ _ _ _ hnd
    · split
      · exact Lane.vraw_vputs_out _ _ _ _ hnd
      · rfl
  · unfold Lane.pget; rw [h3]; show (n == 0 || (s.putV g ds f l).p.getLsbD n) = _; rw [hp]
  · rw [h4 x.1 (.inr (by rw [hid]; exact hc))]
    show (s.putV g ds f l).vraw x.1 = _
    unfold State.putV
    split at hx
    · rename_i ha; rw [if_pos ha]; exact Lane.vraw_vputs_in _ _ _ hn x hx
    · rename_i ha
      rw [if_neg ha]
      split at hx
      · rename_i hz; rw [if_pos hz]; exact Lane.vraw_vputs_in _ _ _ hn x hx
      · rename_i hz; rw [if_neg hz]
        have : ∀ (ds : List Nat), x ∈ ds.zip (ds.map l.vraw) → l.vraw x.1 = x.2 := by
          intro ds
          induction ds with
          | nil => simp
          | cons d ds ih => intro h; rcases List.mem_cons.mp h with rfl | h <;> [rfl; exact ih h]
        exact this ds hx

theorem vwrite_advance_lanes (s : State) (g : Nat) (ds : List Nat) (f : Lane → List Word) :
    ((s.vwrite g ds f).advance).w.lanes = s.w.lanes.map fun l => if s.issues l then (s.putV g ds f l).next else l := by
  show (s.w.lanes.map _).map _ = _
  rw [List.map_map]
  apply List.map_congr_left
  intro l _
  have hi : ∀ m : Lane, m.rest = l.rest → s.issues m = s.issues l := fun m h => by
    unfold State.issues; rw [show m.id = l.id from (congrArg Lane.id h :)]
  simp only [Function.comp]
  by_cases h : s.issues l = true
  · have hp : (s.vwrite g ds f).issues (s.putV g ds f l) = true := (hi _ (rest_putV ..)).trans h
    rw [if_pos h, if_pos h]; rw [State.putV] at hp ⊢; rw [if_pos hp]
  · rw [if_neg h, if_neg h]; exact if_neg h

/-- A word of vector registers: its completion, its result and its frame (R244). -/
theorem vec_word {s : State} {i : Instr} {g : Nat} {ds : List Nat} {f : Lane → List Word}
    (he : exec i s = issue i s (.go (s.vwrite g ds f).advance)) (hn : ds.Nodup) (hvw : (shapeOf s.W i).vw = ds) :
    s.vec i g ds f := fun hR =>
  gives_settle hR he (regStep_settle (u := []) (f := fun l => (s.putV g ds f l).next) rfl rfl rfl rfl rfl rfl (fun _ => rfl)
    (vwrite_advance_lanes ..) (fun _ => rest_putV ..)
    fun l m _ h => wroteV_near hn (fun _ h => hvw ▸ h) l m h)

theorem mapLanes_mapLanes (s : State) (f g : Lane → Lane) : (s.mapLanes f).mapLanes g = s.mapLanes fun l => g (f l) := by
  have h : ((s.mapLanes f).mapLanes g).w.lanes = (s.mapLanes fun l => g (f l)).w.lanes := List.map_map
  generalize hx : s.mapLanes (fun l => g (f l)) = x at h
  have : (s.mapLanes f).mapLanes g = { x with w := { x.w with lanes := ((s.mapLanes f).mapLanes g).w.lanes } } := by
    rw [← hx]; rfl
  rw [this, h]

theorem mapLanes_congr (s : State) (f g : Lane → Lane) (h : ∀ l, f l = g l) : s.mapLanes f = s.mapLanes g := by
  rw [show f = g from funext h]

/-- A change of the issuing lanes and their going on are one change. -/
theorem mapIm_advance (s : State) (f : Lane → Lane) (hid : ∀ l, (f l).id = l.id) :
    (s.mapIm f).advance = s.mapIm fun l => (f l).next := by
  refine (mapLanes_mapLanes s _ _).trans (mapLanes_congr s _ _ fun l => ?_)
  by_cases h : s.issues l = true
  · have h' : (s.mapIm f).issues (f l) = true := by unfold State.issues at h ⊢; rw [hid]; exact h
    rw [if_pos h, if_pos h, if_pos h']
  · have h' : ¬ (s.mapIm f).issues l = true := h
    rw [if_neg h, if_neg h, if_neg h']

/-- Issuing lanes that keep their numbers keep their order. -/
theorem issuing_mapIm (s : State) (f : Lane → Lane) (hid : ∀ l, (f l).id = l.id) :
    (s.mapIm f).issuing = s.issuing.map f := by
  show (s.w.lanes.map _).filter _ = _
  unfold State.issuing
  induction s.w.lanes with
  | nil => rfl
  | cons l r ih =>
    rw [List.map_cons, List.filter_cons, List.filter_cons]
    by_cases h : s.issues l = true
    · have h' : (s.mapIm f).issues (f l) = true := by unfold State.issues at h ⊢; rw [hid]; exact h
      rw [if_pos h, if_pos h, List.map_cons, ← ih, if_pos h']
    · rw [if_neg h, if_neg h, ← ih, if_neg]
      exact h

/-- The hint run of a path survives a change of its lanes that keeps numbers and hints. -/
theorem hint_mapIm (s : State) (f : Lane → Lane) (hid : ∀ l, (f l).id = l.id) (hh : ∀ l, (f l).hint = l.hint) :
    (s.mapIm f).hint = s.hint := by
  unfold State.hint State.lead
  rw [issuing_mapIm s f hid]
  cases s.issuing with
  | nil => rfl
  | cons l r => simp [hh]

theorem hint_vputs (l : Lane) (ds : List Nat) (xs : List Word) : (l.vputs ds xs).hint = l.hint := by
  induction ds generalizing l xs with
  | nil => cases xs <;> rfl
  | cons d ds ih => cases xs with
    | nil => rfl
    | cons x xs => exact ih _ _

theorem rm_vwrite (s : State) (g : Nat) (ds : List Nat) (f : Lane → List Word) : (s.vwrite g ds f).rm = s.rm := by
  unfold State.rm
  rw [show (s.vwrite g ds f).hint = s.hint from ?_]
  refine hint_mapIm s _ (fun l => ?_) fun l => ?_
  · exact (congrArg Lane.id (rest_putV s g ds f l) :)
  · split
    · exact hint_vputs ..
    · split
      · exact hint_vputs ..
      · rfl

theorem takeSeq_advance_lanes (s : State) (g : Nat) (ds : List Nat) (f : Lane → List Word) :
    ((s.vwrite g ds f).takeSeq.advance).w.lanes = s.w.lanes.map fun l => if s.issues l then (s.putV g ds f l).next else l :=
  vwrite_advance_lanes s g ds f

/-- A word that draws generator words whatever its mode (R288). -/
theorem vecDraw_word {s : State} {i : Instr} {g : Nat} {ds : List Nat} {f : Lane → List Word}
    (he : exec i s = issue i s (.go ((s.vwrite g ds f).takeSeq).advance)) (hn : ds.Nodup) (hvw : (shapeOf s.W i).vw = ds)
    (hR : Ready i s) : Gives (exec i s) fun t => RegStep s t s.drawn [] (s.wroteV g ds f) :=
  gives_settle hR he (regStep_settle (u := []) (f := fun l => (s.putV g ds f l).next) rfl rfl rfl rfl rfl rfl (fun _ => rfl)
    (takeSeq_advance_lanes ..) (fun _ => rest_putV ..)
    fun l m _ h => wroteV_near hn (fun _ h => hvw ▸ h) l m h)

/-- A word of floats: its completion, its result, its frame and its draw of generator words (R107). -/
theorem vecF_word {s : State} {i : Instr} {g : Nat} {ds : List Nat} {f : Lane → List Word}
    (he : exec i s = issue i s (.go ((s.vwrite g ds f).takeSR).advance)) (hn : ds.Nodup) (hvw : (shapeOf s.W i).vw = ds) :
    s.vecF i g ds f := fun hR => by
  by_cases hrm : s.rm = 5
  · rw [if_pos hrm]
    refine vecDraw_word ?_ hn hvw hR
    rw [he, State.takeSR, if_pos ((rm_vwrite ..).trans hrm)]
  · rw [if_neg hrm]
    refine vec_word ?_ hn hvw hR
    rw [he, State.takeSR, if_neg fun h => hrm ((rm_vwrite ..).symm.trans h)]

/-- A word of uniform registers. -/
theorem uni_word {s : State} {i : Instr} {d : Nat} {x : Word} (he : exec i s = issue i s (.go (s.sdone d x)))
    (hvw : (shapeOf s.W i).vw = []) : s.uni i [(s.sname 1 d, x)] := fun hR =>
  gives_settle hR he (regStep_settle (f := Lane.next) rfl rfl rfl rfl rfl rfl (fun n => by
      show (smGet (smSet s.w.s _ x) n).getD 0 = _
      rw [smGet_smSet, List.lookup_cons]
      by_cases h : n = s.sname 1 d
      · subst h; simp
      · have : (n == s.sname 1 d) = false := by simpa using h
        rw [if_neg h, this]; rfl)
    rfl (fun _ => rfl) fun l m _ h => by
      rw [hvw] at h
      refine ⟨h.2.1, ⟨h.1, fun n _ => h.2.2.2 n (.inl (by simp)), fun n _ => ?_⟩⟩
      unfold Lane.pget; rw [h.2.2.1]; rfl)

/-- A word that only moves the issuing lanes. -/
theorem lanes_word {s : State} {i : Instr} {f : Lane → Lane} {P : Lane → Lane → Prop}
    (he : exec i s = issue i s (.go (s.mapIm f))) (hvw : (shapeOf s.W i).vw = []) (hf : ∀ l, (f l).rest = l.rest)
    (hP : ∀ l, s.issues l = true → P l (f l)) : s.lanesOnly i P := fun hR =>
  gives_settle hR he (by
    have hn := near_settle i s (s.mapIm f)
    have hb := hn.bare hvw
    have hl : (settle i s (s.mapIm f)).w.lanes = s.w.lanes.map fun l => if s.issues l then f l else l := hb.1
    have h := laneStep_mapIm (P := fun l m => P l m ∧ m.rest = l.rest) f hl fun l h => ⟨hP l h, hf l⟩
    refine ⟨hn.others, hn.serial, sameMem_of s _ hn.others ?_ ?_ (lane_rest_of s _ _ (fun _ _ h => h.2) h), hn.block,
      hn.whole, hn.warp, fun n => ?_, h.1, fun k l m h1 h2 => ?_⟩
    · rw [hb.2]; rfl
    · rw [hb.2]; rfl
    · simp only [Warp.sraw, hn.uniform]; rfl
    · have := h.2 k l m h1 h2
      split at this
      · rename_i hi; rw [if_pos hi]; exact this.1
      · rename_i hi; rw [if_neg hi]; exact this)

/-- The lane after a write of one predicate as R244 gives. -/
def State.putP (s : State) (g d : Nat) (f : Lane → Bool) (l : Lane) : Lane :=
  if s.active g l then l.pput d (f l) else if s.zi then l.pput d false else l

theorem putP_eq (s : State) (g d : Nat) (f : Lane → Bool) (l : Lane) :
    s.putP g d f l = l ∨ ∃ v, s.putP g d f l = l.pput d v := by
  unfold State.putP; split
  · exact .inr ⟨_, rfl⟩
  · split
    · exact .inr ⟨_, rfl⟩
    · exact .inl rfl

theorem rest_putP (s : State) (g d : Nat) (f : Lane → Bool) (l : Lane) : (s.putP g d f l).rest = l.rest := by
  rcases putP_eq s g d f l with h | ⟨v, h⟩ <;> rw [h]
  exact Lane.rest_pput ..

theorem wroteP_putP {s : State} {g d : Nat} {f : Lane → Bool} (hd : d < 16) (l : Lane) :
    s.wroteP g [(d, f)] l (s.putP g d f l).next := by
  refine ⟨?_, ⟨rest_putP .., fun n _ => ?_, fun n hn => ?_⟩, fun x hx => ?_⟩
  · rcases putP_eq s g d f l with h | ⟨v, h⟩ <;> rw [h]
    · rfl
    · exact congrArg (· + 4) (Lane.pc_pput ..)
  · rcases putP_eq s g d f l with h | ⟨v, h⟩ <;> rw [h]
    · rfl
    · exact Lane.vraw_pput ..
  · have hn' : n ≠ d := by simpa using hn
    rcases putP_eq s g d f l with h | ⟨v, h⟩ <;> rw [h]
    · rfl
    · refine (Lane.pget_pput l d n v hd).trans ?_
      rw [if_neg hn']
      split
      · rename_i h; subst h; rfl
      · rfl
  · obtain rfl : x = (d, f) := by simpa using hx
    by_cases hz : d = 0
    · subst hz; rfl
    · have key : ∀ v, (l.pput d v).pget d = v := fun v => by
        rw [Lane.pget_pput _ _ _ _ hd, if_neg hz, if_pos rfl]
      show (s.putP g d f l).pget d = if d = 0 then true else _
      rw [if_neg hz]
      unfold State.putP
      split
      · exact key _
      · split
        · exact key _
        · rfl

/-- A word of one predicate. -/
theorem pred_word {s : State} {i : Instr} {g d : Nat} {f : Lane → Bool}
    (he : exec i s = issue i s (.go (s.pwrite g d f).advance)) (hvw : (shapeOf s.W i).vw = []) (hd : Ready i s → d < 16) :
    s.pred i g [(d, f)] := fun hR => by
  refine lanes_word (f := fun l => (s.putP g d f l).next) ?_ hvw (fun l => rest_putP ..)
    (fun l _ => wroteP_putP (hd hR) l) hR
  rw [he]
  exact congrArg (fun t => issue i s (.go t)) (mapIm_advance s _ fun l => (congrArg Lane.id (rest_putP s g d f l) :))

end Sys2Proof.Machine
end

