-- ==== Sys2Proof/Laws/State.lean ====
section
/-! SUPPORT. The named updates of the state, field by field, so that no proof unfolds a record update. -/

namespace Sys2Proof.Machine

/-! ### `State.mapLanes` -/

@[simp] theorem mapLanes_agenda (s : State) (f : Lane → Lane) : (s.mapLanes f).agenda = s.agenda := rfl
@[simp] theorem mapLanes_slots (s : State) (f : Lane → Lane) : (s.mapLanes f).slots = s.slots := rfl
@[simp] theorem mapLanes_fresh (s : State) (f : Lane → Lane) : (s.mapLanes f).fresh = s.fresh := rfl
@[simp] theorem mapLanes_serial (s : State) (f : Lane → Lane) : (s.mapLanes f).serial = s.serial := rfl
@[simp] theorem mapLanes_cur (s : State) (f : Lane → Lane) : (s.mapLanes f).cur = s.cur := rfl
@[simp] theorem mapLanes_blk (s : State) (f : Lane → Lane) : (s.mapLanes f).blk = s.blk := rfl
@[simp] theorem mapLanes_im (s : State) (f : Lane → Lane) : (s.mapLanes f).im = s.im := rfl
@[simp] theorem mapLanes_stalled (s : State) (f : Lane → Lane) : (s.mapLanes f).stalled = s.stalled := rfl
@[simp] theorem mapLanes_blocks (s : State) (f : Lane → Lane) : (s.mapLanes f).blocks = s.blocks := rfl
@[simp] theorem mapLanes_dies (s : State) (f : Lane → Lane) : (s.mapLanes f).dies = s.dies := rfl
@[simp] theorem mapLanes_far (s : State) (f : Lane → Lane) : (s.mapLanes f).far = s.far := rfl
@[simp] theorem mapLanes_hostView (s : State) (f : Lane → Lane) : (s.mapLanes f).hostView = s.hostView := rfl
@[simp] theorem mapLanes_hostStores (s : State) (f : Lane → Lane) : (s.mapLanes f).hostStores = s.hostStores := rfl
@[simp] theorem mapLanes_farQ (s : State) (f : Lane → Lane) : (s.mapLanes f).farQ = s.farQ := rfl
@[simp] theorem mapLanes_hostQ (s : State) (f : Lane → Lane) : (s.mapLanes f).hostQ = s.hostQ := rfl
@[simp] theorem mapLanes_hostSeen (s : State) (f : Lane → Lane) : (s.mapLanes f).hostSeen = s.hostSeen := rfl
@[simp] theorem mapLanes_copies (s : State) (f : Lane → Lane) : (s.mapLanes f).copies = s.copies := rfl
@[simp] theorem mapLanes_chks (s : State) (f : Lane → Lane) : (s.mapLanes f).chks = s.chks := rfl
@[simp] theorem mapLanes_loft (s : State) (f : Lane → Lane) : (s.mapLanes f).loft = s.loft := rfl
@[simp] theorem mapLanes_engines (s : State) (f : Lane → Lane) : (s.mapLanes f).engines = s.engines := rfl
@[simp] theorem mapLanes_session (s : State) (f : Lane → Lane) : (s.mapLanes f).session = s.session := rfl
@[simp] theorem mapLanes_grids (s : State) (f : Lane → Lane) : (s.mapLanes f).grids = s.grids := rfl
@[simp] theorem mapLanes_inbound (s : State) (f : Lane → Lane) : (s.mapLanes f).inbound = s.inbound := rfl
@[simp] theorem mapLanes_calls (s : State) (f : Lane → Lane) : (s.mapLanes f).calls = s.calls := rfl
@[simp] theorem mapLanes_rpcs (s : State) (f : Lane → Lane) : (s.mapLanes f).rpcs = s.rpcs := rfl
@[simp] theorem mapLanes_tlb (s : State) (f : Lane → Lane) : (s.mapLanes f).tlb = s.tlb := rfl
@[simp] theorem mapLanes_moves (s : State) (f : Lane → Lane) : (s.mapLanes f).moves = s.moves := rfl
@[simp] theorem mapLanes_shoots (s : State) (f : Lane → Lane) : (s.mapLanes f).shoots = s.shoots := rfl
@[simp] theorem mapLanes_deadPlanes (s : State) (f : Lane → Lane) : (s.mapLanes f).deadPlanes = s.deadPlanes := rfl
@[simp] theorem mapLanes_issue (s : State) (f : Lane → Lane) : (s.mapLanes f).issue = s.issue := rfl
@[simp] theorem mapLanes_admCount (s : State) (f : Lane → Lane) : (s.mapLanes f).admCount = s.admCount := rfl
@[simp] theorem mapLanes_trained (s : State) (f : Lane → Lane) : (s.mapLanes f).trained = s.trained := rfl
@[simp] theorem mapLanes_failedCores (s : State) (f : Lane → Lane) : (s.mapLanes f).failedCores = s.failedCores := rfl
@[simp] theorem mapLanes_images (s : State) (f : Lane → Lane) : (s.mapLanes f).images = s.images := rfl
@[simp] theorem mapLanes_fusedRollback (s : State) (f : Lane → Lane) : (s.mapLanes f).fusedRollback = s.fusedRollback := rfl
@[simp] theorem mapLanes_measureLog (s : State) (f : Lane → Lane) : (s.mapLanes f).measureLog = s.measureLog := rfl
@[simp] theorem mapLanes_badLines (s : State) (f : Lane → Lane) : (s.mapLanes f).badLines = s.badLines := rfl
@[simp] theorem mapLanes_badChip (s : State) (f : Lane → Lane) : (s.mapLanes f).badChip = s.badChip := rfl
@[simp] theorem mapLanes_shrinks (s : State) (f : Lane → Lane) : (s.mapLanes f).shrinks = s.shrinks := rfl
@[simp] theorem mapLanes_laneSets (s : State) (f : Lane → Lane) : (s.mapLanes f).laneSets = s.laneSets := rfl
@[simp] theorem mapLanes_flashIdent (s : State) (f : Lane → Lane) : (s.mapLanes f).flashIdent = s.flashIdent := rfl
@[simp] theorem mapLanes_certs (s : State) (f : Lane → Lane) : (s.mapLanes f).certs = s.certs := rfl
@[simp] theorem mapLanes_buffers (s : State) (f : Lane → Lane) : (s.mapLanes f).buffers = s.buffers := rfl
@[simp] theorem mapLanes_outcomes (s : State) (f : Lane → Lane) : (s.mapLanes f).outcomes = s.outcomes := rfl
@[simp] theorem mapLanes_order (s : State) (f : Lane → Lane) : (s.mapLanes f).order = s.order := rfl
@[simp] theorem mapLanes_outbox (s : State) (f : Lane → Lane) : (s.mapLanes f).outbox = s.outbox := rfl
@[simp] theorem mapLanes_w_wid (s : State) (f : Lane → Lane) : (s.mapLanes f).w.wid = s.w.wid := rfl
@[simp] theorem mapLanes_w_role (s : State) (f : Lane → Lane) : (s.mapLanes f).w.role = s.w.role := rfl
@[simp] theorem mapLanes_w_budget (s : State) (f : Lane → Lane) : (s.mapLanes f).w.budget = s.w.budget := rfl
@[simp] theorem mapLanes_w_s (s : State) (f : Lane → Lane) : (s.mapLanes f).w.s = s.w.s := rfl
@[simp] theorem mapLanes_w_view (s : State) (f : Lane → Lane) : (s.mapLanes f).w.view = s.w.view := rfl
@[simp] theorem mapLanes_w_second (s : State) (f : Lane → Lane) : (s.mapLanes f).w.second = s.w.second := rfl
@[simp] theorem mapLanes_w_flags (s : State) (f : Lane → Lane) : (s.mapLanes f).w.flags = s.w.flags := rfl
@[simp] theorem mapLanes_w_queue (s : State) (f : Lane → Lane) : (s.mapLanes f).w.queue = s.w.queue := rfl
@[simp] theorem mapLanes_w_gloads (s : State) (f : Lane → Lane) : (s.mapLanes f).w.gloads = s.w.gloads := rfl
@[simp] theorem mapLanes_w_locks (s : State) (f : Lane → Lane) : (s.mapLanes f).w.locks = s.w.locks := rfl
@[simp] theorem mapLanes_w_pend (s : State) (f : Lane → Lane) : (s.mapLanes f).w.pend = s.w.pend := rfl
@[simp] theorem mapLanes_w_windows (s : State) (f : Lane → Lane) : (s.mapLanes f).w.windows = s.w.windows := rfl
@[simp] theorem mapLanes_w_upper (s : State) (f : Lane → Lane) : (s.mapLanes f).w.upper = s.w.upper := rfl
@[simp] theorem mapLanes_w_part (s : State) (f : Lane → Lane) : (s.mapLanes f).w.part = s.w.part := rfl
@[simp] theorem mapLanes_w_half (s : State) (f : Lane → Lane) : (s.mapLanes f).w.half = s.w.half := rfl
@[simp] theorem mapLanes_w_slot (s : State) (f : Lane → Lane) : (s.mapLanes f).w.slot = s.w.slot := rfl
@[simp] theorem mapLanes_w_age (s : State) (f : Lane → Lane) : (s.mapLanes f).w.age = s.w.age := rfl
@[simp] theorem mapLanes_w_parked (s : State) (f : Lane → Lane) : (s.mapLanes f).w.parked = s.w.parked := rfl
@[simp] theorem mapLanes_w_divPend (s : State) (f : Lane → Lane) : (s.mapLanes f).w.divPend = s.w.divPend := rfl
@[simp] theorem mapLanes_w_boost (s : State) (f : Lane → Lane) : (s.mapLanes f).w.boost = s.w.boost := rfl
@[simp] theorem mapLanes_w_defer (s : State) (f : Lane → Lane) : (s.mapLanes f).w.defer = s.w.defer := rfl

/-! ### `State.mapIm` -/

@[simp] theorem mapIm_agenda (s : State) (f : Lane → Lane) : (s.mapIm f).agenda = s.agenda := rfl
@[simp] theorem mapIm_slots (s : State) (f : Lane → Lane) : (s.mapIm f).slots = s.slots := rfl
@[simp] theorem mapIm_fresh (s : State) (f : Lane → Lane) : (s.mapIm f).fresh = s.fresh := rfl
@[simp] theorem mapIm_serial (s : State) (f : Lane → Lane) : (s.mapIm f).serial = s.serial := rfl
@[simp] theorem mapIm_cur (s : State) (f : Lane → Lane) : (s.mapIm f).cur = s.cur := rfl
@[simp] theorem mapIm_blk (s : State) (f : Lane → Lane) : (s.mapIm f).blk = s.blk := rfl
@[simp] theorem mapIm_im (s : State) (f : Lane → Lane) : (s.mapIm f).im = s.im := rfl
@[simp] theorem mapIm_stalled (s : State) (f : Lane → Lane) : (s.mapIm f).stalled = s.stalled := rfl
@[simp] theorem mapIm_blocks (s : State) (f : Lane → Lane) : (s.mapIm f).blocks = s.blocks := rfl
@[simp] theorem mapIm_dies (s : State) (f : Lane → Lane) : (s.mapIm f).dies = s.dies := rfl
@[simp] theorem mapIm_far (s : State) (f : Lane → Lane) : (s.mapIm f).far = s.far := rfl
@[simp] theorem mapIm_hostView (s : State) (f : Lane → Lane) : (s.mapIm f).hostView = s.hostView := rfl
@[simp] theorem mapIm_hostStores (s : State) (f : Lane → Lane) : (s.mapIm f).hostStores = s.hostStores := rfl
@[simp] theorem mapIm_farQ (s : State) (f : Lane → Lane) : (s.mapIm f).farQ = s.farQ := rfl
@[simp] theorem mapIm_hostQ (s : State) (f : Lane → Lane) : (s.mapIm f).hostQ = s.hostQ := rfl
@[simp] theorem mapIm_hostSeen (s : State) (f : Lane → Lane) : (s.mapIm f).hostSeen = s.hostSeen := rfl
@[simp] theorem mapIm_copies (s : State) (f : Lane → Lane) : (s.mapIm f).copies = s.copies := rfl
@[simp] theorem mapIm_chks (s : State) (f : Lane → Lane) : (s.mapIm f).chks = s.chks := rfl
@[simp] theorem mapIm_loft (s : State) (f : Lane → Lane) : (s.mapIm f).loft = s.loft := rfl
@[simp] theorem mapIm_engines (s : State) (f : Lane → Lane) : (s.mapIm f).engines = s.engines := rfl
@[simp] theorem mapIm_session (s : State) (f : Lane → Lane) : (s.mapIm f).session = s.session := rfl
@[simp] theorem mapIm_grids (s : State) (f : Lane → Lane) : (s.mapIm f).grids = s.grids := rfl
@[simp] theorem mapIm_inbound (s : State) (f : Lane → Lane) : (s.mapIm f).inbound = s.inbound := rfl
@[simp] theorem mapIm_calls (s : State) (f : Lane → Lane) : (s.mapIm f).calls = s.calls := rfl
@[simp] theorem mapIm_rpcs (s : State) (f : Lane → Lane) : (s.mapIm f).rpcs = s.rpcs := rfl
@[simp] theorem mapIm_tlb (s : State) (f : Lane → Lane) : (s.mapIm f).tlb = s.tlb := rfl
@[simp] theorem mapIm_moves (s : State) (f : Lane → Lane) : (s.mapIm f).moves = s.moves := rfl
@[simp] theorem mapIm_shoots (s : State) (f : Lane → Lane) : (s.mapIm f).shoots = s.shoots := rfl
@[simp] theorem mapIm_deadPlanes (s : State) (f : Lane → Lane) : (s.mapIm f).deadPlanes = s.deadPlanes := rfl
@[simp] theorem mapIm_issue (s : State) (f : Lane → Lane) : (s.mapIm f).issue = s.issue := rfl
@[simp] theorem mapIm_admCount (s : State) (f : Lane → Lane) : (s.mapIm f).admCount = s.admCount := rfl
@[simp] theorem mapIm_trained (s : State) (f : Lane → Lane) : (s.mapIm f).trained = s.trained := rfl
@[simp] theorem mapIm_failedCores (s : State) (f : Lane → Lane) : (s.mapIm f).failedCores = s.failedCores := rfl
@[simp] theorem mapIm_images (s : State) (f : Lane → Lane) : (s.mapIm f).images = s.images := rfl
@[simp] theorem mapIm_fusedRollback (s : State) (f : Lane → Lane) : (s.mapIm f).fusedRollback = s.fusedRollback := rfl
@[simp] theorem mapIm_measureLog (s : State) (f : Lane → Lane) : (s.mapIm f).measureLog = s.measureLog := rfl
@[simp] theorem mapIm_badLines (s : State) (f : Lane → Lane) : (s.mapIm f).badLines = s.badLines := rfl
@[simp] theorem mapIm_badChip (s : State) (f : Lane → Lane) : (s.mapIm f).badChip = s.badChip := rfl
@[simp] theorem mapIm_shrinks (s : State) (f : Lane → Lane) : (s.mapIm f).shrinks = s.shrinks := rfl
@[simp] theorem mapIm_laneSets (s : State) (f : Lane → Lane) : (s.mapIm f).laneSets = s.laneSets := rfl
@[simp] theorem mapIm_flashIdent (s : State) (f : Lane → Lane) : (s.mapIm f).flashIdent = s.flashIdent := rfl
@[simp] theorem mapIm_certs (s : State) (f : Lane → Lane) : (s.mapIm f).certs = s.certs := rfl
@[simp] theorem mapIm_buffers (s : State) (f : Lane → Lane) : (s.mapIm f).buffers = s.buffers := rfl
@[simp] theorem mapIm_outcomes (s : State) (f : Lane → Lane) : (s.mapIm f).outcomes = s.outcomes := rfl
@[simp] theorem mapIm_order (s : State) (f : Lane → Lane) : (s.mapIm f).order = s.order := rfl
@[simp] theorem mapIm_outbox (s : State) (f : Lane → Lane) : (s.mapIm f).outbox = s.outbox := rfl
@[simp] theorem mapIm_w_wid (s : State) (f : Lane → Lane) : (s.mapIm f).w.wid = s.w.wid := rfl
@[simp] theorem mapIm_w_role (s : State) (f : Lane → Lane) : (s.mapIm f).w.role = s.w.role := rfl
@[simp] theorem mapIm_w_budget (s : State) (f : Lane → Lane) : (s.mapIm f).w.budget = s.w.budget := rfl
@[simp] theorem mapIm_w_s (s : State) (f : Lane → Lane) : (s.mapIm f).w.s = s.w.s := rfl
@[simp] theorem mapIm_w_view (s : State) (f : Lane → Lane) : (s.mapIm f).w.view = s.w.view := rfl
@[simp] theorem mapIm_w_second (s : State) (f : Lane → Lane) : (s.mapIm f).w.second = s.w.second := rfl
@[simp] theorem mapIm_w_flags (s : State) (f : Lane → Lane) : (s.mapIm f).w.flags = s.w.flags := rfl
@[simp] theorem mapIm_w_queue (s : State) (f : Lane → Lane) : (s.mapIm f).w.queue = s.w.queue := rfl
@[simp] theorem mapIm_w_gloads (s : State) (f : Lane → Lane) : (s.mapIm f).w.gloads = s.w.gloads := rfl
@[simp] theorem mapIm_w_locks (s : State) (f : Lane → Lane) : (s.mapIm f).w.locks = s.w.locks := rfl
@[simp] theorem mapIm_w_pend (s : State) (f : Lane → Lane) : (s.mapIm f).w.pend = s.w.pend := rfl
@[simp] theorem mapIm_w_windows (s : State) (f : Lane → Lane) : (s.mapIm f).w.windows = s.w.windows := rfl
@[simp] theorem mapIm_w_upper (s : State) (f : Lane → Lane) : (s.mapIm f).w.upper = s.w.upper := rfl
@[simp] theorem mapIm_w_part (s : State) (f : Lane → Lane) : (s.mapIm f).w.part = s.w.part := rfl
@[simp] theorem mapIm_w_half (s : State) (f : Lane → Lane) : (s.mapIm f).w.half = s.w.half := rfl
@[simp] theorem mapIm_w_slot (s : State) (f : Lane → Lane) : (s.mapIm f).w.slot = s.w.slot := rfl
@[simp] theorem mapIm_w_age (s : State) (f : Lane → Lane) : (s.mapIm f).w.age = s.w.age := rfl
@[simp] theorem mapIm_w_parked (s : State) (f : Lane → Lane) : (s.mapIm f).w.parked = s.w.parked := rfl
@[simp] theorem mapIm_w_divPend (s : State) (f : Lane → Lane) : (s.mapIm f).w.divPend = s.w.divPend := rfl
@[simp] theorem mapIm_w_boost (s : State) (f : Lane → Lane) : (s.mapIm f).w.boost = s.w.boost := rfl
@[simp] theorem mapIm_w_defer (s : State) (f : Lane → Lane) : (s.mapIm f).w.defer = s.w.defer := rfl

/-! ### `State.advance` -/

@[simp] theorem advance_agenda (s : State) : (s.advance).agenda = s.agenda := rfl
@[simp] theorem advance_slots (s : State) : (s.advance).slots = s.slots := rfl
@[simp] theorem advance_fresh (s : State) : (s.advance).fresh = s.fresh := rfl
@[simp] theorem advance_serial (s : State) : (s.advance).serial = s.serial := rfl
@[simp] theorem advance_cur (s : State) : (s.advance).cur = s.cur := rfl
@[simp] theorem advance_blk (s : State) : (s.advance).blk = s.blk := rfl
@[simp] theorem advance_im (s : State) : (s.advance).im = s.im := rfl
@[simp] theorem advance_stalled (s : State) : (s.advance).stalled = s.stalled := rfl
@[simp] theorem advance_blocks (s : State) : (s.advance).blocks = s.blocks := rfl
@[simp] theorem advance_dies (s : State) : (s.advance).dies = s.dies := rfl
@[simp] theorem advance_far (s : State) : (s.advance).far = s.far := rfl
@[simp] theorem advance_hostView (s : State) : (s.advance).hostView = s.hostView := rfl
@[simp] theorem advance_hostStores (s : State) : (s.advance).hostStores = s.hostStores := rfl
@[simp] theorem advance_farQ (s : State) : (s.advance).farQ = s.farQ := rfl
@[simp] theorem advance_hostQ (s : State) : (s.advance).hostQ = s.hostQ := rfl
@[simp] theorem advance_hostSeen (s : State) : (s.advance).hostSeen = s.hostSeen := rfl
@[simp] theorem advance_copies (s : State) : (s.advance).copies = s.copies := rfl
@[simp] theorem advance_chks (s : State) : (s.advance).chks = s.chks := rfl
@[simp] theorem advance_loft (s : State) : (s.advance).loft = s.loft := rfl
@[simp] theorem advance_engines (s : State) : (s.advance).engines = s.engines := rfl
@[simp] theorem advance_session (s : State) : (s.advance).session = s.session := rfl
@[simp] theorem advance_grids (s : State) : (s.advance).grids = s.grids := rfl
@[simp] theorem advance_inbound (s : State) : (s.advance).inbound = s.inbound := rfl
@[simp] theorem advance_calls (s : State) : (s.advance).calls = s.calls := rfl
@[simp] theorem advance_rpcs (s : State) : (s.advance).rpcs = s.rpcs := rfl
@[simp] theorem advance_tlb (s : State) : (s.advance).tlb = s.tlb := rfl
@[simp] theorem advance_moves (s : State) : (s.advance).moves = s.moves := rfl
@[simp] theorem advance_shoots (s : State) : (s.advance).shoots = s.shoots := rfl
@[simp] theorem advance_deadPlanes (s : State) : (s.advance).deadPlanes = s.deadPlanes := rfl
@[simp] theorem advance_issue (s : State) : (s.advance).issue = s.issue := rfl
@[simp] theorem advance_admCount (s : State) : (s.advance).admCount = s.admCount := rfl
@[simp] theorem advance_trained (s : State) : (s.advance).trained = s.trained := rfl
@[simp] theorem advance_failedCores (s : State) : (s.advance).failedCores = s.failedCores := rfl
@[simp] theorem advance_images (s : State) : (s.advance).images = s.images := rfl
@[simp] theorem advance_fusedRollback (s : State) : (s.advance).fusedRollback = s.fusedRollback := rfl
@[simp] theorem advance_measureLog (s : State) : (s.advance).measureLog = s.measureLog := rfl
@[simp] theorem advance_badLines (s : State) : (s.advance).badLines = s.badLines := rfl
@[simp] theorem advance_badChip (s : State) : (s.advance).badChip = s.badChip := rfl
@[simp] theorem advance_shrinks (s : State) : (s.advance).shrinks = s.shrinks := rfl
@[simp] theorem advance_laneSets (s : State) : (s.advance).laneSets = s.laneSets := rfl
@[simp] theorem advance_flashIdent (s : State) : (s.advance).flashIdent = s.flashIdent := rfl
@[simp] theorem advance_certs (s : State) : (s.advance).certs = s.certs := rfl
@[simp] theorem advance_buffers (s : State) : (s.advance).buffers = s.buffers := rfl
@[simp] theorem advance_outcomes (s : State) : (s.advance).outcomes = s.outcomes := rfl
@[simp] theorem advance_order (s : State) : (s.advance).order = s.order := rfl
@[simp] theorem advance_outbox (s : State) : (s.advance).outbox = s.outbox := rfl
@[simp] theorem advance_w_wid (s : State) : (s.advance).w.wid = s.w.wid := rfl
@[simp] theorem advance_w_role (s : State) : (s.advance).w.role = s.w.role := rfl
@[simp] theorem advance_w_budget (s : State) : (s.advance).w.budget = s.w.budget := rfl
@[simp] theorem advance_w_s (s : State) : (s.advance).w.s = s.w.s := rfl
@[simp] theorem advance_w_view (s : State) : (s.advance).w.view = s.w.view := rfl
@[simp] theorem advance_w_second (s : State) : (s.advance).w.second = s.w.second := rfl
@[simp] theorem advance_w_flags (s : State) : (s.advance).w.flags = s.w.flags := rfl
@[simp] theorem advance_w_queue (s : State) : (s.advance).w.queue = s.w.queue := rfl
@[simp] theorem advance_w_gloads (s : State) : (s.advance).w.gloads = s.w.gloads := rfl
@[simp] theorem advance_w_locks (s : State) : (s.advance).w.locks = s.w.locks := rfl
@[simp] theorem advance_w_pend (s : State) : (s.advance).w.pend = s.w.pend := rfl
@[simp] theorem advance_w_windows (s : State) : (s.advance).w.windows = s.w.windows := rfl
@[simp] theorem advance_w_upper (s : State) : (s.advance).w.upper = s.w.upper := rfl
@[simp] theorem advance_w_part (s : State) : (s.advance).w.part = s.w.part := rfl
@[simp] theorem advance_w_half (s : State) : (s.advance).w.half = s.w.half := rfl
@[simp] theorem advance_w_slot (s : State) : (s.advance).w.slot = s.w.slot := rfl
@[simp] theorem advance_w_age (s : State) : (s.advance).w.age = s.w.age := rfl
@[simp] theorem advance_w_parked (s : State) : (s.advance).w.parked = s.w.parked := rfl
@[simp] theorem advance_w_divPend (s : State) : (s.advance).w.divPend = s.w.divPend := rfl
@[simp] theorem advance_w_boost (s : State) : (s.advance).w.boost = s.w.boost := rfl
@[simp] theorem advance_w_defer (s : State) : (s.advance).w.defer = s.w.defer := rfl

/-! ### `State.vwrite` -/

@[simp] theorem vwrite_agenda (s : State) (g : Nat) (ds : List Nat) (f : Lane → List Word) : (s.vwrite g ds f).agenda = s.agenda := rfl
@[simp] theorem vwrite_slots (s : State) (g : Nat) (ds : List Nat) (f : Lane → List Word) : (s.vwrite g ds f).slots = s.slots := rfl
@[simp] theorem vwrite_fresh (s : State) (g : Nat) (ds : List Nat) (f : Lane → List Word) : (s.vwrite g ds f).fresh = s.fresh := rfl
@[simp] theorem vwrite_serial (s : State) (g : Nat) (ds : List Nat) (f : Lane → List Word) : (s.vwrite g ds f).serial = s.serial := rfl
@[simp] theorem vwrite_cur (s : State) (g : Nat) (ds : List Nat) (f : Lane → List Word) : (s.vwrite g ds f).cur = s.cur := rfl
@[simp] theorem vwrite_blk (s : State) (g : Nat) (ds : List Nat) (f : Lane → List Word) : (s.vwrite g ds f).blk = s.blk := rfl
@[simp] theorem vwrite_im (s : State) (g : Nat) (ds : List Nat) (f : Lane → List Word) : (s.vwrite g ds f).im = s.im := rfl
@[simp] theorem vwrite_stalled (s : State) (g : Nat) (ds : List Nat) (f : Lane → List Word) : (s.vwrite g ds f).stalled = s.stalled := rfl
@[simp] theorem vwrite_blocks (s : State) (g : Nat) (ds : List Nat) (f : Lane → List Word) : (s.vwrite g ds f).blocks = s.blocks := rfl
@[simp] theorem vwrite_dies (s : State) (g : Nat) (ds : List Nat) (f : Lane → List Word) : (s.vwrite g ds f).dies = s.dies := rfl
@[simp] theorem vwrite_far (s : State) (g : Nat) (ds : List Nat) (f : Lane → List Word) : (s.vwrite g ds f).far = s.far := rfl
@[simp] theorem vwrite_hostView (s : State) (g : Nat) (ds : List Nat) (f : Lane → List Word) : (s.vwrite g ds f).hostView = s.hostView := rfl
@[simp] theorem vwrite_hostStores (s : State) (g : Nat) (ds : List Nat) (f : Lane → List Word) : (s.vwrite g ds f).hostStores = s.hostStores := rfl
@[simp] theorem vwrite_farQ (s : State) (g : Nat) (ds : List Nat) (f : Lane → List Word) : (s.vwrite g ds f).farQ = s.farQ := rfl
@[simp] theorem vwrite_hostQ (s : State) (g : Nat) (ds : List Nat) (f : Lane → List Word) : (s.vwrite g ds f).hostQ = s.hostQ := rfl
@[simp] theorem vwrite_hostSeen (s : State) (g : Nat) (ds : List Nat) (f : Lane → List Word) : (s.vwrite g ds f).hostSeen = s.hostSeen := rfl
@[simp] theorem vwrite_copies (s : State) (g : Nat) (ds : List Nat) (f : Lane → List Word) : (s.vwrite g ds f).copies = s.copies := rfl
@[simp] theorem vwrite_chks (s : State) (g : Nat) (ds : List Nat) (f : Lane → List Word) : (s.vwrite g ds f).chks = s.chks := rfl
@[simp] theorem vwrite_loft (s : State) (g : Nat) (ds : List Nat) (f : Lane → List Word) : (s.vwrite g ds f).loft = s.loft := rfl
@[simp] theorem vwrite_engines (s : State) (g : Nat) (ds : List Nat) (f : Lane → List Word) : (s.vwrite g ds f).engines = s.engines := rfl
@[simp] theorem vwrite_session (s : State) (g : Nat) (ds : List Nat) (f : Lane → List Word) : (s.vwrite g ds f).session = s.session := rfl
@[simp] theorem vwrite_grids (s : State) (g : Nat) (ds : List Nat) (f : Lane → List Word) : (s.vwrite g ds f).grids = s.grids := rfl
@[simp] theorem vwrite_inbound (s : State) (g : Nat) (ds : List Nat) (f : Lane → List Word) : (s.vwrite g ds f).inbound = s.inbound := rfl
@[simp] theorem vwrite_calls (s : State) (g : Nat) (ds : List Nat) (f : Lane → List Word) : (s.vwrite g ds f).calls = s.calls := rfl
@[simp] theorem vwrite_rpcs (s : State) (g : Nat) (ds : List Nat) (f : Lane → List Word) : (s.vwrite g ds f).rpcs = s.rpcs := rfl
@[simp] theorem vwrite_tlb (s : State) (g : Nat) (ds : List Nat) (f : Lane → List Word) : (s.vwrite g ds f).tlb = s.tlb := rfl
@[simp] theorem vwrite_moves (s : State) (g : Nat) (ds : List Nat) (f : Lane → List Word) : (s.vwrite g ds f).moves = s.moves := rfl
@[simp] theorem vwrite_shoots (s : State) (g : Nat) (ds : List Nat) (f : Lane → List Word) : (s.vwrite g ds f).shoots = s.shoots := rfl
@[simp] theorem vwrite_deadPlanes (s : State) (g : Nat) (ds : List Nat) (f : Lane → List Word) : (s.vwrite g ds f).deadPlanes = s.deadPlanes := rfl
@[simp] theorem vwrite_issue (s : State) (g : Nat) (ds : List Nat) (f : Lane → List Word) : (s.vwrite g ds f).issue = s.issue := rfl
@[simp] theorem vwrite_admCount (s : State) (g : Nat) (ds : List Nat) (f : Lane → List Word) : (s.vwrite g ds f).admCount = s.admCount := rfl
@[simp] theorem vwrite_trained (s : State) (g : Nat) (ds : List Nat) (f : Lane → List Word) : (s.vwrite g ds f).trained = s.trained := rfl
@[simp] theorem vwrite_failedCores (s : State) (g : Nat) (ds : List Nat) (f : Lane → List Word) : (s.vwrite g ds f).failedCores = s.failedCores := rfl
@[simp] theorem vwrite_images (s : State) (g : Nat) (ds : List Nat) (f : Lane → List Word) : (s.vwrite g ds f).images = s.images := rfl
@[simp] theorem vwrite_fusedRollback (s : State) (g : Nat) (ds : List Nat) (f : Lane → List Word) : (s.vwrite g ds f).fusedRollback = s.fusedRollback := rfl
@[simp] theorem vwrite_measureLog (s : State) (g : Nat) (ds : List Nat) (f : Lane → List Word) : (s.vwrite g ds f).measureLog = s.measureLog := rfl
@[simp] theorem vwrite_badLines (s : State) (g : Nat) (ds : List Nat) (f : Lane → List Word) : (s.vwrite g ds f).badLines = s.badLines := rfl
@[simp] theorem vwrite_badChip (s : State) (g : Nat) (ds : List Nat) (f : Lane → List Word) : (s.vwrite g ds f).badChip = s.badChip := rfl
@[simp] theorem vwrite_shrinks (s : State) (g : Nat) (ds : List Nat) (f : Lane → List Word) : (s.vwrite g ds f).shrinks = s.shrinks := rfl
@[simp] theorem vwrite_laneSets (s : State) (g : Nat) (ds : List Nat) (f : Lane → List Word) : (s.vwrite g ds f).laneSets = s.laneSets := rfl
@[simp] theorem vwrite_flashIdent (s : State) (g : Nat) (ds : List Nat) (f : Lane → List Word) : (s.vwrite g ds f).flashIdent = s.flashIdent := rfl
@[simp] theorem vwrite_certs (s : State) (g : Nat) (ds : List Nat) (f : Lane → List Word) : (s.vwrite g ds f).certs = s.certs := rfl
@[simp] theorem vwrite_buffers (s : State) (g : Nat) (ds : List Nat) (f : Lane → List Word) : (s.vwrite g ds f).buffers = s.buffers := rfl
@[simp] theorem vwrite_outcomes (s : State) (g : Nat) (ds : List Nat) (f : Lane → List Word) : (s.vwrite g ds f).outcomes = s.outcomes := rfl
@[simp] theorem vwrite_order (s : State) (g : Nat) (ds : List Nat) (f : Lane → List Word) : (s.vwrite g ds f).order = s.order := rfl
@[simp] theorem vwrite_outbox (s : State) (g : Nat) (ds : List Nat) (f : Lane → List Word) : (s.vwrite g ds f).outbox = s.outbox := rfl
@[simp] theorem vwrite_w_wid (s : State) (g : Nat) (ds : List Nat) (f : Lane → List Word) : (s.vwrite g ds f).w.wid = s.w.wid := rfl
@[simp] theorem vwrite_w_role (s : State) (g : Nat) (ds : List Nat) (f : Lane → List Word) : (s.vwrite g ds f).w.role = s.w.role := rfl
@[simp] theorem vwrite_w_budget (s : State) (g : Nat) (ds : List Nat) (f : Lane → List Word) : (s.vwrite g ds f).w.budget = s.w.budget := rfl
@[simp] theorem vwrite_w_s (s : State) (g : Nat) (ds : List Nat) (f : Lane → List Word) : (s.vwrite g ds f).w.s = s.w.s := rfl
@[simp] theorem vwrite_w_view (s : State) (g : Nat) (ds : List Nat) (f : Lane → List Word) : (s.vwrite g ds f).w.view = s.w.view := rfl
@[simp] theorem vwrite_w_second (s : State) (g : Nat) (ds : List Nat) (f : Lane → List Word) : (s.vwrite g ds f).w.second = s.w.second := rfl
@[simp] theorem vwrite_w_flags (s : State) (g : Nat) (ds : List Nat) (f : Lane → List Word) : (s.vwrite g ds f).w.flags = s.w.flags := rfl
@[simp] theorem vwrite_w_queue (s : State) (g : Nat) (ds : List Nat) (f : Lane → List Word) : (s.vwrite g ds f).w.queue = s.w.queue := rfl
@[simp] theorem vwrite_w_gloads (s : State) (g : Nat) (ds : List Nat) (f : Lane → List Word) : (s.vwrite g ds f).w.gloads = s.w.gloads := rfl
@[simp] theorem vwrite_w_locks (s : State) (g : Nat) (ds : List Nat) (f : Lane → List Word) : (s.vwrite g ds f).w.locks = s.w.locks := rfl
@[simp] theorem vwrite_w_pend (s : State) (g : Nat) (ds : List Nat) (f : Lane → List Word) : (s.vwrite g ds f).w.pend = s.w.pend := rfl
@[simp] theorem vwrite_w_windows (s : State) (g : Nat) (ds : List Nat) (f : Lane → List Word) : (s.vwrite g ds f).w.windows = s.w.windows := rfl
@[simp] theorem vwrite_w_upper (s : State) (g : Nat) (ds : List Nat) (f : Lane → List Word) : (s.vwrite g ds f).w.upper = s.w.upper := rfl
@[simp] theorem vwrite_w_part (s : State) (g : Nat) (ds : List Nat) (f : Lane → List Word) : (s.vwrite g ds f).w.part = s.w.part := rfl
@[simp] theorem vwrite_w_half (s : State) (g : Nat) (ds : List Nat) (f : Lane → List Word) : (s.vwrite g ds f).w.half = s.w.half := rfl
@[simp] theorem vwrite_w_slot (s : State) (g : Nat) (ds : List Nat) (f : Lane → List Word) : (s.vwrite g ds f).w.slot = s.w.slot := rfl
@[simp] theorem vwrite_w_age (s : State) (g : Nat) (ds : List Nat) (f : Lane → List Word) : (s.vwrite g ds f).w.age = s.w.age := rfl
@[simp] theorem vwrite_w_parked (s : State) (g : Nat) (ds : List Nat) (f : Lane → List Word) : (s.vwrite g ds f).w.parked = s.w.parked := rfl
@[simp] theorem vwrite_w_divPend (s : State) (g : Nat) (ds : List Nat) (f : Lane → List Word) : (s.vwrite g ds f).w.divPend = s.w.divPend := rfl
@[simp] theorem vwrite_w_boost (s : State) (g : Nat) (ds : List Nat) (f : Lane → List Word) : (s.vwrite g ds f).w.boost = s.w.boost := rfl
@[simp] theorem vwrite_w_defer (s : State) (g : Nat) (ds : List Nat) (f : Lane → List Word) : (s.vwrite g ds f).w.defer = s.w.defer := rfl

/-! ### `State.pwrite` -/

@[simp] theorem pwrite_agenda (s : State) (g d : Nat) (f : Lane → Bool) : (s.pwrite g d f).agenda = s.agenda := rfl
@[simp] theorem pwrite_slots (s : State) (g d : Nat) (f : Lane → Bool) : (s.pwrite g d f).slots = s.slots := rfl
@[simp] theorem pwrite_fresh (s : State) (g d : Nat) (f : Lane → Bool) : (s.pwrite g d f).fresh = s.fresh := rfl
@[simp] theorem pwrite_serial (s : State) (g d : Nat) (f : Lane → Bool) : (s.pwrite g d f).serial = s.serial := rfl
@[simp] theorem pwrite_cur (s : State) (g d : Nat) (f : Lane → Bool) : (s.pwrite g d f).cur = s.cur := rfl
@[simp] theorem pwrite_blk (s : State) (g d : Nat) (f : Lane → Bool) : (s.pwrite g d f).blk = s.blk := rfl
@[simp] theorem pwrite_im (s : State) (g d : Nat) (f : Lane → Bool) : (s.pwrite g d f).im = s.im := rfl
@[simp] theorem pwrite_stalled (s : State) (g d : Nat) (f : Lane → Bool) : (s.pwrite g d f).stalled = s.stalled := rfl
@[simp] theorem pwrite_blocks (s : State) (g d : Nat) (f : Lane → Bool) : (s.pwrite g d f).blocks = s.blocks := rfl
@[simp] theorem pwrite_dies (s : State) (g d : Nat) (f : Lane → Bool) : (s.pwrite g d f).dies = s.dies := rfl
@[simp] theorem pwrite_far (s : State) (g d : Nat) (f : Lane → Bool) : (s.pwrite g d f).far = s.far := rfl
@[simp] theorem pwrite_hostView (s : State) (g d : Nat) (f : Lane → Bool) : (s.pwrite g d f).hostView = s.hostView := rfl
@[simp] theorem pwrite_hostStores (s : State) (g d : Nat) (f : Lane → Bool) : (s.pwrite g d f).hostStores = s.hostStores := rfl
@[simp] theorem pwrite_farQ (s : State) (g d : Nat) (f : Lane → Bool) : (s.pwrite g d f).farQ = s.farQ := rfl
@[simp] theorem pwrite_hostQ (s : State) (g d : Nat) (f : Lane → Bool) : (s.pwrite g d f).hostQ = s.hostQ := rfl
@[simp] theorem pwrite_hostSeen (s : State) (g d : Nat) (f : Lane → Bool) : (s.pwrite g d f).hostSeen = s.hostSeen := rfl
@[simp] theorem pwrite_copies (s : State) (g d : Nat) (f : Lane → Bool) : (s.pwrite g d f).copies = s.copies := rfl
@[simp] theorem pwrite_chks (s : State) (g d : Nat) (f : Lane → Bool) : (s.pwrite g d f).chks = s.chks := rfl
@[simp] theorem pwrite_loft (s : State) (g d : Nat) (f : Lane → Bool) : (s.pwrite g d f).loft = s.loft := rfl
@[simp] theorem pwrite_engines (s : State) (g d : Nat) (f : Lane → Bool) : (s.pwrite g d f).engines = s.engines := rfl
@[simp] theorem pwrite_session (s : State) (g d : Nat) (f : Lane → Bool) : (s.pwrite g d f).session = s.session := rfl
@[simp] theorem pwrite_grids (s : State) (g d : Nat) (f : Lane → Bool) : (s.pwrite g d f).grids = s.grids := rfl
@[simp] theorem pwrite_inbound (s : State) (g d : Nat) (f : Lane → Bool) : (s.pwrite g d f).inbound = s.inbound := rfl
@[simp] theorem pwrite_calls (s : State) (g d : Nat) (f : Lane → Bool) : (s.pwrite g d f).calls = s.calls := rfl
@[simp] theorem pwrite_rpcs (s : State) (g d : Nat) (f : Lane → Bool) : (s.pwrite g d f).rpcs = s.rpcs := rfl
@[simp] theorem pwrite_tlb (s : State) (g d : Nat) (f : Lane → Bool) : (s.pwrite g d f).tlb = s.tlb := rfl
@[simp] theorem pwrite_moves (s : State) (g d : Nat) (f : Lane → Bool) : (s.pwrite g d f).moves = s.moves := rfl
@[simp] theorem pwrite_shoots (s : State) (g d : Nat) (f : Lane → Bool) : (s.pwrite g d f).shoots = s.shoots := rfl
@[simp] theorem pwrite_deadPlanes (s : State) (g d : Nat) (f : Lane → Bool) : (s.pwrite g d f).deadPlanes = s.deadPlanes := rfl
@[simp] theorem pwrite_issue (s : State) (g d : Nat) (f : Lane → Bool) : (s.pwrite g d f).issue = s.issue := rfl
@[simp] theorem pwrite_admCount (s : State) (g d : Nat) (f : Lane → Bool) : (s.pwrite g d f).admCount = s.admCount := rfl
@[simp] theorem pwrite_trained (s : State) (g d : Nat) (f : Lane → Bool) : (s.pwrite g d f).trained = s.trained := rfl
@[simp] theorem pwrite_failedCores (s : State) (g d : Nat) (f : Lane → Bool) : (s.pwrite g d f).failedCores = s.failedCores := rfl
@[simp] theorem pwrite_images (s : State) (g d : Nat) (f : Lane → Bool) : (s.pwrite g d f).images = s.images := rfl
@[simp] theorem pwrite_fusedRollback (s : State) (g d : Nat) (f : Lane → Bool) : (s.pwrite g d f).fusedRollback = s.fusedRollback := rfl
@[simp] theorem pwrite_measureLog (s : State) (g d : Nat) (f : Lane → Bool) : (s.pwrite g d f).measureLog = s.measureLog := rfl
@[simp] theorem pwrite_badLines (s : State) (g d : Nat) (f : Lane → Bool) : (s.pwrite g d f).badLines = s.badLines := rfl
@[simp] theorem pwrite_badChip (s : State) (g d : Nat) (f : Lane → Bool) : (s.pwrite g d f).badChip = s.badChip := rfl
@[simp] theorem pwrite_shrinks (s : State) (g d : Nat) (f : Lane → Bool) : (s.pwrite g d f).shrinks = s.shrinks := rfl
@[simp] theorem pwrite_laneSets (s : State) (g d : Nat) (f : Lane → Bool) : (s.pwrite g d f).laneSets = s.laneSets := rfl
@[simp] theorem pwrite_flashIdent (s : State) (g d : Nat) (f : Lane → Bool) : (s.pwrite g d f).flashIdent = s.flashIdent := rfl
@[simp] theorem pwrite_certs (s : State) (g d : Nat) (f : Lane → Bool) : (s.pwrite g d f).certs = s.certs := rfl
@[simp] theorem pwrite_buffers (s : State) (g d : Nat) (f : Lane → Bool) : (s.pwrite g d f).buffers = s.buffers := rfl
@[simp] theorem pwrite_outcomes (s : State) (g d : Nat) (f : Lane → Bool) : (s.pwrite g d f).outcomes = s.outcomes := rfl
@[simp] theorem pwrite_order (s : State) (g d : Nat) (f : Lane → Bool) : (s.pwrite g d f).order = s.order := rfl
@[simp] theorem pwrite_outbox (s : State) (g d : Nat) (f : Lane → Bool) : (s.pwrite g d f).outbox = s.outbox := rfl
@[simp] theorem pwrite_w_wid (s : State) (g d : Nat) (f : Lane → Bool) : (s.pwrite g d f).w.wid = s.w.wid := rfl
@[simp] theorem pwrite_w_role (s : State) (g d : Nat) (f : Lane → Bool) : (s.pwrite g d f).w.role = s.w.role := rfl
@[simp] theorem pwrite_w_budget (s : State) (g d : Nat) (f : Lane → Bool) : (s.pwrite g d f).w.budget = s.w.budget := rfl
@[simp] theorem pwrite_w_s (s : State) (g d : Nat) (f : Lane → Bool) : (s.pwrite g d f).w.s = s.w.s := rfl
@[simp] theorem pwrite_w_view (s : State) (g d : Nat) (f : Lane → Bool) : (s.pwrite g d f).w.view = s.w.view := rfl
@[simp] theorem pwrite_w_second (s : State) (g d : Nat) (f : Lane → Bool) : (s.pwrite g d f).w.second = s.w.second := rfl
@[simp] theorem pwrite_w_flags (s : State) (g d : Nat) (f : Lane → Bool) : (s.pwrite g d f).w.flags = s.w.flags := rfl
@[simp] theorem pwrite_w_queue (s : State) (g d : Nat) (f : Lane → Bool) : (s.pwrite g d f).w.queue = s.w.queue := rfl
@[simp] theorem pwrite_w_gloads (s : State) (g d : Nat) (f : Lane → Bool) : (s.pwrite g d f).w.gloads = s.w.gloads := rfl
@[simp] theorem pwrite_w_locks (s : State) (g d : Nat) (f : Lane → Bool) : (s.pwrite g d f).w.locks = s.w.locks := rfl
@[simp] theorem pwrite_w_pend (s : State) (g d : Nat) (f : Lane → Bool) : (s.pwrite g d f).w.pend = s.w.pend := rfl
@[simp] theorem pwrite_w_windows (s : State) (g d : Nat) (f : Lane → Bool) : (s.pwrite g d f).w.windows = s.w.windows := rfl
@[simp] theorem pwrite_w_upper (s : State) (g d : Nat) (f : Lane → Bool) : (s.pwrite g d f).w.upper = s.w.upper := rfl
@[simp] theorem pwrite_w_part (s : State) (g d : Nat) (f : Lane → Bool) : (s.pwrite g d f).w.part = s.w.part := rfl
@[simp] theorem pwrite_w_half (s : State) (g d : Nat) (f : Lane → Bool) : (s.pwrite g d f).w.half = s.w.half := rfl
@[simp] theorem pwrite_w_slot (s : State) (g d : Nat) (f : Lane → Bool) : (s.pwrite g d f).w.slot = s.w.slot := rfl
@[simp] theorem pwrite_w_age (s : State) (g d : Nat) (f : Lane → Bool) : (s.pwrite g d f).w.age = s.w.age := rfl
@[simp] theorem pwrite_w_parked (s : State) (g d : Nat) (f : Lane → Bool) : (s.pwrite g d f).w.parked = s.w.parked := rfl
@[simp] theorem pwrite_w_divPend (s : State) (g d : Nat) (f : Lane → Bool) : (s.pwrite g d f).w.divPend = s.w.divPend := rfl
@[simp] theorem pwrite_w_boost (s : State) (g d : Nat) (f : Lane → Bool) : (s.pwrite g d f).w.boost = s.w.boost := rfl
@[simp] theorem pwrite_w_defer (s : State) (g d : Nat) (f : Lane → Bool) : (s.pwrite g d f).w.defer = s.w.defer := rfl

/-! ### `State.sput` -/

@[simp] theorem sput_agenda (s : State) (n : Nat) (x : Word) : (s.sput n x).agenda = s.agenda := rfl
@[simp] theorem sput_slots (s : State) (n : Nat) (x : Word) : (s.sput n x).slots = s.slots := rfl
@[simp] theorem sput_fresh (s : State) (n : Nat) (x : Word) : (s.sput n x).fresh = s.fresh := rfl
@[simp] theorem sput_serial (s : State) (n : Nat) (x : Word) : (s.sput n x).serial = s.serial := rfl
@[simp] theorem sput_cur (s : State) (n : Nat) (x : Word) : (s.sput n x).cur = s.cur := rfl
@[simp] theorem sput_blk (s : State) (n : Nat) (x : Word) : (s.sput n x).blk = s.blk := rfl
@[simp] theorem sput_im (s : State) (n : Nat) (x : Word) : (s.sput n x).im = s.im := rfl
@[simp] theorem sput_stalled (s : State) (n : Nat) (x : Word) : (s.sput n x).stalled = s.stalled := rfl
@[simp] theorem sput_blocks (s : State) (n : Nat) (x : Word) : (s.sput n x).blocks = s.blocks := rfl
@[simp] theorem sput_dies (s : State) (n : Nat) (x : Word) : (s.sput n x).dies = s.dies := rfl
@[simp] theorem sput_far (s : State) (n : Nat) (x : Word) : (s.sput n x).far = s.far := rfl
@[simp] theorem sput_hostView (s : State) (n : Nat) (x : Word) : (s.sput n x).hostView = s.hostView := rfl
@[simp] theorem sput_hostStores (s : State) (n : Nat) (x : Word) : (s.sput n x).hostStores = s.hostStores := rfl
@[simp] theorem sput_farQ (s : State) (n : Nat) (x : Word) : (s.sput n x).farQ = s.farQ := rfl
@[simp] theorem sput_hostQ (s : State) (n : Nat) (x : Word) : (s.sput n x).hostQ = s.hostQ := rfl
@[simp] theorem sput_hostSeen (s : State) (n : Nat) (x : Word) : (s.sput n x).hostSeen = s.hostSeen := rfl
@[simp] theorem sput_copies (s : State) (n : Nat) (x : Word) : (s.sput n x).copies = s.copies := rfl
@[simp] theorem sput_chks (s : State) (n : Nat) (x : Word) : (s.sput n x).chks = s.chks := rfl
@[simp] theorem sput_loft (s : State) (n : Nat) (x : Word) : (s.sput n x).loft = s.loft := rfl
@[simp] theorem sput_engines (s : State) (n : Nat) (x : Word) : (s.sput n x).engines = s.engines := rfl
@[simp] theorem sput_session (s : State) (n : Nat) (x : Word) : (s.sput n x).session = s.session := rfl
@[simp] theorem sput_grids (s : State) (n : Nat) (x : Word) : (s.sput n x).grids = s.grids := rfl
@[simp] theorem sput_inbound (s : State) (n : Nat) (x : Word) : (s.sput n x).inbound = s.inbound := rfl
@[simp] theorem sput_calls (s : State) (n : Nat) (x : Word) : (s.sput n x).calls = s.calls := rfl
@[simp] theorem sput_rpcs (s : State) (n : Nat) (x : Word) : (s.sput n x).rpcs = s.rpcs := rfl
@[simp] theorem sput_tlb (s : State) (n : Nat) (x : Word) : (s.sput n x).tlb = s.tlb := rfl
@[simp] theorem sput_moves (s : State) (n : Nat) (x : Word) : (s.sput n x).moves = s.moves := rfl
@[simp] theorem sput_shoots (s : State) (n : Nat) (x : Word) : (s.sput n x).shoots = s.shoots := rfl
@[simp] theorem sput_deadPlanes (s : State) (n : Nat) (x : Word) : (s.sput n x).deadPlanes = s.deadPlanes := rfl
@[simp] theorem sput_issue (s : State) (n : Nat) (x : Word) : (s.sput n x).issue = s.issue := rfl
@[simp] theorem sput_admCount (s : State) (n : Nat) (x : Word) : (s.sput n x).admCount = s.admCount := rfl
@[simp] theorem sput_trained (s : State) (n : Nat) (x : Word) : (s.sput n x).trained = s.trained := rfl
@[simp] theorem sput_failedCores (s : State) (n : Nat) (x : Word) : (s.sput n x).failedCores = s.failedCores := rfl
@[simp] theorem sput_images (s : State) (n : Nat) (x : Word) : (s.sput n x).images = s.images := rfl
@[simp] theorem sput_fusedRollback (s : State) (n : Nat) (x : Word) : (s.sput n x).fusedRollback = s.fusedRollback := rfl
@[simp] theorem sput_measureLog (s : State) (n : Nat) (x : Word) : (s.sput n x).measureLog = s.measureLog := rfl
@[simp] theorem sput_badLines (s : State) (n : Nat) (x : Word) : (s.sput n x).badLines = s.badLines := rfl
@[simp] theorem sput_badChip (s : State) (n : Nat) (x : Word) : (s.sput n x).badChip = s.badChip := rfl
@[simp] theorem sput_shrinks (s : State) (n : Nat) (x : Word) : (s.sput n x).shrinks = s.shrinks := rfl
@[simp] theorem sput_laneSets (s : State) (n : Nat) (x : Word) : (s.sput n x).laneSets = s.laneSets := rfl
@[simp] theorem sput_flashIdent (s : State) (n : Nat) (x : Word) : (s.sput n x).flashIdent = s.flashIdent := rfl
@[simp] theorem sput_certs (s : State) (n : Nat) (x : Word) : (s.sput n x).certs = s.certs := rfl
@[simp] theorem sput_buffers (s : State) (n : Nat) (x : Word) : (s.sput n x).buffers = s.buffers := rfl
@[simp] theorem sput_outcomes (s : State) (n : Nat) (x : Word) : (s.sput n x).outcomes = s.outcomes := rfl
@[simp] theorem sput_order (s : State) (n : Nat) (x : Word) : (s.sput n x).order = s.order := rfl
@[simp] theorem sput_outbox (s : State) (n : Nat) (x : Word) : (s.sput n x).outbox = s.outbox := rfl
@[simp] theorem sput_w_wid (s : State) (n : Nat) (x : Word) : (s.sput n x).w.wid = s.w.wid := rfl
@[simp] theorem sput_w_role (s : State) (n : Nat) (x : Word) : (s.sput n x).w.role = s.w.role := rfl
@[simp] theorem sput_w_budget (s : State) (n : Nat) (x : Word) : (s.sput n x).w.budget = s.w.budget := rfl
@[simp] theorem sput_w_lanes (s : State) (n : Nat) (x : Word) : (s.sput n x).w.lanes = s.w.lanes := rfl
@[simp] theorem sput_w_view (s : State) (n : Nat) (x : Word) : (s.sput n x).w.view = s.w.view := rfl
@[simp] theorem sput_w_second (s : State) (n : Nat) (x : Word) : (s.sput n x).w.second = s.w.second := rfl
@[simp] theorem sput_w_flags (s : State) (n : Nat) (x : Word) : (s.sput n x).w.flags = s.w.flags := rfl
@[simp] theorem sput_w_queue (s : State) (n : Nat) (x : Word) : (s.sput n x).w.queue = s.w.queue := rfl
@[simp] theorem sput_w_gloads (s : State) (n : Nat) (x : Word) : (s.sput n x).w.gloads = s.w.gloads := rfl
@[simp] theorem sput_w_locks (s : State) (n : Nat) (x : Word) : (s.sput n x).w.locks = s.w.locks := rfl
@[simp] theorem sput_w_pend (s : State) (n : Nat) (x : Word) : (s.sput n x).w.pend = s.w.pend := rfl
@[simp] theorem sput_w_windows (s : State) (n : Nat) (x : Word) : (s.sput n x).w.windows = s.w.windows := rfl
@[simp] theorem sput_w_upper (s : State) (n : Nat) (x : Word) : (s.sput n x).w.upper = s.w.upper := rfl
@[simp] theorem sput_w_part (s : State) (n : Nat) (x : Word) : (s.sput n x).w.part = s.w.part := rfl
@[simp] theorem sput_w_half (s : State) (n : Nat) (x : Word) : (s.sput n x).w.half = s.w.half := rfl
@[simp] theorem sput_w_slot (s : State) (n : Nat) (x : Word) : (s.sput n x).w.slot = s.w.slot := rfl
@[simp] theorem sput_w_age (s : State) (n : Nat) (x : Word) : (s.sput n x).w.age = s.w.age := rfl
@[simp] theorem sput_w_parked (s : State) (n : Nat) (x : Word) : (s.sput n x).w.parked = s.w.parked := rfl
@[simp] theorem sput_w_divPend (s : State) (n : Nat) (x : Word) : (s.sput n x).w.divPend = s.w.divPend := rfl
@[simp] theorem sput_w_boost (s : State) (n : Nat) (x : Word) : (s.sput n x).w.boost = s.w.boost := rfl
@[simp] theorem sput_w_defer (s : State) (n : Nat) (x : Word) : (s.sput n x).w.defer = s.w.defer := rfl

/-! ### `State.bump` -/

@[simp] theorem bump_agenda (s : State) : (s.bump).agenda = s.agenda := rfl
@[simp] theorem bump_slots (s : State) : (s.bump).slots = s.slots := rfl
@[simp] theorem bump_serial (s : State) : (s.bump).serial = s.serial := rfl
@[simp] theorem bump_cur (s : State) : (s.bump).cur = s.cur := rfl
@[simp] theorem bump_blk (s : State) : (s.bump).blk = s.blk := rfl
@[simp] theorem bump_w (s : State) : (s.bump).w = s.w := rfl
@[simp] theorem bump_im (s : State) : (s.bump).im = s.im := rfl
@[simp] theorem bump_stalled (s : State) : (s.bump).stalled = s.stalled := rfl
@[simp] theorem bump_blocks (s : State) : (s.bump).blocks = s.blocks := rfl
@[simp] theorem bump_dies (s : State) : (s.bump).dies = s.dies := rfl
@[simp] theorem bump_far (s : State) : (s.bump).far = s.far := rfl
@[simp] theorem bump_hostView (s : State) : (s.bump).hostView = s.hostView := rfl
@[simp] theorem bump_hostStores (s : State) : (s.bump).hostStores = s.hostStores := rfl
@[simp] theorem bump_farQ (s : State) : (s.bump).farQ = s.farQ := rfl
@[simp] theorem bump_hostQ (s : State) : (s.bump).hostQ = s.hostQ := rfl
@[simp] theorem bump_hostSeen (s : State) : (s.bump).hostSeen = s.hostSeen := rfl
@[simp] theorem bump_copies (s : State) : (s.bump).copies = s.copies := rfl
@[simp] theorem bump_chks (s : State) : (s.bump).chks = s.chks := rfl
@[simp] theorem bump_loft (s : State) : (s.bump).loft = s.loft := rfl
@[simp] theorem bump_engines (s : State) : (s.bump).engines = s.engines := rfl
@[simp] theorem bump_session (s : State) : (s.bump).session = s.session := rfl
@[simp] theorem bump_grids (s : State) : (s.bump).grids = s.grids := rfl
@[simp] theorem bump_inbound (s : State) : (s.bump).inbound = s.inbound := rfl
@[simp] theorem bump_calls (s : State) : (s.bump).calls = s.calls := rfl
@[simp] theorem bump_rpcs (s : State) : (s.bump).rpcs = s.rpcs := rfl
@[simp] theorem bump_tlb (s : State) : (s.bump).tlb = s.tlb := rfl
@[simp] theorem bump_moves (s : State) : (s.bump).moves = s.moves := rfl
@[simp] theorem bump_shoots (s : State) : (s.bump).shoots = s.shoots := rfl
@[simp] theorem bump_deadPlanes (s : State) : (s.bump).deadPlanes = s.deadPlanes := rfl
@[simp] theorem bump_issue (s : State) : (s.bump).issue = s.issue := rfl
@[simp] theorem bump_admCount (s : State) : (s.bump).admCount = s.admCount := rfl
@[simp] theorem bump_trained (s : State) : (s.bump).trained = s.trained := rfl
@[simp] theorem bump_failedCores (s : State) : (s.bump).failedCores = s.failedCores := rfl
@[simp] theorem bump_images (s : State) : (s.bump).images = s.images := rfl
@[simp] theorem bump_fusedRollback (s : State) : (s.bump).fusedRollback = s.fusedRollback := rfl
@[simp] theorem bump_measureLog (s : State) : (s.bump).measureLog = s.measureLog := rfl
@[simp] theorem bump_badLines (s : State) : (s.bump).badLines = s.badLines := rfl
@[simp] theorem bump_badChip (s : State) : (s.bump).badChip = s.badChip := rfl
@[simp] theorem bump_shrinks (s : State) : (s.bump).shrinks = s.shrinks := rfl
@[simp] theorem bump_laneSets (s : State) : (s.bump).laneSets = s.laneSets := rfl
@[simp] theorem bump_flashIdent (s : State) : (s.bump).flashIdent = s.flashIdent := rfl
@[simp] theorem bump_certs (s : State) : (s.bump).certs = s.certs := rfl
@[simp] theorem bump_buffers (s : State) : (s.bump).buffers = s.buffers := rfl
@[simp] theorem bump_outcomes (s : State) : (s.bump).outcomes = s.outcomes := rfl
@[simp] theorem bump_order (s : State) : (s.bump).order = s.order := rfl
@[simp] theorem bump_outbox (s : State) : (s.bump).outbox = s.outbox := rfl

/-! ### `State.farPut` -/

@[simp] theorem farPut_agenda (s : State) (l : Nat) (bs : List Byte) : (s.farPut l bs).agenda = s.agenda := rfl
@[simp] theorem farPut_slots (s : State) (l : Nat) (bs : List Byte) : (s.farPut l bs).slots = s.slots := rfl
@[simp] theorem farPut_fresh (s : State) (l : Nat) (bs : List Byte) : (s.farPut l bs).fresh = s.fresh := rfl
@[simp] theorem farPut_serial (s : State) (l : Nat) (bs : List Byte) : (s.farPut l bs).serial = s.serial := rfl
@[simp] theorem farPut_cur (s : State) (l : Nat) (bs : List Byte) : (s.farPut l bs).cur = s.cur := rfl
@[simp] theorem farPut_blk (s : State) (l : Nat) (bs : List Byte) : (s.farPut l bs).blk = s.blk := rfl
@[simp] theorem farPut_w (s : State) (l : Nat) (bs : List Byte) : (s.farPut l bs).w = s.w := rfl
@[simp] theorem farPut_im (s : State) (l : Nat) (bs : List Byte) : (s.farPut l bs).im = s.im := rfl
@[simp] theorem farPut_stalled (s : State) (l : Nat) (bs : List Byte) : (s.farPut l bs).stalled = s.stalled := rfl
@[simp] theorem farPut_blocks (s : State) (l : Nat) (bs : List Byte) : (s.farPut l bs).blocks = s.blocks := rfl
@[simp] theorem farPut_dies (s : State) (l : Nat) (bs : List Byte) : (s.farPut l bs).dies = s.dies := rfl
@[simp] theorem farPut_hostView (s : State) (l : Nat) (bs : List Byte) : (s.farPut l bs).hostView = s.hostView := rfl
@[simp] theorem farPut_hostStores (s : State) (l : Nat) (bs : List Byte) : (s.farPut l bs).hostStores = s.hostStores := rfl
@[simp] theorem farPut_farQ (s : State) (l : Nat) (bs : List Byte) : (s.farPut l bs).farQ = s.farQ := rfl
@[simp] theorem farPut_hostQ (s : State) (l : Nat) (bs : List Byte) : (s.farPut l bs).hostQ = s.hostQ := rfl
@[simp] theorem farPut_hostSeen (s : State) (l : Nat) (bs : List Byte) : (s.farPut l bs).hostSeen = s.hostSeen := rfl
@[simp] theorem farPut_copies (s : State) (l : Nat) (bs : List Byte) : (s.farPut l bs).copies = s.copies := rfl
@[simp] theorem farPut_chks (s : State) (l : Nat) (bs : List Byte) : (s.farPut l bs).chks = s.chks := rfl
@[simp] theorem farPut_loft (s : State) (l : Nat) (bs : List Byte) : (s.farPut l bs).loft = s.loft := rfl
@[simp] theorem farPut_engines (s : State) (l : Nat) (bs : List Byte) : (s.farPut l bs).engines = s.engines := rfl
@[simp] theorem farPut_session (s : State) (l : Nat) (bs : List Byte) : (s.farPut l bs).session = s.session := rfl
@[simp] theorem farPut_grids (s : State) (l : Nat) (bs : List Byte) : (s.farPut l bs).grids = s.grids := rfl
@[simp] theorem farPut_inbound (s : State) (l : Nat) (bs : List Byte) : (s.farPut l bs).inbound = s.inbound := rfl
@[simp] theorem farPut_calls (s : State) (l : Nat) (bs : List Byte) : (s.farPut l bs).calls = s.calls := rfl
@[simp] theorem farPut_rpcs (s : State) (l : Nat) (bs : List Byte) : (s.farPut l bs).rpcs = s.rpcs := rfl
@[simp] theorem farPut_tlb (s : State) (l : Nat) (bs : List Byte) : (s.farPut l bs).tlb = s.tlb := rfl
@[simp] theorem farPut_moves (s : State) (l : Nat) (bs : List Byte) : (s.farPut l bs).moves = s.moves := rfl
@[simp] theorem farPut_shoots (s : State) (l : Nat) (bs : List Byte) : (s.farPut l bs).shoots = s.shoots := rfl
@[simp] theorem farPut_deadPlanes (s : State) (l : Nat) (bs : List Byte) : (s.farPut l bs).deadPlanes = s.deadPlanes := rfl
@[simp] theorem farPut_issue (s : State) (l : Nat) (bs : List Byte) : (s.farPut l bs).issue = s.issue := rfl
@[simp] theorem farPut_admCount (s : State) (l : Nat) (bs : List Byte) : (s.farPut l bs).admCount = s.admCount := rfl
@[simp] theorem farPut_trained (s : State) (l : Nat) (bs : List Byte) : (s.farPut l bs).trained = s.trained := rfl
@[simp] theorem farPut_failedCores (s : State) (l : Nat) (bs : List Byte) : (s.farPut l bs).failedCores = s.failedCores := rfl
@[simp] theorem farPut_images (s : State) (l : Nat) (bs : List Byte) : (s.farPut l bs).images = s.images := rfl
@[simp] theorem farPut_fusedRollback (s : State) (l : Nat) (bs : List Byte) : (s.farPut l bs).fusedRollback = s.fusedRollback := rfl
@[simp] theorem farPut_measureLog (s : State) (l : Nat) (bs : List Byte) : (s.farPut l bs).measureLog = s.measureLog := rfl
@[simp] theorem farPut_badLines (s : State) (l : Nat) (bs : List Byte) : (s.farPut l bs).badLines = s.badLines := rfl
@[simp] theorem farPut_badChip (s : State) (l : Nat) (bs : List Byte) : (s.farPut l bs).badChip = s.badChip := rfl
@[simp] theorem farPut_shrinks (s : State) (l : Nat) (bs : List Byte) : (s.farPut l bs).shrinks = s.shrinks := rfl
@[simp] theorem farPut_laneSets (s : State) (l : Nat) (bs : List Byte) : (s.farPut l bs).laneSets = s.laneSets := rfl
@[simp] theorem farPut_flashIdent (s : State) (l : Nat) (bs : List Byte) : (s.farPut l bs).flashIdent = s.flashIdent := rfl
@[simp] theorem farPut_certs (s : State) (l : Nat) (bs : List Byte) : (s.farPut l bs).certs = s.certs := rfl
@[simp] theorem farPut_buffers (s : State) (l : Nat) (bs : List Byte) : (s.farPut l bs).buffers = s.buffers := rfl
@[simp] theorem farPut_outcomes (s : State) (l : Nat) (bs : List Byte) : (s.farPut l bs).outcomes = s.outcomes := rfl
@[simp] theorem farPut_order (s : State) (l : Nat) (bs : List Byte) : (s.farPut l bs).order = s.order := rfl
@[simp] theorem farPut_outbox (s : State) (l : Nat) (bs : List Byte) : (s.farPut l bs).outbox = s.outbox := rfl

/-! ### `State.modDie` -/

@[simp] theorem modDie_agenda (s : State) (d : Nat) (f : Die → Die) : (s.modDie d f).agenda = s.agenda := rfl
@[simp] theorem modDie_slots (s : State) (d : Nat) (f : Die → Die) : (s.modDie d f).slots = s.slots := rfl
@[simp] theorem modDie_fresh (s : State) (d : Nat) (f : Die → Die) : (s.modDie d f).fresh = s.fresh := rfl
@[simp] theorem modDie_serial (s : State) (d : Nat) (f : Die → Die) : (s.modDie d f).serial = s.serial := rfl
@[simp] theorem modDie_cur (s : State) (d : Nat) (f : Die → Die) : (s.modDie d f).cur = s.cur := rfl
@[simp] theorem modDie_blk (s : State) (d : Nat) (f : Die → Die) : (s.modDie d f).blk = s.blk := rfl
@[simp] theorem modDie_w (s : State) (d : Nat) (f : Die → Die) : (s.modDie d f).w = s.w := rfl
@[simp] theorem modDie_im (s : State) (d : Nat) (f : Die → Die) : (s.modDie d f).im = s.im := rfl
@[simp] theorem modDie_stalled (s : State) (d : Nat) (f : Die → Die) : (s.modDie d f).stalled = s.stalled := rfl
@[simp] theorem modDie_blocks (s : State) (d : Nat) (f : Die → Die) : (s.modDie d f).blocks = s.blocks := rfl
@[simp] theorem modDie_far (s : State) (d : Nat) (f : Die → Die) : (s.modDie d f).far = s.far := rfl
@[simp] theorem modDie_hostView (s : State) (d : Nat) (f : Die → Die) : (s.modDie d f).hostView = s.hostView := rfl
@[simp] theorem modDie_hostStores (s : State) (d : Nat) (f : Die → Die) : (s.modDie d f).hostStores = s.hostStores := rfl
@[simp] theorem modDie_farQ (s : State) (d : Nat) (f : Die → Die) : (s.modDie d f).farQ = s.farQ := rfl
@[simp] theorem modDie_hostQ (s : State) (d : Nat) (f : Die → Die) : (s.modDie d f).hostQ = s.hostQ := rfl
@[simp] theorem modDie_hostSeen (s : State) (d : Nat) (f : Die → Die) : (s.modDie d f).hostSeen = s.hostSeen := rfl
@[simp] theorem modDie_copies (s : State) (d : Nat) (f : Die → Die) : (s.modDie d f).copies = s.copies := rfl
@[simp] theorem modDie_chks (s : State) (d : Nat) (f : Die → Die) : (s.modDie d f).chks = s.chks := rfl
@[simp] theorem modDie_loft (s : State) (d : Nat) (f : Die → Die) : (s.modDie d f).loft = s.loft := rfl
@[simp] theorem modDie_engines (s : State) (d : Nat) (f : Die → Die) : (s.modDie d f).engines = s.engines := rfl
@[simp] theorem modDie_session (s : State) (d : Nat) (f : Die → Die) : (s.modDie d f).session = s.session := rfl
@[simp] theorem modDie_grids (s : State) (d : Nat) (f : Die → Die) : (s.modDie d f).grids = s.grids := rfl
@[simp] theorem modDie_inbound (s : State) (d : Nat) (f : Die → Die) : (s.modDie d f).inbound = s.inbound := rfl
@[simp] theorem modDie_calls (s : State) (d : Nat) (f : Die → Die) : (s.modDie d f).calls = s.calls := rfl
@[simp] theorem modDie_rpcs (s : State) (d : Nat) (f : Die → Die) : (s.modDie d f).rpcs = s.rpcs := rfl
@[simp] theorem modDie_tlb (s : State) (d : Nat) (f : Die → Die) : (s.modDie d f).tlb = s.tlb := rfl
@[simp] theorem modDie_moves (s : State) (d : Nat) (f : Die → Die) : (s.modDie d f).moves = s.moves := rfl
@[simp] theorem modDie_shoots (s : State) (d : Nat) (f : Die → Die) : (s.modDie d f).shoots = s.shoots := rfl
@[simp] theorem modDie_deadPlanes (s : State) (d : Nat) (f : Die → Die) : (s.modDie d f).deadPlanes = s.deadPlanes := rfl
@[simp] theorem modDie_issue (s : State) (d : Nat) (f : Die → Die) : (s.modDie d f).issue = s.issue := rfl
@[simp] theorem modDie_admCount (s : State) (d : Nat) (f : Die → Die) : (s.modDie d f).admCount = s.admCount := rfl
@[simp] theorem modDie_trained (s : State) (d : Nat) (f : Die → Die) : (s.modDie d f).trained = s.trained := rfl
@[simp] theorem modDie_failedCores (s : State) (d : Nat) (f : Die → Die) : (s.modDie d f).failedCores = s.failedCores := rfl
@[simp] theorem modDie_images (s : State) (d : Nat) (f : Die → Die) : (s.modDie d f).images = s.images := rfl
@[simp] theorem modDie_fusedRollback (s : State) (d : Nat) (f : Die → Die) : (s.modDie d f).fusedRollback = s.fusedRollback := rfl
@[simp] theorem modDie_measureLog (s : State) (d : Nat) (f : Die → Die) : (s.modDie d f).measureLog = s.measureLog := rfl
@[simp] theorem modDie_badLines (s : State) (d : Nat) (f : Die → Die) : (s.modDie d f).badLines = s.badLines := rfl
@[simp] theorem modDie_badChip (s : State) (d : Nat) (f : Die → Die) : (s.modDie d f).badChip = s.badChip := rfl
@[simp] theorem modDie_shrinks (s : State) (d : Nat) (f : Die → Die) : (s.modDie d f).shrinks = s.shrinks := rfl
@[simp] theorem modDie_laneSets (s : State) (d : Nat) (f : Die → Die) : (s.modDie d f).laneSets = s.laneSets := rfl
@[simp] theorem modDie_flashIdent (s : State) (d : Nat) (f : Die → Die) : (s.modDie d f).flashIdent = s.flashIdent := rfl
@[simp] theorem modDie_certs (s : State) (d : Nat) (f : Die → Die) : (s.modDie d f).certs = s.certs := rfl
@[simp] theorem modDie_buffers (s : State) (d : Nat) (f : Die → Die) : (s.modDie d f).buffers = s.buffers := rfl
@[simp] theorem modDie_outcomes (s : State) (d : Nat) (f : Die → Die) : (s.modDie d f).outcomes = s.outcomes := rfl
@[simp] theorem modDie_order (s : State) (d : Nat) (f : Die → Die) : (s.modDie d f).order = s.order := rfl
@[simp] theorem modDie_outbox (s : State) (d : Nat) (f : Die → Die) : (s.modDie d f).outbox = s.outbox := rfl

/-! ### `State.sysTrap` -/

@[simp] theorem sysTrap_agenda (s : State) (x : TrapInfo) : (s.sysTrap x).agenda = s.agenda := rfl
@[simp] theorem sysTrap_slots (s : State) (x : TrapInfo) : (s.sysTrap x).slots = s.slots := rfl
@[simp] theorem sysTrap_fresh (s : State) (x : TrapInfo) : (s.sysTrap x).fresh = s.fresh := rfl
@[simp] theorem sysTrap_serial (s : State) (x : TrapInfo) : (s.sysTrap x).serial = s.serial := rfl
@[simp] theorem sysTrap_cur (s : State) (x : TrapInfo) : (s.sysTrap x).cur = s.cur := rfl
@[simp] theorem sysTrap_im (s : State) (x : TrapInfo) : (s.sysTrap x).im = s.im := rfl
@[simp] theorem sysTrap_stalled (s : State) (x : TrapInfo) : (s.sysTrap x).stalled = s.stalled := rfl
@[simp] theorem sysTrap_blocks (s : State) (x : TrapInfo) : (s.sysTrap x).blocks = s.blocks := rfl
@[simp] theorem sysTrap_dies (s : State) (x : TrapInfo) : (s.sysTrap x).dies = s.dies := rfl
@[simp] theorem sysTrap_far (s : State) (x : TrapInfo) : (s.sysTrap x).far = s.far := rfl
@[simp] theorem sysTrap_hostView (s : State) (x : TrapInfo) : (s.sysTrap x).hostView = s.hostView := rfl
@[simp] theorem sysTrap_hostStores (s : State) (x : TrapInfo) : (s.sysTrap x).hostStores = s.hostStores := rfl
@[simp] theorem sysTrap_farQ (s : State) (x : TrapInfo) : (s.sysTrap x).farQ = s.farQ := rfl
@[simp] theorem sysTrap_hostQ (s : State) (x : TrapInfo) : (s.sysTrap x).hostQ = s.hostQ := rfl
@[simp] theorem sysTrap_hostSeen (s : State) (x : TrapInfo) : (s.sysTrap x).hostSeen = s.hostSeen := rfl
@[simp] theorem sysTrap_copies (s : State) (x : TrapInfo) : (s.sysTrap x).copies = s.copies := rfl
@[simp] theorem sysTrap_chks (s : State) (x : TrapInfo) : (s.sysTrap x).chks = s.chks := rfl
@[simp] theorem sysTrap_loft (s : State) (x : TrapInfo) : (s.sysTrap x).loft = s.loft := rfl
@[simp] theorem sysTrap_engines (s : State) (x : TrapInfo) : (s.sysTrap x).engines = s.engines := rfl
@[simp] theorem sysTrap_session (s : State) (x : TrapInfo) : (s.sysTrap x).session = s.session := rfl
@[simp] theorem sysTrap_grids (s : State) (x : TrapInfo) : (s.sysTrap x).grids = s.grids := rfl
@[simp] theorem sysTrap_inbound (s : State) (x : TrapInfo) : (s.sysTrap x).inbound = s.inbound := rfl
@[simp] theorem sysTrap_calls (s : State) (x : TrapInfo) : (s.sysTrap x).calls = s.calls := rfl
@[simp] theorem sysTrap_rpcs (s : State) (x : TrapInfo) : (s.sysTrap x).rpcs = s.rpcs := rfl
@[simp] theorem sysTrap_tlb (s : State) (x : TrapInfo) : (s.sysTrap x).tlb = s.tlb := rfl
@[simp] theorem sysTrap_moves (s : State) (x : TrapInfo) : (s.sysTrap x).moves = s.moves := rfl
@[simp] theorem sysTrap_shoots (s : State) (x : TrapInfo) : (s.sysTrap x).shoots = s.shoots := rfl
@[simp] theorem sysTrap_deadPlanes (s : State) (x : TrapInfo) : (s.sysTrap x).deadPlanes = s.deadPlanes := rfl
@[simp] theorem sysTrap_issue (s : State) (x : TrapInfo) : (s.sysTrap x).issue = s.issue := rfl
@[simp] theorem sysTrap_admCount (s : State) (x : TrapInfo) : (s.sysTrap x).admCount = s.admCount := rfl
@[simp] theorem sysTrap_trained (s : State) (x : TrapInfo) : (s.sysTrap x).trained = s.trained := rfl
@[simp] theorem sysTrap_failedCores (s : State) (x : TrapInfo) : (s.sysTrap x).failedCores = s.failedCores := rfl
@[simp] theorem sysTrap_images (s : State) (x : TrapInfo) : (s.sysTrap x).images = s.images := rfl
@[simp] theorem sysTrap_fusedRollback (s : State) (x : TrapInfo) : (s.sysTrap x).fusedRollback = s.fusedRollback := rfl
@[simp] theorem sysTrap_measureLog (s : State) (x : TrapInfo) : (s.sysTrap x).measureLog = s.measureLog := rfl
@[simp] theorem sysTrap_badLines (s : State) (x : TrapInfo) : (s.sysTrap x).badLines = s.badLines := rfl
@[simp] theorem sysTrap_badChip (s : State) (x : TrapInfo) : (s.sysTrap x).badChip = s.badChip := rfl
@[simp] theorem sysTrap_shrinks (s : State) (x : TrapInfo) : (s.sysTrap x).shrinks = s.shrinks := rfl
@[simp] theorem sysTrap_laneSets (s : State) (x : TrapInfo) : (s.sysTrap x).laneSets = s.laneSets := rfl
@[simp] theorem sysTrap_flashIdent (s : State) (x : TrapInfo) : (s.sysTrap x).flashIdent = s.flashIdent := rfl
@[simp] theorem sysTrap_certs (s : State) (x : TrapInfo) : (s.sysTrap x).certs = s.certs := rfl
@[simp] theorem sysTrap_buffers (s : State) (x : TrapInfo) : (s.sysTrap x).buffers = s.buffers := rfl
@[simp] theorem sysTrap_outcomes (s : State) (x : TrapInfo) : (s.sysTrap x).outcomes = s.outcomes := rfl
@[simp] theorem sysTrap_order (s : State) (x : TrapInfo) : (s.sysTrap x).order = s.order := rfl
@[simp] theorem sysTrap_outbox (s : State) (x : TrapInfo) : (s.sysTrap x).outbox = s.outbox := rfl
@[simp] theorem sysTrap_w_wid (s : State) (x : TrapInfo) : (s.sysTrap x).w.wid = s.w.wid := rfl
@[simp] theorem sysTrap_w_role (s : State) (x : TrapInfo) : (s.sysTrap x).w.role = s.w.role := rfl
@[simp] theorem sysTrap_w_budget (s : State) (x : TrapInfo) : (s.sysTrap x).w.budget = s.w.budget := rfl
@[simp] theorem sysTrap_w_s (s : State) (x : TrapInfo) : (s.sysTrap x).w.s = s.w.s := rfl
@[simp] theorem sysTrap_w_view (s : State) (x : TrapInfo) : (s.sysTrap x).w.view = s.w.view := rfl
@[simp] theorem sysTrap_w_second (s : State) (x : TrapInfo) : (s.sysTrap x).w.second = s.w.second := rfl
@[simp] theorem sysTrap_w_flags (s : State) (x : TrapInfo) : (s.sysTrap x).w.flags = s.w.flags := rfl
@[simp] theorem sysTrap_w_queue (s : State) (x : TrapInfo) : (s.sysTrap x).w.queue = s.w.queue := rfl
@[simp] theorem sysTrap_w_gloads (s : State) (x : TrapInfo) : (s.sysTrap x).w.gloads = s.w.gloads := rfl
@[simp] theorem sysTrap_w_locks (s : State) (x : TrapInfo) : (s.sysTrap x).w.locks = s.w.locks := rfl
@[simp] theorem sysTrap_w_pend (s : State) (x : TrapInfo) : (s.sysTrap x).w.pend = s.w.pend := rfl
@[simp] theorem sysTrap_w_windows (s : State) (x : TrapInfo) : (s.sysTrap x).w.windows = s.w.windows := rfl
@[simp] theorem sysTrap_w_upper (s : State) (x : TrapInfo) : (s.sysTrap x).w.upper = s.w.upper := rfl
@[simp] theorem sysTrap_w_part (s : State) (x : TrapInfo) : (s.sysTrap x).w.part = s.w.part := rfl
@[simp] theorem sysTrap_w_half (s : State) (x : TrapInfo) : (s.sysTrap x).w.half = s.w.half := rfl
@[simp] theorem sysTrap_w_slot (s : State) (x : TrapInfo) : (s.sysTrap x).w.slot = s.w.slot := rfl
@[simp] theorem sysTrap_w_age (s : State) (x : TrapInfo) : (s.sysTrap x).w.age = s.w.age := rfl
@[simp] theorem sysTrap_w_parked (s : State) (x : TrapInfo) : (s.sysTrap x).w.parked = s.w.parked := rfl
@[simp] theorem sysTrap_w_divPend (s : State) (x : TrapInfo) : (s.sysTrap x).w.divPend = s.w.divPend := rfl
@[simp] theorem sysTrap_w_boost (s : State) (x : TrapInfo) : (s.sysTrap x).w.boost = s.w.boost := rfl
@[simp] theorem sysTrap_w_defer (s : State) (x : TrapInfo) : (s.sysTrap x).w.defer = s.w.defer := rfl
/-! ### What each update writes -/

@[simp] theorem mapLanes_w_lanes (s : State) (f : Lane → Lane) : (s.mapLanes f).w.lanes = s.w.lanes.map f := rfl
@[simp] theorem mapIm_w_lanes (s : State) (f : Lane → Lane) :
    (s.mapIm f).w.lanes = s.w.lanes.map fun l => if s.issues l then f l else l := rfl
@[simp] theorem advance_w_lanes (s : State) :
    s.advance.w.lanes = s.w.lanes.map fun l => if s.issues l then l.next else l := rfl
@[simp] theorem sput_w_s (s : State) (n : Nat) (x : Word) : (s.sput n x).w.s = smSet s.w.s n x := rfl
@[simp] theorem bump_fresh (s : State) : s.bump.fresh = s.fresh + 1 := rfl
@[simp] theorem farPut_far (s : State) (l : Nat) (bs : List Byte) : (s.farPut l bs).far = s.farStore s.far l bs := rfl
@[simp] theorem modDie_dies (s : State) (d : Nat) (f : Die → Die) : (s.modDie d f).dies = listMod s.dies d f := rfl
@[simp] theorem sysTrap_w_lanes (s : State) (x : TrapInfo) :
    (s.sysTrap x).w.lanes = s.w.lanes.map fun l => if s.issues l then l.rewind else l := rfl

@[simp] theorem mapLanes_issues (s : State) (f : Lane → Lane) (l : Lane) : (s.mapLanes f).issues l = s.issues l := rfl
@[simp] theorem farPut_home (s : State) (l a : Nat) (bs : List Byte) : (s.farPut l bs).home a = s.home a := rfl

/-- A uniform register after a write of one, where slot B has no view of its own. -/
theorem sraw_sput (s : State) (n k : Nat) (x : Word) :
    (s.sput n x).w.sraw k = if k = n then x else s.w.sraw k := by
  simp only [Warp.sraw, sput_w_s, smGet_smSet]; split <;> rfl

/-- A die after a change of one. -/
theorem die_modDie (s : State) (d e : Nat) (f : Die → Die) (h : d < s.dies.length) :
    (s.modDie d f).die e = if d = e then f (s.die e) else s.die e := by
  simp only [State.die, modDie_dies, List.getD_eq_getElem?_getD, listMod_get]
  split
  · rename_i he; subst he; rw [List.getElem?_eq_getElem h]; rfl
  · rfl

/-- Bytes written at other homes leave a byte as it was. -/
theorem memByte_farStore_out (s : State) (a : Nat) : ∀ (bs : List Byte) (m : Mem) (l : Nat),
    (∀ i < bs.length, s.home (l + i) ≠ a) → memByte (s.farStore m l bs) farTag a = memByte m farTag a
  | [], _, _, _ => rfl
  | b :: r, m, l, h => by
    rw [State.farStore, memByte_farStore_out s a r _ _ fun i hi => by
      have := h (i + 1) (by simp only [List.length_cons]; omega)
      rwa [show l + 1 + i = l + (i + 1) by omega]]
    rw [memByte_smSet, if_neg]
    exact fun e => h 0 (by simp) e.symm

/-- A far byte after a write. -/
theorem farByte_farPut (s : State) (l a : Nat) (bs : List Byte) (h : ∀ i < bs.length, s.home (l + i) ≠ s.home a) :
    (s.farPut l bs).farByte a = s.farByte a :=
  memByte_farStore_out s (s.home a) bs s.far l h

/-- A far byte just written, where no later byte of the write has its home. -/
theorem farByte_farPut_in (s : State) (a : Nat) : ∀ (bs : List Byte) (l i : Nat) (hi : i < bs.length),
    s.home a = s.home (l + i) → (∀ j < bs.length, i < j → s.home (l + j) ≠ s.home a) →
    ∀ m : Mem, memByte (s.farStore m l bs) farTag (s.home a) = bs[i]
  | b :: r, l, 0, _, e, hl, m => by
    rw [State.farStore, memByte_farStore_out s (s.home a) r _ _ fun j hj => by
      have := hl (j + 1) (by simp only [List.length_cons]; omega) (by omega)
      rwa [show l + 1 + j = l + (j + 1) by omega]]
    rw [memByte_smSet, if_pos (by rw [e]; simp)]; rfl
  | b :: r, l, i + 1, hi, e, hl, m => by
    rw [State.farStore]
    exact farByte_farPut_in s a r (l + 1) i (by simpa using hi) (by rw [e]; congr 1; omega)
      (fun j hj hij => by
        have := hl (j + 1) (by simp only [List.length_cons]; omega) (by omega)
        rwa [show l + 1 + j = l + (j + 1) by omega]) _

/-! ### `State.poke` -/

theorem poke_frame (s : State) (sp : Space) (a : Nat) (bs : List Byte) :
    (s.poke sp a bs).agenda = s.agenda ∧ (s.poke sp a bs).far = s.far ∧ (s.poke sp a bs).hostView = s.hostView ∧
    (s.poke sp a bs).farQ = s.farQ ∧ (s.poke sp a bs).grids = s.grids ∧ (s.poke sp a bs).blocks = s.blocks ∧
    (s.poke sp a bs).cur = s.cur ∧ (s.poke sp a bs).im = s.im ∧ (s.poke sp a bs).w.s = s.w.s ∧
    (s.poke sp a bs).w.flags = s.w.flags ∧ (s.poke sp a bs).w.queue = s.w.queue := by
  cases sp <;> exact ⟨rfl, rfl, rfl, rfl, rfl, rfl, rfl, rfl, rfl, rfl, rfl⟩

/-- A store to shared memory: every other byte of it as before. -/
theorem rawByte_poke_shared (s : State) (a k : Nat) (bs : List Byte) (h : k < a ∨ a + bs.length ≤ k) :
    (s.poke .shared a bs).rawByte .shared k = s.rawByte .shared k :=
  memByte_memWrite_out bs s.blk.shared (sharedTag s.blk.key) a k h

/-- A store to shared memory: the bytes stored. -/
theorem rawByte_poke_shared_in (s : State) (a i : Nat) (bs : List Byte) (h : i < bs.length) :
    (s.poke .shared a bs).rawByte .shared (a + i) = bs[i] :=
  memByte_memWrite_in bs s.blk.shared (sharedTag s.blk.key) a i h

/-- A store to a Granary: every other byte of it as before. -/
theorem rawByte_poke_granary (s : State) (d a k : Nat) (bs : List Byte) (hd : d < s.dies.length)
    (h : k < a ∨ a + bs.length ≤ k) : (s.poke (.granary d) a bs).rawByte (.granary d) k = s.rawByte (.granary d) k := by
  simp only [State.poke, State.rawByte, die_modDie s d d _ hd, if_true]
  exact memByte_memWrite_out bs _ d a k h

end Sys2Proof.Machine
end

