-- ==== Sys2Proof/Laws/Memory.lean ====
section
/-! SUPPORT. The canonical form of the memories: reset has it, and every operation that writes memory keeps it. -/

namespace Sys2Proof.Machine

theorem smDel_sub {α : Type} (m : SMap α) (k : Nat) : ∀ e ∈ smDel m k, e ∈ m := by
  induction m with
  | nil => simp [smDel]
  | cons e r ih =>
    obtain ⟨j, x⟩ := e
    simp only [smDel]
    split
    · exact fun e he => List.mem_cons_of_mem _ he
    · intro e he
      rcases List.mem_cons.mp he with rfl | he
      · exact List.mem_cons_self ..
      · exact List.mem_cons_of_mem _ (ih e he)

theorem smWf_smDel {α : Type} (m : SMap α) (k : Nat) (h : smWf m = true) : smWf (smDel m k) = true := by
  induction m with
  | nil => rfl
  | cons e r ih =>
    obtain ⟨j, x⟩ := e
    have h' := (smWf_cons j x r).mp h
    simp only [smDel]
    split
    · exact h'.2
    · exact (smWf_cons ..).mpr ⟨fun e he => h'.1 e (smDel_sub r k e he), ih h'.2⟩

theorem smWf_smMod {α : Type} (m : SMap α) (k : Nat) (f : α → α) (h : smWf m = true) : smWf (smMod m k f) = true := by
  unfold smMod
  split
  · exact smWf_smSet _ _ _ h
  · exact h

theorem smGet_smDel {α : Type} (m : SMap α) (k n : Nat) (h : smWf m = true) :
    smGet (smDel m k) n = if n = k then none else smGet m n := by
  induction m with
  | nil => simp [smDel]
  | cons e r ih =>
    obtain ⟨j, x⟩ := e
    have h' := (smWf_cons j x r).mp h
    simp only [smDel]
    split
    · rename_i hj
      subst hj
      split
      · rename_i hn
        subst hn
        have : ∀ q : SMap α, (∀ e ∈ q, n < e.1) → smGet q n = none := by
          intro q
          induction q with
          | nil => intro _; rfl
          | cons e q ihq =>
            intro hq
            have h0 := hq e (List.mem_cons_self ..)
            rw [smGet, if_neg (by omega)]
            exact ihq fun e he => hq e (List.mem_cons_of_mem _ he)
        exact this r h'.1
      · rename_i hn; rw [smGet, if_neg (fun e => hn e.symm)]
    · rename_i hj
      rw [smGet, smGet, ih h'.2]
      split
      · rename_i e; subst e; rw [if_neg hj]
      · rfl

theorem smGet_smMod {α : Type} (m : SMap α) (k n : Nat) (f : α → α) :
    smGet (smMod m k f) n = if n = k then (smGet m n).map f else smGet m n := by
  unfold smMod
  split
  · rename_i x hx
    rw [smGet_smSet]
    split
    · rename_i e; subst e; rw [hx]; rfl
    · rfl
  · rename_i hx
    split
    · rename_i e; subst e; rw [hx]; rfl
    · rfl

/-! ### Each operation that writes a memory -/

theorem wf_moveBytes (m : Mem) (src dst n : Nat) (h : Memory.wf m = true) : Memory.wf (moveBytes m src dst n) = true := by
  unfold moveBytes
  exact smWf_foldl_smSet (fun e : Nat × Byte => dst + (e.1 - src)) (·.2) _ _ (smWf_smCut m dst n h)

theorem wf_farStore (s : State) : ∀ (bs : List Byte) (m : Mem) (l : Nat), Memory.wf m = true →
    Memory.wf (s.farStore m l bs) = true
  | [], _, _, h => h
  | b :: r, m, l, h => wf_farStore s r _ _ (smWf_smSet m (s.home l) b h)

theorem wf_farPut (s : State) (l : Nat) (bs : List Byte) (h : Memory.wf s.far = true) : Memory.wf (s.farPut l bs).far = true :=
  wf_farStore s bs s.far l h

theorem wf_listMod {α : Type} {p : α → Prop} (xs : List α) (i : Nat) (f : α → α) (hx : ∀ x ∈ xs, p x)
    (hf : ∀ x, p x → p (f x)) : ∀ y ∈ listMod xs i f, p y := by
  intro y hy
  rcases listMod_mem xs i f y hy with h | ⟨x, h, rfl⟩
  · exact hx y h
  · exact hf x (hx x h)

/-- A store of the focused warp keeps every memory's form. -/
theorem wf_poke (s : State) (sp : Space) (a : Nat) (bs : List Byte) (hs : Memory.wf s.blk.shared = true)
    (hg : ∀ d ∈ s.dies, Memory.wf d.granary = true) (hl : ∀ l ∈ s.w.lanes, Memory.wf l.spill = true) :
    Memory.wf (s.poke sp a bs).blk.shared = true ∧ (∀ d ∈ (s.poke sp a bs).dies, Memory.wf d.granary = true) ∧
    ∀ l ∈ (s.poke sp a bs).w.lanes, Memory.wf l.spill = true := by
  cases sp with
  | shared => exact ⟨smWf_memWrite bs _ a hs, hg, hl⟩
  | granary d => exact ⟨hs, wf_listMod _ _ _ hg fun x hx => smWf_memWrite bs _ a hx, hl⟩
  | spill l => exact ⟨hs, hg, wf_listMod _ _ _ hl fun x hx => smWf_memWrite bs _ a hx⟩

/-- The memories after reset. -/
theorem wf_reset : Memory.wf State.reset.far = true ∧ Memory.wf State.reset.hostView = true ∧
    ∀ d ∈ State.reset.dies, Memory.wf d.granary = true := by
  refine ⟨rfl, rfl, fun d hd => ?_⟩
  rw [show State.reset.dies = List.replicate 4 Die.reset from rfl] at hd
  rw [List.eq_of_mem_replicate hd]; rfl

end Sys2Proof.Machine
end

