-- ==== Sys2Proof/Laws/Orders.lean ====
section
/-! SUPPORT. The record of orders is kept apart: what notes an order changes the record of orders and nothing else (R26). -/

namespace Sys2Proof.Machine

theorem State.touch_only (s : State) (whos : List Nat) (a : Nat) : ∃ o, s.touch whos a = { s with order := o } := ⟨_, rfl⟩

theorem State.behindAt_only (s : State) (g va : Nat) : ∃ o, s.behindAt g va = { s with order := o } := ⟨_, rfl⟩

theorem State.hearHurdle_only (s : State) (whos : List Nat) (a : Nat) : ∃ o, s.hearHurdle whos a = { s with order := o } := ⟨_, rfl⟩

theorem State.passHurdle_only (s : State) (whos : List Nat) (a : Nat) : ∃ o, s.passHurdle whos a = { s with order := o } := ⟨_, rfl⟩

theorem State.handOn_only (s : State) (whos : List Nat) (a : Nat) : ∃ o, s.handOn whos a = { s with order := o } := ⟨_, rfl⟩

theorem State.hearStamp_only (s : State) (from' : List Nat) (xs : List (Nat × List Nat)) :
    ∃ o, s.hearStamp from' xs = { s with order := o } := ⟨_, rfl⟩

theorem State.heardAt_only (s : State) (lane a n : Nat) (from' into : List Nat) :
    ∃ o, s.heardAt lane a n from' into = { s with order := o } := ⟨_, rfl⟩

theorem State.heard_only (s : State) (sp n va : Nat) (into : List Nat) (xs : List (Nat × Nat)) :
    ∃ o, s.heard sp n va into xs = { s with order := o } := by
  unfold State.heard
  split
  · suffices h : ∀ (xs : List (Nat × Nat)) (t : State), ∃ o,
        xs.foldl (fun t x => t.heardAt x.1 x.2 n [va] into) t = { t with order := o } from h xs s
    intro xs
    induction xs with
    | nil => exact fun t => ⟨t.order, rfl⟩
    | cons x r ih =>
      intro t
      obtain ⟨o, ho⟩ := State.heardAt_only t x.1 x.2 n [va] into
      obtain ⟨o', ho'⟩ := ih (t.heardAt x.1 x.2 n [va] into)
      exact ⟨o', by rw [List.foldl_cons, ho', ho]⟩
  · exact ⟨s.order, rfl⟩

/-- Noting the order of a performed line access changes the record, and what the operations of R292 and the line accesses that
wait for it have learnt; of what an acquire answers, queued stores and engine operations take it over too. -/
theorem State.noteOrder_plain (s : State) (x : FarAcc) (h : x.kind ≠ 1) :
    ∃ o k q, s.noteOrder x = { s with order := o, chks := k, farQ := q } := by
  simp only [State.noteOrder, h, if_false]
  exact ⟨_, _, _, rfl⟩

/-- A hurdle that has not been left undefined is as it was. -/
theorem State.contend_met (s : State) (whos : List Nat) (a : Nat) (h : s.order.unmet (s.unitKey a) whos = false) :
    s.contend whos a = s := by
  simp [State.contend, h]

end Sys2Proof.Machine
end

