-- ==== Sys2Proof/Laws/PerInstr.lean ====
section
/-! SUPPORT. Per instruction, about its word: the encoding of a well-formed instruction fits the 32 bits of a word (R214);
an event has no word at all. -/

namespace Sys2Proof.Laws.Word

open WellFormed

/-- The word of a well-formed instruction is below 2^32. -/
def Statement (i : Instr) : Prop := i.wf = true → ∀ w, encode i = some w → w < 2 ^ 32

/-- An instruction without a word. -/
theorem of_none {i : Instr} (h : encode i = none) : Statement i := fun _ w he => by rw [h] at he; cases he

theorem clauseHeader (w a b l y r : Nat) : Statement (.clauseHeader w a b l y r) := fun h word he => by
  have hb : (fits 12 w && setField a && setField b && (decide (a ≠ b) || decide (a = 15)) && fits 4 l && fits 1 y && fits 1 r) = true := h
  have he' : pack 0xF0000000 [(w, 16), (a, 12), (b, 8), (l, 4), (y, 3), (r, 2)] = word := Option.some.inj he
  simp [setField] at hb
  simp [pack] at he'
  omega

theorem bra (o g : Nat) : Statement (.bra o g) := fun h word he => by
  have hb : (fits 21 o && fits 4 g) = true := h
  have he' : pack 0x02000000 [(o, 4), (g, 0)] = word := Option.some.inj he
  simp at hb
  simp [pack] at he'
  omega

theorem bru (o g : Nat) : Statement (.bru o g) := fun h word he => by
  have hb : (fits 21 o && fits 4 g) = true := h
  have he' : pack 0x04000000 [(o, 4), (g, 0)] = word := Option.some.inj he
  simp at hb
  simp [pack] at he'
  omega

theorem call (o g : Nat) : Statement (.call o g) := fun h word he => by
  have hb : (fits 21 o && fits 4 g) = true := h
  have he' : pack 0x06000000 [(o, 4), (g, 0)] = word := Option.some.inj he
  simp at hb
  simp [pack] at he'
  omega

theorem loopn (s o g : Nat) : Statement (.loopn s o g) := fun h word he => by
  have hb : (fits 8 s && fits 13 o && fits 4 g) = true := h
  have he' : pack 0x08000000 [(s, 17), (o, 4), (g, 0)] = word := Option.some.inj he
  simp at hb
  simp [pack] at he'
  omega

theorem reform (a o g : Nat) : Statement (.reform a o g) := fun h word he => by
  have hb : (fits 7 a && fits 14 o && fits 4 g) = true := h
  have he' : pack 0x0A000000 [(a, 18), (o, 4), (g, 0)] = word := Option.some.inj he
  simp at hb
  simp [pack] at he'
  omega

theorem callo (s e : Nat) : Statement (.callo s e) := fun h word he => by
  have hb : (fits 8 s && fits 16 e) = true := h
  have he' : pack 0x0C000000 [(s, 17), (e, 1)] = word := Option.some.inj he
  simp at hb
  simp [pack] at he'
  omega

theorem waitf (m g : Nat) : Statement (.waitf m g) := fun h word he => by
  have hb : (fits 12 m && decide (m ≠ 0) && fits 4 g) = true := h
  have he' : pack 0x0E000000 [(m, 13), (g, 0)] = word := Option.some.inj he
  simp at hb
  simp [pack] at he'
  omega

theorem waitl (m g : Nat) : Statement (.waitl m g) := fun h word he => by
  have hb : (fits 12 m && decide (m ≠ 0) && fits 4 g) = true := h
  have he' : pack 0x0E000010 [(m, 13), (g, 0)] = word := Option.some.inj he
  simp at hb
  simp [pack] at he'
  omega

theorem ret (g : Nat) : Statement (.ret g) := fun h word he => by
  have hb : (fits 4 g) = true := h
  have he' : pack 0x10000000 [(g, 0)] = word := Option.some.inj he
  simp at hb
  simp [pack] at he'
  omega

theorem exit (g : Nat) : Statement (.exit g) := fun h word he => by
  have hb : (fits 4 g) = true := h
  have he' : pack 0x10002000 [(g, 0)] = word := Option.some.inj he
  simp at hb
  simp [pack] at he'
  omega

theorem join (g : Nat) : Statement (.join g) := fun h word he => by
  have hb : (fits 4 g) = true := h
  have he' : pack 0x10004000 [(g, 0)] = word := Option.some.inj he
  simp at hb
  simp [pack] at he'
  omega

theorem launch (s g : Nat) : Statement (.launch s g) := fun h word he => by
  have hb : (fits 8 s && aligned 2 s && fits 4 g) = true := h
  have he' : pack 0x10006000 [(s, 17), (g, 0)] = word := Option.some.inj he
  simp at hb
  simp [pack] at he'
  omega

theorem sadd (d a b x : Nat) : Statement (.sadd d a b x) := fun h word he => by
  have hb : (sr d a b x) = true := h
  have he' : pack 0x12000000 [(d, 17), (a, 9), (b, 1), (x, 0)] = word := Option.some.inj he
  simp at hb
  simp [pack] at he'
  omega

theorem ssub (d a b x : Nat) : Statement (.ssub d a b x) := fun h word he => by
  have hb : (sr d a b x) = true := h
  have he' : pack 0x14000000 [(d, 17), (a, 9), (b, 1), (x, 0)] = word := Option.some.inj he
  simp at hb
  simp [pack] at he'
  omega

theorem sand (d a b x : Nat) : Statement (.sand d a b x) := fun h word he => by
  have hb : (sr d a b x) = true := h
  have he' : pack 0x16000000 [(d, 17), (a, 9), (b, 1), (x, 0)] = word := Option.some.inj he
  simp at hb
  simp [pack] at he'
  omega

theorem sor (d a b x : Nat) : Statement (.sor d a b x) := fun h word he => by
  have hb : (sr d a b x) = true := h
  have he' : pack 0x18000000 [(d, 17), (a, 9), (b, 1), (x, 0)] = word := Option.some.inj he
  simp at hb
  simp [pack] at he'
  omega

theorem sxor (d a b x : Nat) : Statement (.sxor d a b x) := fun h word he => by
  have hb : (sr d a b x) = true := h
  have he' : pack 0x1A000000 [(d, 17), (a, 9), (b, 1), (x, 0)] = word := Option.some.inj he
  simp at hb
  simp [pack] at he'
  omega

theorem scmp (a b u c k : Nat) : Statement (.scmp a b u c k) := fun h word he => by
  have hb : (fits 8 a && fits 8 b && fits 1 u && decide (c < 6) && fits 4 k) = true := h
  have he' : pack 0x1C000000 [(a, 17), (b, 9), (u, 8), (c, 5), (k, 0)] = word := Option.some.inj he
  simp at hb
  simp [pack] at he'
  omega

theorem smov (d a : Nat) : Statement (.smov d a) := fun h word he => by
  have hb : (fits 8 d && fits 8 a) = true := h
  have he' : pack 0x1E000000 [(d, 17), (a, 9)] = word := Option.some.inj he
  simp at hb
  simp [pack] at he'
  omega

theorem smovi (d a : Nat) : Statement (.smovi d a) := fun h word he => by
  have hb : (fits 8 d && fits 8 a) = true := h
  have he' : pack 0x1E000003 [(d, 17), (a, 9)] = word := Option.some.inj he
  simp at hb
  simp [pack] at he'
  omega

theorem smul (d a x : Nat) : Statement (.smul d a x) := fun h word he => by
  have hb : (sf d a x) = true := h
  have he' : pack 0x1E000004 [(d, 17), (a, 9), (x, 0)] = word := Option.some.inj he
  simp at hb
  simp [pack] at he'
  omega

theorem sshl (d a x : Nat) : Statement (.sshl d a x) := fun h word he => by
  have hb : (sf d a x) = true := h
  have he' : pack 0x1E000006 [(d, 17), (a, 9), (x, 0)] = word := Option.some.inj he
  simp at hb
  simp [pack] at he'
  omega

theorem sshr (d a x : Nat) : Statement (.sshr d a x) := fun h word he => by
  have hb : (sf d a x) = true := h
  have he' : pack 0x1E000008 [(d, 17), (a, 9), (x, 0)] = word := Option.some.inj he
  simp at hb
  simp [pack] at he'
  omega

theorem sshrI32 (d a x : Nat) : Statement (.sshrI32 d a x) := fun h word he => by
  have hb : (sf d a x) = true := h
  have he' : pack 0x1E00000A [(d, 17), (a, 9), (x, 0)] = word := Option.some.inj he
  simp at hb
  simp [pack] at he'
  omega

theorem movs (d c : Nat) : Statement (.movs d c) := fun h word he => by
  have hb : (fits 8 d && specialCode c && decide (2 ≤ c) && (decide (c ≠ 0x0C) || aligned 2 d)) = true := h
  have he' : pack 0x1E00000C [(d, 17), (c, 9)] = word := Option.some.inj he
  simp [specialCode] at hb
  simp [pack] at he'
  omega

theorem wrs (c a : Nat) : Statement (.wrs c a) := fun h word he => by
  have hb : (decide (0x20 ≤ c) && decide (c ≤ 0x2F) && fits 8 a) = true := h
  have he' : pack 0x1E00000E [(c, 17), (a, 9)] = word := Option.some.inj he
  simp at hb
  simp [pack] at he'
  omega

theorem rdlane (d v l : Nat) : Statement (.rdlane d v l) := fun h word he => by
  have hb : (fits 8 d && fits 7 v && fits 6 l) = true := h
  have he' : pack 0x1E000080 [(d, 17), (v, 9), (l, 1)] = word := Option.some.inj he
  simp at hb
  simp [pack] at he'
  omega

theorem setpI32 (d e a b c : Nat) : Statement (.setpI32 d e a b c) := fun h word he => by
  have hb : (fits 4 d && fits 4 e && (decide (d ≠ e) || decide (e = 0)) && fits 7 a && fits 7 b && decide (c < 6)) = true := h
  have he' : pack 0x20000000 [(d, 21), (e, 17), (a, 10), (b, 3), (c, 0)] = word := Option.some.inj he
  simp at hb
  simp [pack] at he'
  omega

theorem setpN32 (d e a b c : Nat) : Statement (.setpN32 d e a b c) := fun h word he => by
  have hb : (fits 4 d && fits 4 e && (decide (d ≠ e) || decide (e = 0)) && fits 7 a && fits 7 b && decide (c < 6)) = true := h
  have he' : pack 0x22000000 [(d, 21), (e, 17), (a, 10), (b, 3), (c, 0)] = word := Option.some.inj he
  simp at hb
  simp [pack] at he'
  omega

theorem setpF32 (d e a b c : Nat) : Statement (.setpF32 d e a b c) := fun h word he => by
  have hb : (fits 4 d && fits 4 e && (decide (d ≠ e) || decide (e = 0)) && fits 7 a && fits 7 b && decide (c < 6)) = true := h
  have he' : pack 0x24000000 [(d, 21), (e, 17), (a, 10), (b, 3), (c, 0)] = word := Option.some.inj he
  simp at hb
  simp [pack] at he'
  omega

theorem pand (d a b m n g : Nat) : Statement (.pand d a b m n g) := fun h word he => by
  have hb : (fits 4 d && fits 4 a && fits 4 b && fits 1 m && fits 1 n && fits 4 g) = true := h
  have he' : pack 0x26000000 [(d, 21), (a, 17), (b, 13), (m, 12), (n, 11), (g, 0)] = word := Option.some.inj he
  simp at hb
  simp [pack] at he'
  omega

theorem por (d a b m n g : Nat) : Statement (.por d a b m n g) := fun h word he => by
  have hb : (fits 4 d && fits 4 a && fits 4 b && fits 1 m && fits 1 n && fits 4 g) = true := h
  have he' : pack 0x26000100 [(d, 21), (a, 17), (b, 13), (m, 12), (n, 11), (g, 0)] = word := Option.some.inj he
  simp at hb
  simp [pack] at he'
  omega

theorem pxor (d a b m n g : Nat) : Statement (.pxor d a b m n g) := fun h word he => by
  have hb : (fits 4 d && fits 4 a && fits 4 b && fits 1 m && fits 1 n && fits 4 g) = true := h
  have he' : pack 0x26000200 [(d, 21), (a, 17), (b, 13), (m, 12), (n, 11), (g, 0)] = word := Option.some.inj he
  simp at hb
  simp [pack] at he'
  omega

theorem pnot (d a m g : Nat) : Statement (.pnot d a m g) := fun h word he => by
  have hb : (fits 4 d && fits 4 a && fits 1 m && fits 4 g) = true := h
  have he' : pack 0x26000300 [(d, 21), (a, 17), (m, 12), (g, 0)] = word := Option.some.inj he
  simp at hb
  simp [pack] at he'
  omega

theorem pmov (d a m g : Nat) : Statement (.pmov d a m g) := fun h word he => by
  have hb : (fits 4 d && fits 4 a && fits 1 m && fits 4 g) = true := h
  have he' : pack 0x26000400 [(d, 21), (a, 17), (m, 12), (g, 0)] = word := Option.some.inj he
  simp at hb
  simp [pack] at he'
  omega

theorem ppop (d a g : Nat) : Statement (.ppop d a g) := fun h word he => by
  have hb : (fits 8 d && fits 4 a && fits 4 g) = true := h
  have he' : pack 0x28000000 [(d, 17), (a, 13), (g, 0)] = word := Option.some.inj he
  simp at hb
  simp [pack] at he'
  omega

theorem voteAny (a d g : Nat) : Statement (.voteAny a d g) := fun h word he => by
  have hb : (fits 4 a && fits 4 d && fits 4 g) = true := h
  have he' : pack 0x28000040 [(a, 13), (d, 9), (g, 0)] = word := Option.some.inj he
  simp at hb
  simp [pack] at he'
  omega

theorem voteAll (a d g : Nat) : Statement (.voteAll a d g) := fun h word he => by
  have hb : (fits 4 a && fits 4 d && fits 4 g) = true := h
  have he' : pack 0x28000080 [(a, 13), (d, 9), (g, 0)] = word := Option.some.inj he
  simp at hb
  simp [pack] at he'
  omega

theorem voteBallot (d a g : Nat) : Statement (.voteBallot d a g) := fun h word he => by
  have hb : (fits 8 d && fits 4 a && fits 4 g) = true := h
  have he' : pack 0x280000C0 [(d, 17), (a, 13), (g, 0)] = word := Option.some.inj he
  simp at hb
  simp [pack] at he'
  omega

theorem shflIdx (d a b g : Nat) : Statement (.shflIdx d a b g) := fun h word he => by
  have hb : (vr d a b g) = true := h
  have he' : pack 0x2A000000 [(d, 18), (a, 11), (b, 4), (g, 0)] = word := Option.some.inj he
  simp at hb
  simp [pack] at he'
  omega

theorem shflUp (d a f g : Nat) : Statement (.shflUp d a f g) := fun h word he => by
  have hb : (vf d a g && fits 6 f) = true := h
  have he' : pack 0x2C000000 [(d, 18), (a, 11), (f, 4), (g, 0)] = word := Option.some.inj he
  simp at hb
  simp [pack] at he'
  omega

theorem shflDown (d a f g : Nat) : Statement (.shflDown d a f g) := fun h word he => by
  have hb : (vf d a g && fits 6 f) = true := h
  have he' : pack 0x2C000400 [(d, 18), (a, 11), (f, 4), (g, 0)] = word := Option.some.inj he
  simp at hb
  simp [pack] at he'
  omega

theorem shflXor (d a f g : Nat) : Statement (.shflXor d a f g) := fun h word he => by
  have hb : (vf d a g && fits 6 f) = true := h
  have he' : pack 0x2E000000 [(d, 18), (a, 11), (f, 4), (g, 0)] = word := Option.some.inj he
  simp at hb
  simp [pack] at he'
  omega

theorem bcast (d a s g : Nat) : Statement (.bcast d a s g) := fun h word he => by
  have hb : (vr d a s g) = true := h
  have he' : pack 0x30000000 [(d, 18), (a, 11), (s, 4), (g, 0)] = word := Option.some.inj he
  simp at hb
  simp [pack] at he'
  omega

theorem scan (d a e o g : Nat) : Statement (.scan d a e o g) := fun h word he => by
  have hb : (vf d a g && fits 1 e && fits 3 o) = true := h
  have he' : pack 0x32000000 [(d, 18), (a, 11), (e, 10), (o, 7), (g, 0)] = word := Option.some.inj he
  simp at hb
  simp [pack] at he'
  omega

theorem segscanIncl (d a p o g : Nat) : Statement (.segscanIncl d a p o g) := fun h word he => by
  have hb : (vf d a g && fits 4 p && fits 3 o) = true := h
  have he' : pack 0x34000000 [(d, 18), (a, 11), (p, 7), (o, 4), (g, 0)] = word := Option.some.inj he
  simp at hb
  simp [pack] at he'
  omega

theorem segscanExcl (d a p o g : Nat) : Statement (.segscanExcl d a p o g) := fun h word he => by
  have hb : (vf d a g && fits 4 p && fits 3 o) = true := h
  have he' : pack 0x36000000 [(d, 18), (a, 11), (p, 7), (o, 4), (g, 0)] = word := Option.some.inj he
  simp at hb
  simp [pack] at he'
  omega

theorem red (d a o g : Nat) : Statement (.red d a o g) := fun h word he => by
  have hb : (vf d a g && fits 3 o) = true := h
  have he' : pack 0x38000000 [(d, 18), (a, 11), (o, 7), (g, 0)] = word := Option.some.inj he
  simp at hb
  simp [pack] at he'
  omega

theorem glean (d p s g : Nat) : Statement (.glean d p s g) := fun h word he => by
  have hb : (fits 7 d && fits 4 p && fits 8 s && aligned 4 s && fits 4 g) = true := h
  have he' : pack 0x3A000000 [(d, 18), (p, 14), (s, 6), (g, 0)] = word := Option.some.inj he
  simp at hb
  simp [pack] at he'
  omega

theorem iadd (d a b g : Nat) : Statement (.iadd d a b g) := fun h word he => by
  have hb : (vr d a b g) = true := h
  have he' : pack 0x40000000 [(d, 18), (a, 11), (b, 4), (g, 0)] = word := Option.some.inj he
  simp at hb
  simp [pack] at he'
  omega

theorem isub (d a b g : Nat) : Statement (.isub d a b g) := fun h word he => by
  have hb : (vr d a b g) = true := h
  have he' : pack 0x42000000 [(d, 18), (a, 11), (b, 4), (g, 0)] = word := Option.some.inj he
  simp at hb
  simp [pack] at he'
  omega

theorem imul (d a b g : Nat) : Statement (.imul d a b g) := fun h word he => by
  have hb : (vr d a b g) = true := h
  have he' : pack 0x44000000 [(d, 18), (a, 11), (b, 4), (g, 0)] = word := Option.some.inj he
  simp at hb
  simp [pack] at he'
  omega

theorem imad (d a b g : Nat) : Statement (.imad d a b g) := fun h word he => by
  have hb : (vr d a b g) = true := h
  have he' : pack 0x46000000 [(d, 18), (a, 11), (b, 4), (g, 0)] = word := Option.some.inj he
  simp at hb
  simp [pack] at he'
  omega

theorem and (d a b g : Nat) : Statement (.and d a b g) := fun h word he => by
  have hb : (vr d a b g) = true := h
  have he' : pack 0x48000000 [(d, 18), (a, 11), (b, 4), (g, 0)] = word := Option.some.inj he
  simp at hb
  simp [pack] at he'
  omega

theorem or (d a b g : Nat) : Statement (.or d a b g) := fun h word he => by
  have hb : (vr d a b g) = true := h
  have he' : pack 0x4A000000 [(d, 18), (a, 11), (b, 4), (g, 0)] = word := Option.some.inj he
  simp at hb
  simp [pack] at he'
  omega

theorem xor (d a b g : Nat) : Statement (.xor d a b g) := fun h word he => by
  have hb : (vr d a b g) = true := h
  have he' : pack 0x4C000000 [(d, 18), (a, 11), (b, 4), (g, 0)] = word := Option.some.inj he
  simp at hb
  simp [pack] at he'
  omega

theorem shl (d a b g : Nat) : Statement (.shl d a b g) := fun h word he => by
  have hb : (vr d a b g) = true := h
  have he' : pack 0x4E000000 [(d, 18), (a, 11), (b, 4), (g, 0)] = word := Option.some.inj he
  simp at hb
  simp [pack] at he'
  omega

theorem shr (d a b g : Nat) : Statement (.shr d a b g) := fun h word he => by
  have hb : (vr d a b g) = true := h
  have he' : pack 0x50000000 [(d, 18), (a, 11), (b, 4), (g, 0)] = word := Option.some.inj he
  simp at hb
  simp [pack] at he'
  omega

theorem sar (d a b g : Nat) : Statement (.sar d a b g) := fun h word he => by
  have hb : (vr d a b g) = true := h
  have he' : pack 0x52000000 [(d, 18), (a, 11), (b, 4), (g, 0)] = word := Option.some.inj he
  simp at hb
  simp [pack] at he'
  omega

theorem sel (d a b g : Nat) : Statement (.sel d a b g) := fun h word he => by
  have hb : (vr d a b g) = true := h
  have he' : pack 0x54000000 [(d, 18), (a, 11), (b, 4), (g, 0)] = word := Option.some.inj he
  simp at hb
  simp [pack] at he'
  omega

theorem lea (d a b g : Nat) : Statement (.lea d a b g) := fun h word he => by
  have hb : (vr d a b g && aligned 2 d && aligned 2 a) = true := h
  have he' : pack 0x56000000 [(d, 18), (a, 11), (b, 4), (g, 0)] = word := Option.some.inj he
  simp at hb
  simp [pack] at he'
  omega

theorem iaddImm (d a b g : Nat) : Statement (.iaddImm d a b g) := fun h word he => by
  have hb : (vr d a b g) = true := h
  have he' : pack 0x58000000 [(d, 18), (a, 11), (b, 4), (g, 0)] = word := Option.some.inj he
  simp at hb
  simp [pack] at he'
  omega

theorem andImm (d a b g : Nat) : Statement (.andImm d a b g) := fun h word he => by
  have hb : (vr d a b g) = true := h
  have he' : pack 0x5A000000 [(d, 18), (a, 11), (b, 4), (g, 0)] = word := Option.some.inj he
  simp at hb
  simp [pack] at he'
  omega

theorem movi (d i g : Nat) : Statement (.movi d i g) := fun h word he => by
  have hb : (vf d i g) = true := h
  have he' : pack 0x5C000000 [(d, 18), (i, 4), (g, 0)] = word := Option.some.inj he
  simp at hb
  simp [pack] at he'
  omega

theorem mov (d a g : Nat) : Statement (.mov d a g) := fun h word he => by
  have hb : (vf d a g) = true := h
  have he' : pack 0x5E000000 [(d, 18), (a, 11), (g, 0)] = word := Option.some.inj he
  simp at hb
  simp [pack] at he'
  omega

theorem not (d a g : Nat) : Statement (.not d a g) := fun h word he => by
  have hb : (vf d a g) = true := h
  have he' : pack 0x5E000010 [(d, 18), (a, 11), (g, 0)] = word := Option.some.inj he
  simp at hb
  simp [pack] at he'
  omega

theorem iabsI32 (d a g : Nat) : Statement (.iabsI32 d a g) := fun h word he => by
  have hb : (vf d a g) = true := h
  have he' : pack 0x5E000020 [(d, 18), (a, 11), (g, 0)] = word := Option.some.inj he
  simp at hb
  simp [pack] at he'
  omega

theorem inegI32 (d a g : Nat) : Statement (.inegI32 d a g) := fun h word he => by
  have hb : (vf d a g) = true := h
  have he' : pack 0x5E000030 [(d, 18), (a, 11), (g, 0)] = word := Option.some.inj he
  simp at hb
  simp [pack] at he'
  omega

theorem popc (d a g : Nat) : Statement (.popc d a g) := fun h word he => by
  have hb : (vf d a g) = true := h
  have he' : pack 0x5E000040 [(d, 18), (a, 11), (g, 0)] = word := Option.some.inj he
  simp at hb
  simp [pack] at he'
  omega

theorem clz (d a g : Nat) : Statement (.clz d a g) := fun h word he => by
  have hb : (vf d a g) = true := h
  have he' : pack 0x5E000050 [(d, 18), (a, 11), (g, 0)] = word := Option.some.inj he
  simp at hb
  simp [pack] at he'
  omega

theorem brev (d a g : Nat) : Statement (.brev d a g) := fun h word he => by
  have hb : (vf d a g) = true := h
  have he' : pack 0x5E000060 [(d, 18), (a, 11), (g, 0)] = word := Option.some.inj he
  simp at hb
  simp [pack] at he'
  omega

theorem movSpecial (d c g : Nat) : Statement (.movSpecial d c g) := fun h word he => by
  have hb : (fits 7 d && specialCode c && fits 4 g) = true := h
  have he' : pack 0x5E000070 [(d, 18), (c, 11), (g, 0)] = word := Option.some.inj he
  simp [specialCode] at hb
  simp [pack] at he'
  omega

theorem imulhI32 (d a g : Nat) : Statement (.imulhI32 d a g) := fun h word he => by
  have hb : (vf d a g) = true := h
  have he' : pack 0x5E000100 [(d, 18), (a, 11), (g, 0)] = word := Option.some.inj he
  simp at hb
  simp [pack] at he'
  omega

theorem imulhN32 (d a g : Nat) : Statement (.imulhN32 d a g) := fun h word he => by
  have hb : (vf d a g) = true := h
  have he' : pack 0x5E000110 [(d, 18), (a, 11), (g, 0)] = word := Option.some.inj he
  simp at hb
  simp [pack] at he'
  omega

theorem iminI32 (d a g : Nat) : Statement (.iminI32 d a g) := fun h word he => by
  have hb : (vf d a g) = true := h
  have he' : pack 0x5E000120 [(d, 18), (a, 11), (g, 0)] = word := Option.some.inj he
  simp at hb
  simp [pack] at he'
  omega

theorem iminN32 (d a g : Nat) : Statement (.iminN32 d a g) := fun h word he => by
  have hb : (vf d a g) = true := h
  have he' : pack 0x5E000130 [(d, 18), (a, 11), (g, 0)] = word := Option.some.inj he
  simp at hb
  simp [pack] at he'
  omega

theorem imaxI32 (d a g : Nat) : Statement (.imaxI32 d a g) := fun h word he => by
  have hb : (vf d a g) = true := h
  have he' : pack 0x5E000140 [(d, 18), (a, 11), (g, 0)] = word := Option.some.inj he
  simp at hb
  simp [pack] at he'
  omega

theorem imaxN32 (d a g : Nat) : Statement (.imaxN32 d a g) := fun h word he => by
  have hb : (vf d a g) = true := h
  have he' : pack 0x5E000150 [(d, 18), (a, 11), (g, 0)] = word := Option.some.inj he
  simp at hb
  simp [pack] at he'
  omega

theorem rotl (d a g : Nat) : Statement (.rotl d a g) := fun h word he => by
  have hb : (vf d a g) = true := h
  have he' : pack 0x5E000160 [(d, 18), (a, 11), (g, 0)] = word := Option.some.inj he
  simp at hb
  simp [pack] at he'
  omega

theorem bfxI32 (d a g : Nat) : Statement (.bfxI32 d a g) := fun h word he => by
  have hb : (vf d a g) = true := h
  have he' : pack 0x5E000170 [(d, 18), (a, 11), (g, 0)] = word := Option.some.inj he
  simp at hb
  simp [pack] at he'
  omega

theorem bfxN32 (d a g : Nat) : Statement (.bfxN32 d a g) := fun h word he => by
  have hb : (vf d a g) = true := h
  have he' : pack 0x5E000180 [(d, 18), (a, 11), (g, 0)] = word := Option.some.inj he
  simp at hb
  simp [pack] at he'
  omega

theorem bfi (d a g : Nat) : Statement (.bfi d a g) := fun h word he => by
  have hb : (vf d a g) = true := h
  have he' : pack 0x5E000190 [(d, 18), (a, 11), (g, 0)] = word := Option.some.inj he
  simp at hb
  simp [pack] at he'
  omega

theorem iaddI32Sat (d a g : Nat) : Statement (.iaddI32Sat d a g) := fun h word he => by
  have hb : (vf d a g) = true := h
  have he' : pack 0x5E0001A0 [(d, 18), (a, 11), (g, 0)] = word := Option.some.inj he
  simp at hb
  simp [pack] at he'
  omega

theorem iaddN32Sat (d a g : Nat) : Statement (.iaddN32Sat d a g) := fun h word he => by
  have hb : (vf d a g) = true := h
  have he' : pack 0x5E0001B0 [(d, 18), (a, 11), (g, 0)] = word := Option.some.inj he
  simp at hb
  simp [pack] at he'
  omega

theorem isubI32Sat (d a g : Nat) : Statement (.isubI32Sat d a g) := fun h word he => by
  have hb : (vf d a g) = true := h
  have he' : pack 0x5E0001C0 [(d, 18), (a, 11), (g, 0)] = word := Option.some.inj he
  simp at hb
  simp [pack] at he'
  omega

theorem isubN32Sat (d a g : Nat) : Statement (.isubN32Sat d a g) := fun h word he => by
  have hb : (vf d a g) = true := h
  have he' : pack 0x5E0001D0 [(d, 18), (a, 11), (g, 0)] = word := Option.some.inj he
  simp at hb
  simp [pack] at he'
  omega

theorem faddF32 (d a b g : Nat) : Statement (.faddF32 d a b g) := fun h word he => by
  have hb : (vr d a b g) = true := h
  have he' : pack 0x60000000 [(d, 18), (a, 11), (b, 4), (g, 0)] = word := Option.some.inj he
  simp at hb
  simp [pack] at he'
  omega

theorem fsubF32 (d a b g : Nat) : Statement (.fsubF32 d a b g) := fun h word he => by
  have hb : (vr d a b g) = true := h
  have he' : pack 0x62000000 [(d, 18), (a, 11), (b, 4), (g, 0)] = word := Option.some.inj he
  simp at hb
  simp [pack] at he'
  omega

theorem fmulF32 (d a b g : Nat) : Statement (.fmulF32 d a b g) := fun h word he => by
  have hb : (vr d a b g) = true := h
  have he' : pack 0x64000000 [(d, 18), (a, 11), (b, 4), (g, 0)] = word := Option.some.inj he
  simp at hb
  simp [pack] at he'
  omega

theorem ffmaF32 (d a b g : Nat) : Statement (.ffmaF32 d a b g) := fun h word he => by
  have hb : (vr d a b g) = true := h
  have he' : pack 0x66000000 [(d, 18), (a, 11), (b, 4), (g, 0)] = word := Option.some.inj he
  simp at hb
  simp [pack] at he'
  omega

theorem faddF16x2 (d a b g : Nat) : Statement (.faddF16x2 d a b g) := fun h word he => by
  have hb : (vr d a b g) = true := h
  have he' : pack 0x68000000 [(d, 18), (a, 11), (b, 4), (g, 0)] = word := Option.some.inj he
  simp at hb
  simp [pack] at he'
  omega

theorem fmulF16x2 (d a b g : Nat) : Statement (.fmulF16x2 d a b g) := fun h word he => by
  have hb : (vr d a b g) = true := h
  have he' : pack 0x6A000000 [(d, 18), (a, 11), (b, 4), (g, 0)] = word := Option.some.inj he
  simp at hb
  simp [pack] at he'
  omega

theorem ffmaF16x2 (d a b g : Nat) : Statement (.ffmaF16x2 d a b g) := fun h word he => by
  have hb : (vr d a b g) = true := h
  have he' : pack 0x6C000000 [(d, 18), (a, 11), (b, 4), (g, 0)] = word := Option.some.inj he
  simp at hb
  simp [pack] at he'
  omega

theorem faddBf16x2 (d a b g : Nat) : Statement (.faddBf16x2 d a b g) := fun h word he => by
  have hb : (vr d a b g) = true := h
  have he' : pack 0x6E000000 [(d, 18), (a, 11), (b, 4), (g, 0)] = word := Option.some.inj he
  simp at hb
  simp [pack] at he'
  omega

theorem fmulBf16x2 (d a b g : Nat) : Statement (.fmulBf16x2 d a b g) := fun h word he => by
  have hb : (vr d a b g) = true := h
  have he' : pack 0x70000000 [(d, 18), (a, 11), (b, 4), (g, 0)] = word := Option.some.inj he
  simp at hb
  simp [pack] at he'
  omega

theorem ffmaBf16x2 (d a b g : Nat) : Statement (.ffmaBf16x2 d a b g) := fun h word he => by
  have hb : (vr d a b g) = true := h
  have he' : pack 0x72000000 [(d, 18), (a, 11), (b, 4), (g, 0)] = word := Option.some.inj he
  simp at hb
  simp [pack] at he'
  omega

theorem frnd (d a t g : Nat) : Statement (.frnd d a t g) := fun h word he => by
  have hb : (vf d a g && decide (t < 3)) = true := h
  have he' : pack 0x74000000 [(d, 18), (a, 11), (t, 9), (g, 0)] = word := Option.some.inj he
  simp at hb
  simp [pack] at he'
  omega

theorem frcp (d a t g : Nat) : Statement (.frcp d a t g) := fun h word he => by
  have hb : (vf d a g && decide (t < 3)) = true := h
  have he' : pack 0x74000010 [(d, 18), (a, 11), (t, 9), (g, 0)] = word := Option.some.inj he
  simp at hb
  simp [pack] at he'
  omega

theorem frsq (d a t g : Nat) : Statement (.frsq d a t g) := fun h word he => by
  have hb : (vf d a g && decide (t < 3)) = true := h
  have he' : pack 0x74000020 [(d, 18), (a, 11), (t, 9), (g, 0)] = word := Option.some.inj he
  simp at hb
  simp [pack] at he'
  omega

theorem fsqrt (d a t g : Nat) : Statement (.fsqrt d a t g) := fun h word he => by
  have hb : (vf d a g && decide (t < 3)) = true := h
  have he' : pack 0x74000030 [(d, 18), (a, 11), (t, 9), (g, 0)] = word := Option.some.inj he
  simp at hb
  simp [pack] at he'
  omega

theorem fexp2 (d a t g : Nat) : Statement (.fexp2 d a t g) := fun h word he => by
  have hb : (vf d a g && decide (t < 3)) = true := h
  have he' : pack 0x74000040 [(d, 18), (a, 11), (t, 9), (g, 0)] = word := Option.some.inj he
  simp at hb
  simp [pack] at he'
  omega

theorem flog2 (d a t g : Nat) : Statement (.flog2 d a t g) := fun h word he => by
  have hb : (vf d a g && decide (t < 3)) = true := h
  have he' : pack 0x74000050 [(d, 18), (a, 11), (t, 9), (g, 0)] = word := Option.some.inj he
  simp at hb
  simp [pack] at he'
  omega

theorem fsin (d a t g : Nat) : Statement (.fsin d a t g) := fun h word he => by
  have hb : (vf d a g && decide (t < 3)) = true := h
  have he' : pack 0x74000060 [(d, 18), (a, 11), (t, 9), (g, 0)] = word := Option.some.inj he
  simp at hb
  simp [pack] at he'
  omega

theorem fcos (d a t g : Nat) : Statement (.fcos d a t g) := fun h word he => by
  have hb : (vf d a g && decide (t < 3)) = true := h
  have he' : pack 0x74000070 [(d, 18), (a, 11), (t, 9), (g, 0)] = word := Option.some.inj he
  simp at hb
  simp [pack] at he'
  omega

theorem fmin (d a t g : Nat) : Statement (.fmin d a t g) := fun h word he => by
  have hb : (vf d a g && decide (t < 3)) = true := h
  have he' : pack 0x74000080 [(d, 18), (a, 11), (t, 9), (g, 0)] = word := Option.some.inj he
  simp at hb
  simp [pack] at he'
  omega

theorem fmax (d a t g : Nat) : Statement (.fmax d a t g) := fun h word he => by
  have hb : (vf d a g && decide (t < 3)) = true := h
  have he' : pack 0x74000090 [(d, 18), (a, 11), (t, 9), (g, 0)] = word := Option.some.inj he
  simp at hb
  simp [pack] at he'
  omega

theorem fsubTwoAddress (d a t g : Nat) : Statement (.fsubTwoAddress d a t g) := fun h word he => by
  have hb : (vf d a g && decide (t < 3)) = true := h
  have he' : pack 0x740000A0 [(d, 18), (a, 11), (t, 9), (g, 0)] = word := Option.some.inj he
  simp at hb
  simp [pack] at he'
  omega

theorem hadd (d a b g : Nat) : Statement (.hadd d a b g) := fun h word he => by
  have hb : (vr d a b g) = true := h
  have he' : pack 0x76000000 [(d, 18), (a, 11), (b, 4), (g, 0)] = word := Option.some.inj he
  simp at hb
  simp [pack] at he'
  omega

theorem hsub (d a b g : Nat) : Statement (.hsub d a b g) := fun h word he => by
  have hb : (vr d a b g) = true := h
  have he' : pack 0x78000000 [(d, 18), (a, 11), (b, 4), (g, 0)] = word := Option.some.inj he
  simp at hb
  simp [pack] at he'
  omega

theorem hmad (d a b g : Nat) : Statement (.hmad d a b g) := fun h word he => by
  have hb : (vr d a b g) = true := h
  have he' : pack 0x7A000000 [(d, 18), (a, 11), (b, 4), (g, 0)] = word := Option.some.inj he
  simp at hb
  simp [pack] at he'
  omega

theorem hacs (d a b g : Nat) : Statement (.hacs d a b g) := fun h word he => by
  have hb : (vr d a b g && aligned 2 d) = true := h
  have he' : pack 0x7C000000 [(d, 18), (a, 11), (b, 4), (g, 0)] = word := Option.some.inj he
  simp at hb
  simp [pack] at he'
  omega

theorem hmul (d a g : Nat) : Statement (.hmul d a g) := fun h word he => by
  have hb : (vf d a g) = true := h
  have he' : pack 0x7E000000 [(d, 18), (a, 11), (g, 0)] = word := Option.some.inj he
  simp at hb
  simp [pack] at he'
  omega

theorem haddsI16x2 (d a g : Nat) : Statement (.haddsI16x2 d a g) := fun h word he => by
  have hb : (vf d a g) = true := h
  have he' : pack 0x7E000010 [(d, 18), (a, 11), (g, 0)] = word := Option.some.inj he
  simp at hb
  simp [pack] at he'
  omega

theorem haddsN16x2 (d a g : Nat) : Statement (.haddsN16x2 d a g) := fun h word he => by
  have hb : (vf d a g) = true := h
  have he' : pack 0x7E000020 [(d, 18), (a, 11), (g, 0)] = word := Option.some.inj he
  simp at hb
  simp [pack] at he'
  omega

theorem hsubsI16x2 (d a g : Nat) : Statement (.hsubsI16x2 d a g) := fun h word he => by
  have hb : (vf d a g) = true := h
  have he' : pack 0x7E000030 [(d, 18), (a, 11), (g, 0)] = word := Option.some.inj he
  simp at hb
  simp [pack] at he'
  omega

theorem hsubsN16x2 (d a g : Nat) : Statement (.hsubsN16x2 d a g) := fun h word he => by
  have hb : (vf d a g) = true := h
  have he' : pack 0x7E000040 [(d, 18), (a, 11), (g, 0)] = word := Option.some.inj he
  simp at hb
  simp [pack] at he'
  omega

theorem hminI16x2 (d a g : Nat) : Statement (.hminI16x2 d a g) := fun h word he => by
  have hb : (vf d a g) = true := h
  have he' : pack 0x7E000050 [(d, 18), (a, 11), (g, 0)] = word := Option.some.inj he
  simp at hb
  simp [pack] at he'
  omega

theorem hminN16x2 (d a g : Nat) : Statement (.hminN16x2 d a g) := fun h word he => by
  have hb : (vf d a g) = true := h
  have he' : pack 0x7E000060 [(d, 18), (a, 11), (g, 0)] = word := Option.some.inj he
  simp at hb
  simp [pack] at he'
  omega

theorem hmaxI16x2 (d a g : Nat) : Statement (.hmaxI16x2 d a g) := fun h word he => by
  have hb : (vf d a g) = true := h
  have he' : pack 0x7E000070 [(d, 18), (a, 11), (g, 0)] = word := Option.some.inj he
  simp at hb
  simp [pack] at he'
  omega

theorem hmaxN16x2 (d a g : Nat) : Statement (.hmaxN16x2 d a g) := fun h word he => by
  have hb : (vf d a g) = true := h
  have he' : pack 0x7E000080 [(d, 18), (a, 11), (g, 0)] = word := Option.some.inj he
  simp at hb
  simp [pack] at he'
  omega

theorem hshl (d a g : Nat) : Statement (.hshl d a g) := fun h word he => by
  have hb : (vf d a g) = true := h
  have he' : pack 0x7E000090 [(d, 18), (a, 11), (g, 0)] = word := Option.some.inj he
  simp at hb
  simp [pack] at he'
  omega

theorem hshrN16x2 (d a g : Nat) : Statement (.hshrN16x2 d a g) := fun h word he => by
  have hb : (vf d a g) = true := h
  have he' : pack 0x7E0000A0 [(d, 18), (a, 11), (g, 0)] = word := Option.some.inj he
  simp at hb
  simp [pack] at he'
  omega

theorem hshrI16x2 (d a g : Nat) : Statement (.hshrI16x2 d a g) := fun h word he => by
  have hb : (vf d a g) = true := h
  have he' : pack 0x7E0000B0 [(d, 18), (a, 11), (g, 0)] = word := Option.some.inj he
  simp at hb
  simp [pack] at he'
  omega

theorem hsel (d a g : Nat) : Statement (.hsel d a g) := fun h word he => by
  have hb : (vf d a g) = true := h
  have he' : pack 0x7E0000C0 [(d, 18), (a, 11), (g, 0)] = word := Option.some.inj he
  simp at hb
  simp [pack] at he'
  omega

theorem hpack (d a g : Nat) : Statement (.hpack d a g) := fun h word he => by
  have hb : (vf d a g) = true := h
  have he' : pack 0x7E0000D0 [(d, 18), (a, 11), (g, 0)] = word := Option.some.inj he
  simp at hb
  simp [pack] at he'
  omega

theorem pxavg (d a g : Nat) : Statement (.pxavg d a g) := fun h word he => by
  have hb : (vf d a g) = true := h
  have he' : pack 0x7E0000E0 [(d, 18), (a, 11), (g, 0)] = word := Option.some.inj he
  simp at hb
  simp [pack] at he'
  omega

theorem pxsad (d a g : Nat) : Statement (.pxsad d a g) := fun h word he => by
  have hb : (vf d a g) = true := h
  have he' : pack 0x7E0000F0 [(d, 18), (a, 11), (g, 0)] = word := Option.some.inj he
  simp at hb
  simp [pack] at he'
  omega

theorem pxclamp (d a g : Nat) : Statement (.pxclamp d a g) := fun h word he => by
  have hb : (vf d a g) = true := h
  have he' : pack 0x7E000100 [(d, 18), (a, 11), (g, 0)] = word := Option.some.inj he
  simp at hb
  simp [pack] at he'
  omega

theorem pxpack (d a g : Nat) : Statement (.pxpack d a g) := fun h word he => by
  have hb : (vf d a g) = true := h
  have he' : pack 0x7E000110 [(d, 18), (a, 11), (g, 0)] = word := Option.some.inj he
  simp at hb
  simp [pack] at he'
  omega

theorem hunpackLoI16 (d a g : Nat) : Statement (.hunpackLoI16 d a g) := fun h word he => by
  have hb : (vf d a g) = true := h
  have he' : pack 0x7E000200 [(d, 18), (a, 11), (g, 0)] = word := Option.some.inj he
  simp at hb
  simp [pack] at he'
  omega

theorem hunpackHiI16 (d a g : Nat) : Statement (.hunpackHiI16 d a g) := fun h word he => by
  have hb : (vf d a g) = true := h
  have he' : pack 0x7E000210 [(d, 18), (a, 11), (g, 0)] = word := Option.some.inj he
  simp at hb
  simp [pack] at he'
  omega

theorem hunpackLoN16 (d a g : Nat) : Statement (.hunpackLoN16 d a g) := fun h word he => by
  have hb : (vf d a g) = true := h
  have he' : pack 0x7E000220 [(d, 18), (a, 11), (g, 0)] = word := Option.some.inj he
  simp at hb
  simp [pack] at he'
  omega

theorem hunpackHiN16 (d a g : Nat) : Statement (.hunpackHiN16 d a g) := fun h word he => by
  have hb : (vf d a g) = true := h
  have he' : pack 0x7E000230 [(d, 18), (a, 11), (g, 0)] = word := Option.some.inj he
  simp at hb
  simp [pack] at he'
  omega

theorem pxexpLo (d a g : Nat) : Statement (.pxexpLo d a g) := fun h word he => by
  have hb : (vf d a g) = true := h
  have he' : pack 0x7E000240 [(d, 18), (a, 11), (g, 0)] = word := Option.some.inj he
  simp at hb
  simp [pack] at he'
  omega

theorem pxexpHi (d a g : Nat) : Statement (.pxexpHi d a g) := fun h word he => by
  have hb : (vf d a g) = true := h
  have he' : pack 0x7E000250 [(d, 18), (a, 11), (g, 0)] = word := Option.some.inj he
  simp at hb
  simp [pack] at he'
  omega

theorem cvtSrcLow (d a t s g : Nat) : Statement (.cvtSrcLow d a t s g) := fun h word he => by
  have hb : (vf d a g && fits 4 t && fits 3 s) = true := h
  have he' : pack 0x80000000 [(d, 18), (a, 11), (t, 7), (s, 4), (g, 0)] = word := Option.some.inj he
  simp at hb
  simp [pack] at he'
  omega

theorem cvtSrcHigh (d a t s g : Nat) : Statement (.cvtSrcHigh d a t s g) := fun h word he => by
  have hb : (vf d a g && fits 4 t && fits 3 s) = true := h
  have he' : pack 0x82000000 [(d, 18), (a, 11), (t, 7), (s, 4), (g, 0)] = word := Option.some.inj he
  simp at hb
  simp [pack] at he'
  omega

theorem rndt (d a f g : Nat) : Statement (.rndt d a f g) := fun h word he => by
  have hb : (vf d a g && decide (f ≤ 6)) = true := h
  have he' : pack 0x84000000 [(d, 18), (a, 11), (f, 7), (g, 0)] = word := Option.some.inj he
  simp at hb
  simp [pack] at he'
  omega

theorem cvtTrl (a b u f k : Nat) : Statement (.cvtTrl a b u f k) := fun h word he => by
  have hb : (fits 8 a && aligned 4 a && fits 8 b && decide (u ≤ 12) && fits 1 f && fits 4 k && decide (k ≠ 13)) = true := h
  have he' : pack 0x86000000 [(a, 17), (b, 9), (u, 5), (f, 4), (k, 0)] = word := Option.some.inj he
  simp at hb
  simp [pack] at he'
  omega

theorem cvtChk (a u f k : Nat) : Statement (.cvtChk a u f k) := fun h word he => by
  have hb : (fits 8 a && aligned 4 a && decide (u ≤ 12) && fits 1 f && fits 4 k && decide (k ≠ 13)) = true := h
  have he' : pack 0x88000000 [(a, 17), (u, 5), (f, 4), (k, 0)] = word := Option.some.inj he
  simp at hb
  simp [pack] at he'
  omega

theorem dot4I8 (d a b g : Nat) : Statement (.dot4I8 d a b g) := fun h word he => by
  have hb : (vr d a b g) = true := h
  have he' : pack 0x8A000000 [(d, 18), (a, 11), (b, 4), (g, 0)] = word := Option.some.inj he
  simp at hb
  simp [pack] at he'
  omega

theorem dot4N8 (d a b g : Nat) : Statement (.dot4N8 d a b g) := fun h word he => by
  have hb : (vr d a b g) = true := h
  have he' : pack 0x8C000000 [(d, 18), (a, 11), (b, 4), (g, 0)] = word := Option.some.inj he
  simp at hb
  simp [pack] at he'
  omega

theorem dot8I4 (d a b g : Nat) : Statement (.dot8I4 d a b g) := fun h word he => by
  have hb : (vr d a b g) = true := h
  have he' : pack 0x8E000000 [(d, 18), (a, 11), (b, 4), (g, 0)] = word := Option.some.inj he
  simp at hb
  simp [pack] at he'
  omega

theorem dot8N4 (d a b g : Nat) : Statement (.dot8N4 d a b g) := fun h word he => by
  have hb : (vr d a b g) = true := h
  have he' : pack 0x90000000 [(d, 18), (a, 11), (b, 4), (g, 0)] = word := Option.some.inj he
  simp at hb
  simp [pack] at he'
  omega

theorem dot4E4m3 (d a b g : Nat) : Statement (.dot4E4m3 d a b g) := fun h word he => by
  have hb : (vf d a g && aligned 2 a && fits 2 b) = true := h
  have he' : pack 0x92000000 [(d, 18), (a, 11), (b, 9), (g, 0)] = word := Option.some.inj he
  simp at hb
  simp [pack] at he'
  omega

theorem dot4E5m2 (d a b g : Nat) : Statement (.dot4E5m2 d a b g) := fun h word he => by
  have hb : (vf d a g && aligned 2 a && fits 2 b) = true := h
  have he' : pack 0x92000080 [(d, 18), (a, 11), (b, 9), (g, 0)] = word := Option.some.inj he
  simp at hb
  simp [pack] at he'
  omega

theorem dot8E2m1 (d a b g : Nat) : Statement (.dot8E2m1 d a b g) := fun h word he => by
  have hb : (vf d a g && aligned 2 a && fits 2 b) = true := h
  have he' : pack 0x92000100 [(d, 18), (a, 11), (b, 9), (g, 0)] = word := Option.some.inj he
  simp at hb
  simp [pack] at he'
  omega

theorem ldsB32 (d a b g : Nat) : Statement (.ldsB32 d a b g) := fun h word he => by
  have hb : (vr d a b g) = true := h
  have he' : pack 0xA0000000 [(d, 18), (a, 11), (b, 4), (g, 0)] = word := Option.some.inj he
  simp at hb
  simp [pack] at he'
  omega

theorem ldsB64 (d a b g : Nat) : Statement (.ldsB64 d a b g) := fun h word he => by
  have hb : (vr d a b g && aligned 2 d) = true := h
  have he' : pack 0xA2000000 [(d, 18), (a, 11), (b, 4), (g, 0)] = word := Option.some.inj he
  simp at hb
  simp [pack] at he'
  omega

theorem stsB32 (d a b g : Nat) : Statement (.stsB32 d a b g) := fun h word he => by
  have hb : (vr d a b g) = true := h
  have he' : pack 0xA4000000 [(d, 18), (a, 11), (b, 4), (g, 0)] = word := Option.some.inj he
  simp at hb
  simp [pack] at he'
  omega

theorem stsB64 (d a b g : Nat) : Statement (.stsB64 d a b g) := fun h word he => by
  have hb : (vr d a b g && aligned 2 d) = true := h
  have he' : pack 0xA6000000 [(d, 18), (a, 11), (b, 4), (g, 0)] = word := Option.some.inj he
  simp at hb
  simp [pack] at he'
  omega

theorem ldgB32 (d a b g : Nat) : Statement (.ldgB32 d a b g) := fun h word he => by
  have hb : (vr d a b g) = true := h
  have he' : pack 0xA8000000 [(d, 18), (a, 11), (b, 4), (g, 0)] = word := Option.some.inj he
  simp at hb
  simp [pack] at he'
  omega

theorem ldgB64 (d a b g : Nat) : Statement (.ldgB64 d a b g) := fun h word he => by
  have hb : (vr d a b g && aligned 2 d) = true := h
  have he' : pack 0xAA000000 [(d, 18), (a, 11), (b, 4), (g, 0)] = word := Option.some.inj he
  simp at hb
  simp [pack] at he'
  omega

theorem stgB32 (d a b g : Nat) : Statement (.stgB32 d a b g) := fun h word he => by
  have hb : (vr d a b g) = true := h
  have he' : pack 0xAC000000 [(d, 18), (a, 11), (b, 4), (g, 0)] = word := Option.some.inj he
  simp at hb
  simp [pack] at he'
  omega

theorem stgB64 (d a b g : Nat) : Statement (.stgB64 d a b g) := fun h word he => by
  have hb : (vr d a b g && aligned 2 d) = true := h
  have he' : pack 0xAE000000 [(d, 18), (a, 11), (b, 4), (g, 0)] = word := Option.some.inj he
  simp at hb
  simp [pack] at he'
  omega

theorem ldk (d a b g : Nat) : Statement (.ldk d a b g) := fun h word he => by
  have hb : (vr d a b g) = true := h
  have he' : pack 0xB0000000 [(d, 18), (a, 11), (b, 4), (g, 0)] = word := Option.some.inj he
  simp at hb
  simp [pack] at he'
  omega

theorem stk (d a b g : Nat) : Statement (.stk d a b g) := fun h word he => by
  have hb : (vr d a b g) = true := h
  have he' : pack 0xB2000000 [(d, 18), (a, 11), (b, 4), (g, 0)] = word := Option.some.inj he
  simp at hb
  simp [pack] at he'
  omega

theorem atom (d a o p t g : Nat) : Statement (.atom d a o p t g) := fun h word he => by
  have hb : (vf d a g && fits 3 o && fits 1 p && decide (t < 3) && (decide (t ≠ 2) || decide (o < 3)) && (decide (o ≠ 7) || aligned 2 d)) = true := h
  have he' : pack 0xB4000000 [(d, 18), (a, 11), (o, 8), (p, 7), (t, 5), (g, 0)] = word := Option.some.inj he
  simp at hb
  simp [pack] at he'
  omega

theorem fld (d a c s f z : Nat) : Statement (.fld d a c s f z) := fun h word he => by
  have hb : (fm d a c s f && farData d z) = true := h
  have he' : pack 0xB6000000 [(d, 18), (a, 11), (c, 9), (s, 6), (f, 5), (z, 2)] = word := Option.some.inj he
  simp at hb
  simp [pack] at he'
  omega

theorem fst (d a c s f z : Nat) : Statement (.fst d a c s f z) := fun h word he => by
  have hb : (fm d a c s f && farData d z) = true := h
  have he' : pack 0xB6000001 [(d, 18), (a, 11), (c, 9), (s, 6), (f, 5), (z, 2)] = word := Option.some.inj he
  simp at hb
  simp [pack] at he'
  omega

theorem fldacq (d a c s f z : Nat) : Statement (.fldacq d a c s f z) := fun h word he => by
  have hb : (fm d a c s f && farData d z) = true := h
  have he' : pack 0xB6000002 [(d, 18), (a, 11), (c, 9), (s, 6), (f, 5), (z, 2)] = word := Option.some.inj he
  simp at hb
  simp [pack] at he'
  omega

theorem fstrel (d a c s f k : Nat) : Statement (.fstrel d a c s f k) := fun h word he => by
  have hb : (fm d a c s f && fits 3 k && decide (k ≠ 0)) = true := h
  have he' : pack 0xB6000003 [(d, 18), (a, 11), (c, 9), (s, 6), (f, 5), (k, 2)] = word := Option.some.inj he
  simp at hb
  simp [pack] at he'
  omega

theorem fatom (d a c s f o t : Nat) : Statement (.fatom d a c s f o t) := fun h word he => by
  have hb : (fm d a c s f && fits 3 o && fits 2 t && (decide (t ≠ 3) || decide (o < 3) || decide (o = 6)) && (decide (t ≠ 2) || aligned 2 d) && (decide (o ≠ 7) || aligned 2 d) && (decide (t ≠ 2) || decide (o ≠ 7) || aligned 4 d)) = true := h
  have he' : pack 0xB8000000 [(d, 18), (a, 11), (c, 9), (s, 6), (f, 5), (o, 2), (t, 0)] = word := Option.some.inj he
  simp at hb
  simp [pack] at he'
  omega

theorem sld (d a i : Nat) : Statement (.sld d a i) := fun h word he => by
  have hb : (fits 8 d && fits 8 a && fits 9 i) = true := h
  have he' : pack 0xBA000000 [(d, 17), (a, 9), (i, 0)] = word := Option.some.inj he
  simp at hb
  simp [pack] at he'
  omega

theorem hurdleArrive (a c g : Nat) : Statement (.hurdleArrive a c g) := fun h word he => by
  have hb : (vf a c g && decide (c ≠ 0)) = true := h
  have he' : pack 0xBC000000 [(a, 11), (c, 4), (g, 0)] = word := Option.some.inj he
  simp at hb
  simp [pack] at he'
  omega

theorem hurdleWait (a s g : Nat) : Statement (.hurdleWait a s g) := fun h word he => by
  have hb : (vf a s g) = true := h
  have he' : pack 0xBC040000 [(a, 11), (s, 4), (g, 0)] = word := Option.some.inj he
  simp at hb
  simp [pack] at he'
  omega

theorem waitst (a s g : Nat) : Statement (.waitst a s g) := fun h word he => by
  have hb : (vf a s g && aligned 2 s) = true := h
  have he' : pack 0xBC080000 [(a, 11), (s, 4), (g, 0)] = word := Option.some.inj he
  simp at hb
  simp [pack] at he'
  omega

theorem waitstGranary (a s g : Nat) : Statement (.waitstGranary a s g) := fun h word he => by
  have hb : (vf a s g && aligned 2 s) = true := h
  have he' : pack 0xBC0C0000 [(a, 11), (s, 4), (g, 0)] = word := Option.some.inj he
  simp at hb
  simp [pack] at he'
  omega

theorem waitstFar (a s g : Nat) : Statement (.waitstFar a s g) := fun h word he => by
  have hb : (vf a s g && aligned 2 s && aligned 2 a) = true := h
  have he' : pack 0xBC100000 [(a, 11), (s, 4), (g, 0)] = word := Option.some.inj he
  simp at hb
  simp [pack] at he'
  omega

theorem barb (g : Nat) : Statement (.barb g) := fun h word he => by
  have hb : (fits 4 g) = true := h
  have he' : pack 0xBC140000 [(g, 0)] = word := Option.some.inj he
  simp at hb
  simp [pack] at he'
  omega

theorem cpy (s c p f : Nat) : Statement (.cpy s c p f) := fun h word he => by
  have hb : (fits 8 s && aligned 32 s && decide (c < 3) && decide (p < 6) && fits 1 f) = true := h
  have he' : pack 0xBE000000 [(s, 17), (c, 15), (p, 12), (f, 4)] = word := Option.some.inj he
  simp at hb
  simp [pack] at he'
  omega

theorem cpyt (s c p f : Nat) : Statement (.cpyt s c p f) := fun h word he => by
  have hb : (fits 8 s && aligned 32 s && decide (c < 3) && decide (p < 6) && fits 1 f) = true := h
  have he' : pack 0xBE000020 [(s, 17), (c, 15), (p, 12), (f, 4)] = word := Option.some.inj he
  simp at hb
  simp [pack] at he'
  omega

theorem cpyq (s c p f : Nat) : Statement (.cpyq s c p f) := fun h word he => by
  have hb : (fits 8 s && aligned 32 s && decide (c < 3) && decide (p < 6) && fits 1 f) = true := h
  have he' : pack 0xBE000040 [(s, 17), (c, 15), (p, 12), (f, 4)] = word := Option.some.inj he
  simp at hb
  simp [pack] at he'
  omega

theorem land (s : Nat) : Statement (.land s) := fun h word he => by
  have hb : (fits 8 s && aligned 2 s) = true := h
  have he' : pack 0xBE000060 [(s, 17)] = word := Option.some.inj he
  simp at hb
  simp [pack] at he'
  omega

theorem fnc (k p : Nat) : Statement (.fnc k p) := fun h word he => by
  have hb : (fits 3 k && decide (k ≠ 0) && decide (p < 6)) = true := h
  have he' : pack 0xBE000080 [(k, 14), (p, 11)] = word := Option.some.inj he
  simp at hb
  simp [pack] at he'
  omega

theorem batonArm (b w c g : Nat) : Statement (.batonArm b w c g) := fun h word he => by
  have hb : (fits 4 b && fits 8 w && fits 8 c && decide (c ≠ 0) && fits 4 g) = true := h
  have he' : pack 0xC0000000 [(b, 21), (w, 13), (c, 5), (g, 0)] = word := Option.some.inj he
  simp at hb
  simp [pack] at he'
  omega

theorem sign (b g : Nat) : Statement (.sign b g) := fun h word he => by
  have hb : (fits 4 b && fits 4 g) = true := h
  have he' : pack 0xC0000010 [(b, 21), (g, 0)] = word := Option.some.inj he
  simp at hb
  simp [pack] at he'
  omega

theorem cube (s m t f b : Nat) : Statement (.cube s m t f b) := fun h word he => by
  have hb : (fits 8 s && aligned 4 s && decide (m ≤ 4) && decide (1 ≤ t) && decide (t ≤ 10) && fits 1 f && fits 4 b) = true := h
  have he' : pack 0xC2000000 [(s, 17), (m, 14), (t, 10), (f, 4), (b, 0)] = word := Option.some.inj he
  simp at hb
  simp [pack] at he'
  omega

theorem cubestn (s f : Nat) : Statement (.cubestn s f) := fun h word he => by
  have hb : (fits 8 s && aligned 4 s && fits 1 f) = true := h
  have he' : pack 0xC4000000 [(s, 17), (f, 4)] = word := Option.some.inj he
  simp at hb
  simp [pack] at he'
  omega

theorem cubestw (s f : Nat) : Statement (.cubestw s f) := fun h word he => by
  have hb : (fits 8 s && aligned 4 s && fits 1 f) = true := h
  have he' : pack 0xC4000020 [(s, 17), (f, 4)] = word := Option.some.inj he
  simp at hb
  simp [pack] at he'
  omega

theorem oprdy : Statement .oprdy := fun h word he => by
  have hb : (true) = true := h
  have he' : pack 0xC4000040 [] = word := Option.some.inj he
  simp at hb
  simp [pack] at he'
  omega

theorem accld (a v f : Nat) : Statement (.accld a v f) := fun h word he => by
  have hb : (fits 8 a && fits 7 v && fits 1 f) = true := h
  have he' : pack 0xC6000000 [(a, 17), (v, 10), (f, 4)] = word := Option.some.inj he
  simp at hb
  simp [pack] at he'
  omega

theorem accst (a v f : Nat) : Statement (.accst a v f) := fun h word he => by
  have hb : (fits 8 a && fits 7 v && fits 1 f) = true := h
  have he' : pack 0xC6000100 [(a, 17), (v, 10), (f, 4)] = word := Option.some.inj he
  simp at hb
  simp [pack] at he'
  omega

theorem accz (a f : Nat) : Statement (.accz a f) := fun h word he => by
  have hb : (fits 8 a && fits 1 f) = true := h
  have he' : pack 0xC6000200 [(a, 17), (f, 4)] = word := Option.some.inj he
  simp at hb
  simp [pack] at he'
  omega

theorem stepOpen (g : Nat) : Statement (.stepOpen g) := fun h word he => by
  have hb : (fits 4 g) = true := h
  have he' : pack 0xC8000000 [(g, 0)] = word := Option.some.inj he
  simp at hb
  simp [pack] at he'
  omega

theorem stepClose (m f g : Nat) : Statement (.stepClose m f g) := fun h word he => by
  have hb : (fits 1 m && fits 1 f && fits 4 g) = true := h
  have he' : pack 0xC8004000 [(m, 13), (f, 4), (g, 0)] = word := Option.some.inj he
  simp at hb
  simp [pack] at he'
  omega

theorem upd (s f g : Nat) : Statement (.upd s f g) := fun h word he => by
  have hb : (fits 8 s && aligned 8 s && fits 1 f && fits 4 g) = true := h
  have he' : pack 0xC8008000 [(s, 17), (f, 4), (g, 0)] = word := Option.some.inj he
  simp at hb
  simp [pack] at he'
  omega

theorem merge (f g : Nat) : Statement (.merge f g) := fun h word he => by
  have hb : (fits 1 f && fits 4 g) = true := h
  have he' : pack 0xC800C000 [(f, 4), (g, 0)] = word := Option.some.inj he
  simp at hb
  simp [pack] at he'
  omega

theorem ovldImm (s i f : Nat) : Statement (.ovldImm s i f) := fun h word he => by
  have hb : (fits 8 s && fits 8 i && fits 1 f) = true := h
  have he' : pack 0xCA000000 [(s, 17), (i, 9), (f, 4)] = word := Option.some.inj he
  simp at hb
  simp [pack] at he'
  omega

theorem ovldReg (s i f : Nat) : Statement (.ovldReg s i f) := fun h word he => by
  have hb : (fits 8 s && fits 8 i && fits 1 f) = true := h
  have he' : pack 0xCA000020 [(s, 17), (i, 9), (f, 4)] = word := Option.some.inj he
  simp at hb
  simp [pack] at he'
  omega

theorem ovpin (s f : Nat) : Statement (.ovpin s f) := fun h word he => by
  have hb : (fits 8 s && fits 1 f) = true := h
  have he' : pack 0xCA000040 [(s, 17), (f, 4)] = word := Option.some.inj he
  simp at hb
  simp [pack] at he'
  omega

theorem ovunpin (s f : Nat) : Statement (.ovunpin s f) := fun h word he => by
  have hb : (fits 8 s && fits 1 f) = true := h
  have he' : pack 0xCA000060 [(s, 17), (f, 4)] = word := Option.some.inj he
  simp at hb
  simp [pack] at he'
  omega

theorem ovev (s : Nat) : Statement (.ovev s) := fun h word he => by
  have hb : (fits 8 s) = true := h
  have he' : pack 0xCA000080 [(s, 17)] = word := Option.some.inj he
  simp at hb
  simp [pack] at he'
  omega

theorem ovq (d t : Nat) : Statement (.ovq d t) := fun h word he => by
  have hb : (fits 8 d && fits 8 t) = true := h
  have he' : pack 0xCA0000A0 [(d, 17), (t, 9)] = word := Option.some.inj he
  simp at hb
  simp [pack] at he'
  omega

theorem svc (a n g : Nat) : Statement (.svc a n g) := fun h word he => by
  have hb : (fits 7 a && aligned 8 a && fits 14 n && fits 4 g) = true := h
  have he' : pack 0xCC000000 [(a, 18), (n, 4), (g, 0)] = word := Option.some.inj he
  simp at hb
  simp [pack] at he'
  omega

theorem nop (g : Nat) : Statement (.nop g) := fun h word he => by
  have hb : (fits 4 g) = true := h
  have he' : pack 0xCE000000 [(g, 0)] = word := Option.some.inj he
  simp at hb
  simp [pack] at he'
  omega

theorem trap (c g : Nat) : Statement (.trap c g) := fun h word he => by
  have hb : (fits 8 c && fits 4 g) = true := h
  have he' : pack 0xCE002000 [(c, 17), (g, 0)] = word := Option.some.inj he
  simp at hb
  simp [pack] at he'
  omega

theorem bkpt (g : Nat) : Statement (.bkpt g) := fun h word he => by
  have hb : (fits 4 g) = true := h
  have he' : pack 0xCE004000 [(g, 0)] = word := Option.some.inj he
  simp at hb
  simp [pack] at he'
  omega

theorem eret (g : Nat) : Statement (.eret g) := fun h word he => by
  have hb : (fits 4 g) = true := h
  have he' : pack 0xCE006000 [(g, 0)] = word := Option.some.inj he
  simp at hb
  simp [pack] at he'
  omega

theorem hintImm (i : Nat) : Statement (.hintImm i) := fun h word he => by
  have hb : (fits 25 i) = true := h
  have he' : pack 0xE0000000 [(i, 0)] = word := Option.some.inj he
  simp at hb
  simp [pack] at he'
  omega

theorem hintXv (p n r v z s : Nat) : Statement (.hintXv p n r v z s) := fun h word he => by
  have hb : (fits 4 p && fits 1 n && fits 3 r && fits 7 v && fits 1 z && fits 1 s) = true := h
  have he' : pack 0xE2000000 [(p, 21), (n, 20), (r, 17), (v, 10), (z, 9), (s, 8)] = word := Option.some.inj he
  simp at hb
  simp [pack] at he'
  omega

theorem hintUwin (a b c : Nat) : Statement (.hintUwin a b c) := fun h word he => by
  have hb : (fits 2 a && fits 2 b && fits 2 c) = true := h
  have he' : pack 0xE4000000 [(a, 23), (b, 21), (c, 19)] = word := Option.some.inj he
  simp at hb
  simp [pack] at he'
  omega

theorem hintSched (a : Nat) : Statement (.hintSched a) := fun h word he => by
  have hb : (fits 2 a) = true := h
  have he' : pack 0xE6000000 [(a, 23)] = word := Option.some.inj he
  simp at hb
  simp [pack] at he'
  omega

theorem storeQueueDrain (x0 : Nat) (x1 : Nat) (x2 : Nat) : Statement (.storeQueueDrain x0 x1 x2) := of_none rfl

theorem reconvergenceRelease (x0 : Nat) (x1 : Nat) : Statement (.reconvergenceRelease x0 x1) := of_none rfl

theorem lateLaneArrival (x0 : Nat) (x1 : Nat) : Statement (.lateLaneArrival x0 x1) := of_none rfl

theorem barrierOpen (x0 : Nat) : Statement (.barrierOpen x0) := of_none rfl

theorem sheafIssue (x0 : Nat) : Statement (.sheafIssue x0) := of_none rfl

theorem sheafAgeLimit (x0 : Nat) (x1 : Nat) : Statement (.sheafAgeLimit x0 x1) := of_none rfl

theorem warpFree (x0 : Nat) (x1 : Nat) : Statement (.warpFree x0 x1) := of_none rfl

theorem lineAccessPerform (x0 : Nat) : Statement (.lineAccessPerform x0) := of_none rfl

theorem farReply (x0 : Nat) : Statement (.farReply x0) := of_none rfl

theorem farAcknowledgement (x0 : Nat) : Statement (.farAcknowledgement x0) := of_none rfl

theorem systemTimeout (x0 : Nat) (x1 : Nat) : Statement (.systemTimeout x0 x1) := of_none rfl

theorem copyAccept (x0 : Nat) : Statement (.copyAccept x0) := of_none rfl

theorem copyElement (x0 : Nat) : Statement (.copyElement x0) := of_none rfl

theorem copyStampWrite (x0 : Nat) : Statement (.copyStampWrite x0) := of_none rfl

theorem overlayLoadComplete (x0 : Nat) (x1 : Nat) : Statement (.overlayLoadComplete x0 x1) := of_none rfl

theorem cubeAccept (x0 : Nat) (x1 : Nat) : Statement (.cubeAccept x0 x1) := of_none rfl

theorem enginePass (x0 : Nat) : Statement (.enginePass x0) := of_none rfl

theorem entryStarvation (x0 : Nat) (x1 : Nat) : Statement (.entryStarvation x0 x1) := of_none rfl

theorem cubeComplete (x0 : Nat) (x1 : Nat) : Statement (.cubeComplete x0 x1) := of_none rfl

theorem stationLoadComplete (x0 : Nat) (x1 : Nat) : Statement (.stationLoadComplete x0 x1) := of_none rfl

theorem accumulatorOpComplete (x0 : Nat) (x1 : Nat) : Statement (.accumulatorOpComplete x0 x1) := of_none rfl

theorem cubeHangTimeout (x0 : Nat) : Statement (.cubeHangTimeout x0) := of_none rfl

theorem updSliceApply (x0 : Nat) : Statement (.updSliceApply x0) := of_none rfl

theorem divergenceTrap (x0 : Nat) (x1 : Nat) : Statement (.divergenceTrap x0 x1) := of_none rfl

theorem pacerBlock (x0 : Nat) (x1 : Nat) : Statement (.pacerBlock x0 x1) := of_none rfl

theorem svcResume (x0 : Nat) (x1 : Nat) : Statement (.svcResume x0 x1) := of_none rfl

theorem gridAccept (x0 : Nat) : Statement (.gridAccept x0) := of_none rfl

theorem waitaPoll (x0 : Nat) : Statement (.waitaPoll x0) := of_none rfl

theorem gridStart (x0 : Nat) (x1 : Nat) : Statement (.gridStart x0 x1) := of_none rfl

theorem blockClaim (x0 : Nat) : Statement (.blockClaim x0) := of_none rfl

theorem claimStarvation (x0 : Nat) (x1 : Nat) : Statement (.claimStarvation x0 x1) := of_none rfl

theorem blockAdmit (x0 : Nat) : Statement (.blockAdmit x0) := of_none rfl

theorem quantumEnd (x0 : Nat) : Statement (.quantumEnd x0) := of_none rfl

theorem idleSwap (x0 : Nat) : Statement (.idleSwap x0) := of_none rfl

theorem waitingForCore (x0 : Nat) : Statement (.waitingForCore x0) := of_none rfl

theorem swapOut (x0 : Nat) (x1 : Nat) : Statement (.swapOut x0 x1) := of_none rfl

theorem swapIn (x0 : Nat) (x1 : Nat) : Statement (.swapIn x0 x1) := of_none rfl

theorem gridRetire (x0 : Nat) : Statement (.gridRetire x0) := of_none rfl

theorem shootdownDone (x0 : Nat) : Statement (.shootdownDone x0) := of_none rfl

theorem migrationDone (x0 : Nat) (x1 : Nat) : Statement (.migrationDone x0 x1) := of_none rfl

theorem dropNotice (x0 : Nat) : Statement (.dropNotice x0) := of_none rfl

theorem reservationWindowExpiry (x0 : Nat) : Statement (.reservationWindowExpiry x0) := of_none rfl

theorem engineInternalError (x0 : Nat) : Statement (.engineInternalError x0) := of_none rfl

theorem stepCloseComplete : Statement .stepCloseComplete := of_none rfl

theorem mergePoint : Statement .mergePoint := of_none rfl

theorem segmentRecord (x0 : List Nat) : Statement (.segmentRecord x0) := of_none rfl

theorem roundManifest (x0 : List Nat) : Statement (.roundManifest x0) := of_none rfl

theorem roundAbandon : Statement .roundAbandon := of_none rfl

theorem fold : Statement .fold := of_none rfl

theorem serviceCall (x0 : Nat) (x1 : Nat) (x2 : List (List Nat)) : Statement (.serviceCall x0 x1 x2) := of_none rfl

theorem machineCheck (x0 : Nat) : Statement (.machineCheck x0) := of_none rfl

theorem shootdown (x0 : Nat) (x1 : Nat) : Statement (.shootdown x0 x1) := of_none rfl

theorem migration (x0 : Nat) (x1 : Nat) : Statement (.migration x0 x1) := of_none rfl

theorem planeDrain (x0 : Nat) (x1 : Nat) : Statement (.planeDrain x0 x1) := of_none rfl

theorem planeMapWrite (x0 : Nat) (x1 : Nat) : Statement (.planeMapWrite x0 x1) := of_none rfl

theorem resumea (x0 : Nat) (x1 : Nat) : Statement (.resumea x0 x1) := of_none rfl

theorem gkill (x0 : Nat) (x1 : Nat) : Statement (.gkill x0 x1) := of_none rfl

theorem cubectlRst (x0 : Nat) (x1 : Nat) : Statement (.cubectlRst x0 x1) := of_none rfl

theorem loftQuotaWrite (x0 : Nat) (x1 : Nat) (x2 : Nat) (x3 : Nat) : Statement (.loftQuotaWrite x0 x1 x2 x3) := of_none rfl

theorem leaderClaim (x0 : Nat) (x1 : Nat) : Statement (.leaderClaim x0 x1) := of_none rfl

theorem faultRingHeadWrite (x0 : Nat) (x1 : Nat) : Statement (.faultRingHeadWrite x0 x1) := of_none rfl

theorem requestRingHeadWrite (x0 : Nat) (x1 : Nat) : Statement (.requestRingHeadWrite x0 x1) := of_none rfl

theorem controlRegisterWrite (x0 : Nat) (x1 : Nat) (x2 : Nat) : Statement (.controlRegisterWrite x0 x1 x2) := of_none rfl

theorem heartbeatTimeout (x0 : Nat) : Statement (.heartbeatTimeout x0) := of_none rfl

theorem lockStepMismatch (x0 : Nat) : Statement (.lockStepMismatch x0) := of_none rfl

theorem packageReset : Statement .packageReset := of_none rfl

theorem coldBoot (x0 : Nat) : Statement (.coldBoot x0) := of_none rfl

theorem patrolScrub (x0 : Nat) : Statement (.patrolScrub x0) := of_none rfl

theorem rowRepair (x0 : Nat) (x1 : Nat) : Statement (.rowRepair x0 x1) := of_none rfl

theorem supplySagTrip (x0 : Nat) : Statement (.supplySagTrip x0) := of_none rfl

theorem supplyRecovery (x0 : Nat) : Statement (.supplyRecovery x0) := of_none rfl

theorem dieIsolation (x0 : Nat) : Statement (.dieIsolation x0) := of_none rfl

theorem slowLinkDatagram (x0 : Nat) (x1 : List Nat) (x2 : List Nat) : Statement (.slowLinkDatagram x0 x1 x2) := of_none rfl

theorem sessionOpen (x0 : List Nat) (x1 : Nat) (x2 : Nat) : Statement (.sessionOpen x0 x1 x2) := of_none rfl

theorem sessionClose (y : List Nat) (x0 : List Nat) : Statement (.sessionClose y x0) := of_none rfl

theorem tenantSet (y : List Nat) (x0 : List Nat) (x1 : Nat) (x2 : List Nat) (x3 : List Nat) : Statement (.tenantSet y x0 x1 x2 x3) := of_none rfl

theorem map (y : List Nat) (x0 : List Nat) (x1 : Nat) (x2 : Nat) (x3 : Nat) (x4 : Nat) (x5 : Nat) (x6 : Nat) (x7 : Nat) (x8 : Nat) : Statement (.map y x0 x1 x2 x3 x4 x5 x6 x7 x8) := of_none rfl

theorem unmap (y : List Nat) (x0 : List Nat) (x1 : Nat) (x2 : Nat) (x3 : Nat) (x4 : Nat) : Statement (.unmap y x0 x1 x2 x3 x4) := of_none rfl

theorem islandSet (y : List Nat) (x0 : List Nat) (x1 : Nat) (x2 : Nat) : Statement (.islandSet y x0 x1 x2) := of_none rfl

theorem hostLaunch (y : List Nat) (x0 : List Nat) (x1 : Nat) (x2 : Nat) (x3 : Nat) : Statement (.hostLaunch y x0 x1 x2 x3) := of_none rfl

theorem gridWait (y : List Nat) (x0 : List Nat) (x1 : Nat) : Statement (.gridWait y x0 x1) := of_none rfl

theorem gridKill (y : List Nat) (x0 : List Nat) (x1 : Nat) : Statement (.gridKill y x0 x1) := of_none rfl

theorem memRead (y : List Nat) (x0 : List Nat) (x1 : Nat) (x2 : Nat) (x3 : Nat) : Statement (.memRead y x0 x1 x2 x3) := of_none rfl

theorem memWrite (y : List Nat) (x0 : List Nat) (x1 : Nat) (x2 : Nat) (x3 : List Nat) : Statement (.memWrite y x0 x1 x2 x3) := of_none rfl

theorem planeCreate (y : List Nat) (x0 : List Nat) (x1 : Nat) (x2 : List Nat) (x3 : List (List Nat)) (x4 : List (List Nat)) : Statement (.planeCreate y x0 x1 x2 x3 x4) := of_none rfl

theorem planeDestroy (y : List Nat) (x0 : List Nat) : Statement (.planeDestroy y x0) := of_none rfl

theorem anchorSync (y : List Nat) (x0 : List Nat) (x1 : Nat) (x2 : Nat) (x3 : List (List Nat)) : Statement (.anchorSync y x0 x1 x2 x3) := of_none rfl

theorem attest (y : List Nat) (x0 : List Nat) (x1 : List Nat) : Statement (.attest y x0 x1) := of_none rfl

theorem fwStage (y : List Nat) (x0 : List Nat) (x1 : List Nat) : Statement (.fwStage y x0 x1) := of_none rfl

theorem fwActivate (y : List Nat) (x0 : List Nat) : Statement (.fwActivate y x0) := of_none rfl

theorem telemetry (y : List Nat) (x0 : List Nat) : Statement (.telemetry y x0) := of_none rfl

theorem unknownCommand (x0 : List Nat) (x1 : List Nat) (x2 : List Nat) : Statement (.unknownCommand x0 x1 x2) := of_none rfl

theorem hostAccess (x0 : Nat) (x1 : Nat) (x2 : Nat) (x3 : Nat) (x4 : Nat) : Statement (.hostAccess x0 x1 x2 x3 x4) := of_none rfl

theorem switchPlaneFailure (x0 : Nat) : Statement (.switchPlaneFailure x0) := of_none rfl

theorem linkTrainingComplete (x0 : Nat) (x1 : Nat) : Statement (.linkTrainingComplete x0 x1) := of_none rfl

theorem spareCoreReplacement (x0 : Nat) : Statement (.spareCoreReplacement x0) := of_none rfl

theorem certificateRevocation (x0 : Nat) : Statement (.certificateRevocation x0) := of_none rfl

theorem rpcReconnect (x0 : Nat) : Statement (.rpcReconnect x0) := of_none rfl

end Sys2Proof.Laws.Word
end

