-- ==== Sys2Proof/Laws/Reach.lean ====
section
/-! SUPPORT. What can be reached: with every plane alive, every stack answering and trained, nothing cuts an access off
(R162, R423, R426). -/

namespace Sys2Proof.Machine

theorem cut_open {s : State} (hp : s.deadPlanes = []) (hd : ∀ d ∈ s.dies, d.isolated = false) (ht : s.trained = [])
    (d loc : Nat) : s.cut d loc = false := by
  have h : (s.dies.any (·.isolated)) = false := by
    simp only [List.any_eq_false]
    intro x hx h1
    simp [hd x hx] at h1
  simp [State.cut, State.deadTo, State.silent, hp, ht, h]

theorem areaCut_open {s : State} (hp : s.deadPlanes = []) (hd : ∀ d ∈ s.dies, d.isolated = false) (ht : s.trained = [])
    (d a n : Nat) : s.areaCut d a n = false := by
  simp [State.areaCut, cut_open hp hd ht]

/-- With no page on the move either, nothing keeps a physical range from being written (R188, R424). -/
theorem areaHeld_open {s : State} (hp : s.deadPlanes = []) (hd : ∀ d ∈ s.dies, d.isolated = false) (ht : s.trained = [])
    (hm : s.moves = []) (d a n : Nat) : s.areaHeld d a n = false := by
  simp [State.areaHeld, areaCut_open hp hd ht, State.frozen, State.iced, hm]

end Sys2Proof.Machine
end

