-- ==== Sys2Proof/Laws/Traps.lean ====
section
/-! SUPPORT. Taking a trap and returning from one, said once: where each goes, what it saves, what it leaves. -/

namespace Sys2Proof.Machine

/-! ### Traps to system software (R345, R346) -/

theorem rest_rewind (l : Lane) : l.rewind.rest = l.rest := by unfold Lane.rewind; split <;> rfl

theorem v_rewind (l : Lane) : l.rewind.v = l.v := by unfold Lane.rewind; split <;> rfl

theorem p_rewind (l : Lane) : l.rewind.p = l.p := by unfold Lane.rewind; split <;> rfl

/-- The block is held with one trap more, the issuing lanes stand at their resumption point, and the rest is as it was. -/
theorem sysTrap_spec (s : State) (x : TrapInfo) :
    (s.sysTrap x).others = s.others ∧ (s.sysTrap x).w.rest = s.w.rest ∧ (s.sysTrap x).w.s = s.w.s ∧
    (∃ h : Held, h.cause = x.cause ∧ h.detail = x.detail ∧ h.reason = x.reason ∧ h.wid = s.w.wid ∧
      h.mask = x.mask.getD s.im ∧ h.addr = x.addr ∧ h.loc = x.loc ∧ h.recorded = false ∧ h.pc = (s.sysTrap x).pc ∧
      (s.sysTrap x).blk = { s.blk with held := s.blk.held ++ [h] }) ∧
    LaneStep s (s.sysTrap x) fun l m => m = l.rewind :=
  ⟨rfl, rfl, rfl, ⟨_, rfl, rfl, rfl, rfl, rfl, rfl, rfl, rfl, rfl, rfl⟩,
    laneStep_mapIm Lane.rewind rfl fun _ _ => rfl⟩

/-- A trap to system software reads and writes no memory. -/
theorem sameMem_sysTrap (s : State) (x : TrapInfo) : s.sameMem (s.sysTrap x) :=
  sameMem_of s _ rfl rfl rfl
    (lane_rest_of s _ _ (fun l m (h : m = l.rewind) => h ▸ rest_rewind l) (sysTrap_spec s x).2.2.2.2)

/-! ### Kernel-level traps (R341, R342) -/

/-- The lanes of a kernel-level trap once taken. -/
def State.trapped (s : State) (tm : Nat) (resume others : Lane → Lane) (l : Lane) : Lane :=
  if bit tm l.id then
    { (l.push { pc := (resume l).pc, clause := (resume l).clause }).goto s.handler with h := true, arrived := none, join := none }
  else if s.issues l then others l
  else l

/-- A kernel-level trap that is taken: no lane it takes is in the handler or at the last return depth, no other live
lane is in the handler, the handler's entry is a clause header; the trapping lanes save their resumption point and enter
it, and s42 to s45 hold the frame. -/
theorem kernelTrap_go {s t : State} {tm : Nat} {resume others : Lane → Lane} {f : Frame}
    (h : s.kernelTrap tm resume others f = .go t) :
    (∀ l ∈ s.w.lanes, bit tm l.id = true → l.h = false ∧ l.depth ≠ 255) ∧
    (∀ l ∈ s.w.lanes, bit tm l.id = false → (l.live = true → l.h = false) ∧ bit s.w.handlingSeen l.id = false) ∧ s.handlerOk = true ∧
    t = (s.mapLanes (s.trapped tm resume others)).sputs 42
      [f.arg0, f.arg1, w32 (f.treg * 2 ^ 16 + f.tok % 2 ^ 16), w32 f.cause] := by
  unfold State.kernelTrap at h
  simp only at h
  split at h
  · simp [Act.cause] at h
  · rename_i h1
    split at h
    · cases h
    · rename_i h2
      split at h
      · simp [Act.cause] at h
      · rename_i h3
        split at h
        · simp [Act.cause] at h
        · rename_i h4
          refine ⟨fun l hl hb => ⟨?_, ?_⟩, fun l hl hb => ?_, by simpa using h4, (Act.go.inj h).symm⟩
          · by_contra hc
            exact h1 (List.any_eq_true.mpr ⟨l, List.mem_filter.mpr ⟨hl, hb⟩, by simpa using hc⟩)
          · intro hc
            exact h3 (List.any_eq_true.mpr ⟨l, List.mem_filter.mpr ⟨hl, hb⟩, by simp [hc]⟩)
          · have hn := List.any_eq_false.mp (Bool.not_eq_true _ ▸ h2) l hl
            simp only [hb, Bool.not_false, Bool.true_and, Bool.or_eq_true, Bool.and_eq_true, not_or, not_and,
              Bool.not_eq_true] at hn
            exact hn

/-- A trap out of a handler is a double trap. -/
theorem kernelTrap_double {s : State} {tm : Nat} {resume others : Lane → Lane} {f : Frame}
    (h : ∃ l ∈ s.w.lanes, bit tm l.id = true ∧ l.h = true) : s.kernelTrap tm resume others f = .cause 0x1A := by
  obtain ⟨l, hl, hb, hh⟩ := h
  exact if_pos (List.any_eq_true.mpr ⟨l, List.mem_filter.mpr ⟨hl, hb⟩, hh⟩)

/-! ### Returning from one (R343) -/

/-- A return undoes the entry: the lane stands at its resumption point, out of the handler. -/
theorem returnFrom_push (l : Lane) (r : Ret) (pc : Word) (hl : l.h = false) :
    (((l.push r).goto pc).returnFrom) = { l with pc := r.pc, clause := r.clause, hint := {}, yielded := false } := by
  simp [Lane.returnFrom, Lane.pop, Lane.push, Lane.goto, hl]

end Sys2Proof.Machine
end

