-- ==== Sys2Proof/Tests/Slice0.lean ====
section
/-! SUPPORT. Tests: what the checks refuse, words written out bit by bit from R214 to R240, single steps with results
worked out by hand from the rules, and for every claim a state that meets its hypotheses. -/

namespace Sys2Proof.Tests

open Machine

/-! ### What `WellFormed` refuses: one ill-formed word for each check -/

theorem test_wf_width : (Instr.iadd 128 0 0 0).wf = false ∧ (Instr.iadd 127 127 127 15).wf = true := by decide
theorem test_wf_guard : (Instr.nop 16).wf = false ∧ (Instr.nop 15).wf = true := by decide
theorem test_wf_set_field : (Instr.clauseHeader 0 12 15 0 0 0).wf = false ∧ (Instr.clauseHeader 0 3 3 0 0 0).wf = false ∧
    (Instr.clauseHeader 0 15 15 0 0 0).wf = true ∧ (Instr.clauseHeader 0 3 4 15 1 1).wf = true := by decide
theorem test_wf_flags : (Instr.waitf 0 0).wf = false ∧ (Instr.waitl 1 0).wf = true := by decide
theorem test_wf_pairs : (Instr.launch 3 0).wf = false ∧ (Instr.lea 2 3 0 0).wf = false ∧ (Instr.hacs 1 0 0 0).wf = false ∧
    (Instr.ldsB64 5 0 0 0).wf = false ∧ (Instr.land 1).wf = false ∧ (Instr.dot4E4m3 0 1 0 0).wf = false := by decide
theorem test_wf_groups : (Instr.glean 0 1 2 0).wf = false ∧ (Instr.cvtTrl 2 0 0 0 0).wf = false ∧ (Instr.upd 4 0 0).wf = false ∧
    (Instr.cpy 16 0 0 0).wf = false ∧ (Instr.svc 4 0 0).wf = false ∧ (Instr.cube 4 0 1 0 0).wf = true := by decide
theorem test_wf_special : (Instr.movSpecial 0 0x0E 0).wf = false ∧ (Instr.movSpecial 0 0x3C 0).wf = false ∧
    (Instr.movs 0 1).wf = false ∧ (Instr.movs 1 0x0C).wf = false ∧ (Instr.wrs 0x1F 0).wf = false ∧ (Instr.wrs 0x2F 0).wf = true := by
  decide
theorem test_wf_compare : (Instr.scmp 0 0 0 6 1).wf = false ∧ (Instr.setpF32 3 3 0 0 0).wf = false ∧
    (Instr.setpF32 0 0 0 0 5).wf = true ∧ (Instr.frnd 0 0 3 0).wf = false ∧ (Instr.rndt 0 0 7 0).wf = false := by decide
theorem test_wf_tile : (Instr.cvtTrl 4 0 13 0 0).wf = false ∧ (Instr.cvtChk 4 0 0 13).wf = false := by decide
theorem test_wf_atom : (Instr.atom 0 0 0 0 3 0).wf = false ∧ (Instr.atom 0 0 3 0 2 0).wf = false ∧
    (Instr.atom 1 0 7 0 0 0).wf = false := by decide
theorem test_wf_far : (Instr.fld 0 0 3 0 0 0).wf = false ∧ (Instr.fld 0 0 0 6 0 0).wf = false ∧ (Instr.fld 0 1 0 0 0 0).wf = false ∧
    (Instr.fld 1 0 0 0 0 3).wf = false ∧ (Instr.fst 0 0 0 0 0 4).wf = false ∧ (Instr.fstrel 0 0 0 0 0 0).wf = false := by decide
theorem test_wf_fatom : (Instr.fatom 0 0 0 0 0 3 3).wf = false ∧ (Instr.fatom 2 0 0 0 0 7 2).wf = false ∧
    (Instr.fatom 4 0 0 0 0 7 2).wf = true := by decide
theorem test_wf_counts : (Instr.hurdleArrive 0 0 0).wf = false ∧ (Instr.batonArm 0 0 0 0).wf = false ∧ (Instr.fnc 0 0).wf = false ∧
    (Instr.cube 0 5 1 0 0).wf = false ∧ (Instr.cube 0 0 0 0 0).wf = false ∧ (Instr.cube 0 0 11 0 0).wf = false := by decide

/-! ### Words bit by bit: OP in [31:25], then the fields of R219 and R220 -/

/-- R215: 1111, WAIT, SETA, SETB, LEN, YLD, RCV, 00. -/
theorem test_word_header :
    decode 0b1111_000000000010_0000_0001_0011_1_0_00 = some (.clauseHeader 2 0 1 3 1 0) := by decide
/-- R219 BR: off21 g; R220 BC: sa off13 g; BV: va off14 g; CO: sa ent 0; FW: msk 0 L g; CX: sa fn 0 g. -/
theorem test_word_control :
    decode 0b0000001_000000000000000000101_0010 = some (.bra 5 2) ∧
    decode 0b0000011_111111111111111111111_0000 = some (.call (2 ^ 21 - 1) 0) ∧
    decode 0b0000100_00000111_0000000000110_0001 = some (.loopn 7 6 1) ∧
    decode 0b0000101_0000011_00000000000100_0000 = some (.reform 3 4 0) ∧
    decode 0b0000110_00001001_0000000100000010_0 = some (.callo 9 258) ∧
    decode 0b0000111_000000000101_00000000_1_0000 = some (.waitl 5 0) ∧
    decode 0b0001000_00000000_0001_000000000_0011 = some (.exit 3) ∧
    decode 0b0001000_00000100_0011_000000000_0000 = some (.launch 4 0) := by decide
/-- R219 SR: sd sa sb x; EC: sa sb sub fs k; R220 SF: sd sa fn x. -/
theorem test_word_uniform :
    decode 0b0001010_00000001_00000010_00000011_1 = some (.ssub 1 2 3 1) ∧
    decode 0b0001110_00000001_00000010_1010_0_0111 = some (.scmp 1 2 1 2 7) ∧
    decode 0b0001111_00000001_00000010_00000101_0 = some (.sshrI32 1 2 0) ∧
    decode 0b0001111_00000010_00001100_00000110_0 = some (.movs 2 0x0C) ∧
    decode 0b0001111_00000001_00000011_01000101_0 = some (.rdlane 1 3 5) ∧
    decode 0b1011101_00000001_00000010_000000011 = some (.sld 1 2 3) := by decide
/-- R219 SP: pd pe va vb cc; R220 PL: pd pa pb na nb fn 0 g; PV: sd pa pd fn 0 g. -/
theorem test_word_predicate :
    decode 0b0010001_0001_0010_0000011_0000100_101 = some (.setpN32 1 2 3 4 5) ∧
    decode 0b0010011_0001_0010_0011_1_0_010_0000_0100 = some (.pxor 1 2 3 1 0 4) ∧
    decode 0b0010100_00000000_0011_0101_010_00_0001 = some (.voteAll 3 5 1) := by decide
/-- R220 VF: vd va fn g; SC: vd va ps op g; GL: vd pd sa 0 g; R219 VU: vd va sb g. -/
theorem test_word_cross_lane :
    decode 0b0010110_0000001_0000010_1000011_0000 = some (.shflDown 1 2 3 0) ∧
    decode 0b0011000_0000001_0000010_0000011_0000 = some (.bcast 1 2 3 0) ∧
    decode 0b0011001_0000001_0000010_1110000_0000 = some (.scan 1 2 1 6 0) ∧
    decode 0b0011010_0000001_0000010_0011_101_0000 = some (.segscanIncl 1 2 3 5 0) ∧
    decode 0b0011101_0000001_0010_00001000_00_0000 = some (.glean 1 2 8 0) := by decide
/-- R219 VR: vd va vb g; VI: vd va imm7 g; R232: the integer family. -/
theorem test_word_integer :
    decode 0b0100000_0000011_0000001_0000010_0000 = some (.iadd 3 1 2 0) ∧
    decode 0b0101011_0000010_0000100_0000110_0001 = some (.lea 2 4 6 1) ∧
    decode 0b0101100_0000011_0000001_1111111_0000 = some (.iaddImm 3 1 127 0) ∧
    decode 0b0101110_0000011_0000001_0000000_0000 = none ∧
    decode 0b0101111_0000011_0000001_0011000_0000 = some (.bfxN32 3 1 0) ∧
    decode 0b0101111_0000011_0000001_0011110_0000 = none := by decide
/-- R230, R233: floats; fn[10:9] is the type and fn[8:4] the operation. -/
theorem test_word_float :
    decode 0b0110011_0000011_0000001_0000010_0000 = some (.ffmaF32 3 1 2 0) ∧
    decode 0b0111000_0000011_0000001_0000010_0000 = some (.fmulBf16x2 3 1 2 0) ∧
    decode 0b0111010_0000011_0000001_0101001_0000 = some (.fmax 3 1 1 0) ∧
    decode 0b0111010_0000011_0000001_0101011_0000 = none := by decide
/-- R230, R234: packed and pixel. -/
theorem test_word_packed :
    decode 0b0111110_0000100_0000001_0000010_0000 = some (.hacs 4 1 2 0) ∧
    decode 0b0111111_0000011_0000001_0010000_0000 = some (.pxclamp 3 1 0) ∧
    decode 0b0111111_0000011_0000001_0100101_0000 = some (.pxexpHi 3 1 0) := by decide
/-- R231: CVT with its codes; EC for the tiles; R220 VD: vd va bs ft 0 g. -/
theorem test_word_convert :
    decode 0b1000001_0000011_0000001_0001_110_0000 = some (.cvtSrcHigh 3 1 1 6 0) ∧
    decode 0b1000011_00000100_00001000_0011_1_0001 = some (.cvtTrl 4 8 3 1 1) ∧
    decode 0b1000111_0000011_0000001_0000010_0000 = some (.dot8I4 3 1 2 0) ∧
    decode 0b1001001_0000011_0000010_11_01_000_0000 = some (.dot4E5m2 3 2 3 0) := by decide
/-- R219 VM: vd va off7 g; R220 AT: vd va op sp ty 0 g. -/
theorem test_word_memory :
    decode 0b1010011_0000010_0000001_0000011_0000 = some (.stsB64 2 1 3 0) ∧
    decode 0b1011000_0000011_0000001_0000010_0000 = some (.ldk 3 1 2 0) ∧
    decode 0b1011010_0000010_0000001_111_1_01_0_0000 = some (.atom 2 1 7 1 1 0) := by decide
/-- R219 FM: vd va cls scope fs sz op; R238. -/
theorem test_word_far :
    decode 0b1011011_0000100_0000010_01_101_1_011_00 = some (.fld 4 2 1 5 1 3) ∧
    decode 0b1011011_0000100_0000010_00_010_0_110_11 = some (.fstrel 4 2 0 2 0 6) ∧
    decode 0b1011100_0000100_0000010_10_011_0_001_01 = some (.fatom 4 2 2 3 0 1 1) := by decide
/-- R220 SY: fn va sb g; R239: EC for copies and fences. -/
theorem test_word_sync :
    decode 0b1011110_0000000_0000001_0000101_0000 = some (.hurdleArrive 1 5 0) ∧
    decode 0b1011110_0000100_0000010_0000110_0000 = some (.waitstFar 2 6 0) ∧
    decode 0b1011110_0000101_0000000_0000000_0011 = some (.barb 3) ∧
    decode 0b1011111_00100000_01_011_000_0001_1_0000 = some (.cpyt 32 1 3 1) ∧
    decode 0b1011111_00000010_00000000_0011_0_0000 = some (.land 2) ∧
    decode 0b1011111_00000000_101_010_00_0100_0_0000 = some (.fnc 5 2) := by decide
/-- R220 BA: b w0 c fn g; CB: sa mode fmt 0 fs b; AC: acc va op 0 fs 0; R240. -/
theorem test_word_cube :
    decode 0b1100000_0011_00000010_00000100_0_0000 = some (.batonArm 3 2 4 0) ∧
    decode 0b1100000_0011_00000000_00000000_1_0000 = some (.sign 3 0) ∧
    decode 0b1100001_00000100_001_0010_00000_1_0101 = some (.cube 4 1 2 1 5) ∧
    decode 0b1100011_00000011_0000010_01_000_1_0000 = some (.accst 3 2 1) := by decide
/-- R220 PS: sa fn m 0 fs g; EC for overlays; SV: va num g; CX for the system family (R236, R240). -/
theorem test_word_system :
    decode 0b1100100_00000000_001_1_00000000_1_0010 = some (.stepClose 1 1 2) ∧
    decode 0b1100100_00001000_010_0_00000000_0_0000 = some (.upd 8 0 0) ∧
    decode 0b1100101_00000001_00000010_0000_1_0000 = some (.ovldImm 1 2 1) ∧
    decode 0b1100101_00000001_00000010_0101_0_0000 = some (.ovq 1 2) ∧
    decode 0b1100110_0001000_00000000000101_0000 = some (.svc 8 5 0) ∧
    decode 0b1100111_00000111_0001_000000000_0000 = some (.trap 7 0) ∧
    decode 0b1100111_00000000_0100_000000000_0000 = none := by decide
/-- R225 to R228: the hints. -/
theorem test_word_hints :
    decode 0b1110000_0000000000000000000000011 = some (.hintImm 3) ∧
    decode 0b1110001_0001_1_101_0000010_1_0_00000000 = some (.hintXv 1 1 5 2 1 0) ∧
    decode 0b1110010_01_10_11_0000000000000000000 = some (.hintUwin 1 2 3) ∧
    decode 0b1110011_10_00000000000000000000000 = some (.hintSched 2) ∧
    decode 0b1110011_10_00000000000000000000001 = none := by decide
/-- R214: the word that pads an overlay, and OPs without an instruction. -/
theorem test_word_illegal : decode 0 = none ∧ decode 0b1101100_0000000000000000000000000 = none ∧
    decode 0b1110100_0000000000000000000000000 = none ∧ decode 0b1111_0000000000000000000000000001 = none := by decide
/-- R1: a word lies little-endian in the Loft. -/
theorem test_table_word : decodeTableWord 32 0x40601020 = decode 0x40601020 := by decide

/-! ### Small states -/

/-- A warp of four lanes in focus on core 0, all issuing, lane `i` with the registers `v i`; the word is the last of its
clause, whose SETA and SETB are 0 and 1. -/
def at4 (v : Nat → SMap Word) : State :=
  let s := (State.reset.place 0x40000000).focus 0 0
  { s with im := 15, w := { s.w with lanes := (List.range 4).map fun i => { placedLane 0x40000000 i with v := v i } } }

/-- Every lane with the same registers. -/
def all4 (v : SMap Word) : State := at4 fun _ => v

/-- Uniform registers given. -/
def withS (u : SMap Word) (s : State) : State := { s with w := { s.w with s := u } }

/-- A change of every lane. -/
def withL (f : Lane → Lane) (s : State) : State := { s with w := { s.w with lanes := s.w.lanes.map f } }

/-- A predicate of the result of a step that goes on. -/
def after (r : Res) (f : State → Bool) : Bool := match r with
  | .next t => f t
  | _ => false

/-- Lane `k`'s register `n` after a step. -/
def vOf (r : Res) (k n : Nat) : Option Word := match r with
  | .next t => (t.w.lanes[k]?).map (·.vraw n)
  | _ => none

/-- Uniform register `n` after a step. -/
def sOf (r : Res) (n : Nat) : Option Word := match r with
  | .next t => some (t.w.sraw n)
  | _ => none

/-- The lanes' predicate `n` after a step. -/
def pOf (r : Res) (n : Nat) : List Bool := match r with
  | .next t => t.w.lanes.map (·.pget n)
  | _ => []

/-- The trap causes that the focused block is held with after a step. -/
def causes (r : Res) : List Nat := match r with
  | .next t => t.blk.held.map (·.cause)
  | _ => []

/-- Word `i` at registers v1 = `a`, v2 = `b`, v3 = `d`: what it leaves in v3 of lane 2. -/
def run3 (i : Instr) (a b : Word) (d : Word := 0) : Option Word := vOf (exec i (all4 [(1, a), (2, b), (3, d)])) 2 3

/-! ### Integer words (R274 to R277) -/

theorem test_iadd_wraps : run3 (.iadd 3 1 2 0) 0xFFFFFFFF 2 = some 1 := by decide
theorem test_isub_wraps : run3 (.isub 3 1 2 0) 1 2 = some 0xFFFFFFFF := by decide
theorem test_imul_low : run3 (.imul 3 1 2 0) 0x10001 0x10000 = some 0x10000 := by decide
theorem test_imad_default_addend : run3 (.imad 3 1 2 0) 3 4 5 = some 17 := by decide
theorem test_and : run3 (.and 3 1 2 0) 0xF0F0 0xFF00 = some 0xF000 := by decide
theorem test_or : run3 (.or 3 1 2 0) 0xF0F0 0xFF00 = some 0xFFF0 := by decide
theorem test_xor : run3 (.xor 3 1 2 0) 0xF0F0 0xFF00 = some 0x0FF0 := by decide
theorem test_shl_by_width : run3 (.shl 3 1 2 0) 1 32 = some 0 ∧ run3 (.shl 3 1 2 0) 1 31 = some 0x80000000 := by decide
theorem test_shr_by_width : run3 (.shr 3 1 2 0) 0xFFFFFFFF 32 = some 0 := by decide
theorem test_sar_by_width : run3 (.sar 3 1 2 0) 0x80000000 40 = some 0xFFFFFFFF := by decide
theorem test_sel_takes_vb : run3 (.sel 3 1 2 1) 7 9 = some 9 ∧ run3 (.sel 3 1 2 0) 7 9 = some 7 := by decide
theorem test_lea_borrow : (let r := exec (.lea 4 2 6 0) (all4 [(2, 0), (3, 5), (6, 0xFFFFFFFF)])
    (vOf r 0 4, vOf r 0 5)) = (some 0xFFFFFFFF, some 4) := by decide
theorem test_iadd_imm_signed : run3 (.iaddImm 3 1 127 0) 5 0 = some 4 := by decide
theorem test_and_imm_signed : run3 (.andImm 3 1 64 0) 0xFFFFFFFF 0 = some 0xFFFFFFC0 := by decide
theorem test_movi_wide : vOf (exec (.movi 3 5 0) (withL (fun l => { l with hint := { imm := some 2 } }) (all4 []))) 0 3 = some 261 := by
  decide
theorem test_mov_not : run3 (.mov 3 1 0) 7 0 = some 7 ∧ run3 (.not 3 1 0) 7 0 = some 0xFFFFFFF8 := by decide
theorem test_iabs_least : run3 (.iabsI32 3 1 0) 0x80000000 0 = some 0x80000000 := by decide
theorem test_ineg : run3 (.inegI32 3 1 0) 1 0 = some 0xFFFFFFFF := by decide
theorem test_popc_clz_brev : run3 (.popc 3 1 0) 0xF0F 0 = some 8 ∧ run3 (.clz 3 1 0) 0 0 = some 32 ∧ run3 (.clz 3 1 0) 1 0 = some 31 ∧
    run3 (.brev 3 1 0) 1 0 = some 0x80000000 := by decide
theorem test_mov_lane_number : vOf (exec (.movSpecial 3 1 0) (all4 [])) 2 3 = some 2 := by decide
theorem test_imulh : run3 (.imulhI32 3 1 0) 0xFFFFFFFF 0 0xFFFFFFFF = some 0 ∧
    run3 (.imulhN32 3 1 0) 0xFFFFFFFF 0 0xFFFFFFFF = some 0xFFFFFFFE := by decide
theorem test_imin_imax : run3 (.iminI32 3 1 0) 0xFFFFFFFF 0 1 = some 0xFFFFFFFF ∧ run3 (.iminN32 3 1 0) 0xFFFFFFFF 0 1 = some 1 ∧
    run3 (.imaxI32 3 1 0) 0xFFFFFFFF 0 1 = some 1 ∧ run3 (.imaxN32 3 1 0) 0xFFFFFFFF 0 1 = some 0xFFFFFFFF := by decide
theorem test_rotl : run3 (.rotl 3 1 0) 36 0 0x80000001 = some 0x18 := by decide
theorem test_bfx : run3 (.bfxI32 3 1 0) 0x0404 0 0x80 = some 0xFFFFFFF8 ∧ run3 (.bfxN32 3 1 0) 0x0404 0 0x80 = some 8 := by decide
theorem test_bfi : vOf (exec (.bfi 3 1 0) (withL (fun l => { l with hint := { xv := some ⟨0, 0, 0, 2, 0, 0⟩ } })
    (all4 [(1, 0xAB), (2, 0x0808), (3, 0x11111111)]))) 0 3 = some 0x1111AB11 := by decide
theorem test_iadd_sat : run3 (.iaddI32Sat 3 1 0) 1 0 0x7FFFFFFF = some 0x7FFFFFFF ∧ run3 (.iaddN32Sat 3 1 0) 1 0 0xFFFFFFFF = some 0xFFFFFFFF := by
  decide
theorem test_isub_sat : run3 (.isubI32Sat 3 1 0) 1 0 0x80000000 = some 0x80000000 ∧ run3 (.isubN32Sat 3 1 0) 2 0 1 = some 0 := by decide
theorem test_guard_keeps : vOf (exec (.iadd 3 1 2 1) (withL (fun l => { l with p := if l.id = 1 then 2 else 0 })
    (all4 [(1, 1), (2, 1), (3, 9)]))) 0 3 = some 9 := by decide
theorem test_zero_inactive : vOf (exec (.iadd 3 1 2 1) (withL (fun l => { l with hint := { xv := some ⟨0, 0, 0, 0, 1, 0⟩ } })
    (all4 [(1, 1), (2, 1), (3, 9)]))) 0 3 = some 0 := by decide

/-! ### Floats, packed and pixel words, conversion (R278 to R288) -/

theorem test_fadd_tie : run3 (.faddF32 3 1 2 0) 0x4B800000 0x3F800000 = some 0x4B800000 := by decide
theorem test_fsub_signed_zero : run3 (.fsubF32 3 1 2 0) 0x3F800000 0x3F800000 = some 0 := by decide
theorem test_fmul : run3 (.fmulF32 3 1 2 0) 0x40400000 0xC0000000 = some 0xC0C00000 := by decide
theorem test_ffma_fused : run3 (.ffmaF32 3 1 2 0) 0x3F800001 0x3F800001 0xBF800002 = some 0x28800000 := by decide
theorem test_f16x2 : run3 (.faddF16x2 3 1 2 0) 0x3C003C00 0x3C004000 = some 0x40004200 ∧
    run3 (.fmulF16x2 3 1 2 0) 0x40003C00 0x40004000 = some 0x44004000 ∧
    run3 (.ffmaF16x2 3 1 2 0) 0x3C003C00 0x3C003C00 0x3C000000 = some 0x40003C00 := by decide
theorem test_bf16x2 : run3 (.faddBf16x2 3 1 2 0) 0x3F803F80 0x3F804000 = some 0x40004040 ∧
    run3 (.fmulBf16x2 3 1 2 0) 0x40003F80 0x40004000 = some 0x40804000 ∧
    run3 (.ffmaBf16x2 3 1 2 0) 0x3F803F80 0x3F803F80 0x3F800000 = some 0x40003F80 := by decide
theorem test_frnd : run3 (.frnd 3 1 0 0) 0x40200000 0 = some 0x40000000 := by decide
theorem test_frcp : run3 (.frcp 3 1 0 0) 0x40000000 0 = some 0x3F000000 ∧ run3 (.frcp 3 1 0 0) 0x80000000 0 = some 0xFF800000 := by decide
theorem test_roots : run3 (.fsqrt 3 1 0 0) 0x40800000 0 = some 0x40000000 ∧ run3 (.frsq 3 1 0 0) 0x40800000 0 = some 0x3F000000 ∧
    run3 (.fsqrt 3 1 0 0) 0xBF800000 0 = some 0x7FC00000 := by decide +kernel
theorem test_exp2_log2 : run3 (.fexp2 3 1 0 0) 0x40400000 0 = some 0x41000000 ∧ run3 (.flog2 3 1 0 0) 0x41000000 0 = some 0x40400000 ∧
    run3 (.flog2 3 1 0 0) 0 0 = some 0xFF800000 := by decide
theorem test_sin_cos_zero : run3 (.fsin 3 1 0 0) 0x80000000 0 = some 0x80000000 ∧ run3 (.fcos 3 1 0 0) 0 0 = some 0x3F800000 := by decide
theorem test_fmin_nan : run3 (.fmin 3 1 0 0) 0x3F800000 0 0x7FC00000 = some 0x3F800000 ∧
    run3 (.fmax 3 1 0 0) 0xBF800000 0 0x3F800000 = some 0x3F800000 := by decide
theorem test_fsub_two : run3 (.fsubTwoAddress 3 1 0 0) 0x3F800000 0 0x40000000 = some 0x3F800000 := by decide
theorem test_packed_sums : run3 (.hadd 3 1 2 0) 0xFFFF0001 0x00010002 = some 0x00000003 ∧
    run3 (.hsub 3 1 2 0) 0x00000001 0x00010002 = some 0xFFFFFFFF ∧ run3 (.hmad 3 1 2 0) 0x00020003 0x00040005 0x00010001 = some 0x00090010 ∧
    run3 (.hmul 3 1 0) 0x00020003 0 0x00040005 = some 0x0008000F := by decide
theorem test_packed_sat : run3 (.haddsI16x2 3 1 0) 0x7FFF8000 0 0x0001FFFF = some 0x7FFF8000 ∧
    run3 (.haddsN16x2 3 1 0) 0xFFFF0001 0 0x00010001 = some 0xFFFF0002 ∧ run3 (.hsubsI16x2 3 1 0) 0x00010001 0 0x80000000 = some 0x8000FFFF ∧
    run3 (.hsubsN16x2 3 1 0) 0x00020001 0 0x00010002 = some 0x00000001 := by decide
theorem test_packed_ends : run3 (.hminI16x2 3 1 0) 0xFFFF0001 0 0x00000000 = some 0xFFFF0000 ∧ run3 (.hminN16x2 3 1 0) 0xFFFF0001 0 0 = some 0 ∧
    run3 (.hmaxI16x2 3 1 0) 0xFFFF0001 0 0 = some 1 ∧ run3 (.hmaxN16x2 3 1 0) 0xFFFF0001 0 0 = some 0xFFFF0001 := by decide
theorem test_packed_shifts : run3 (.hshl 3 1 0) 0x00100001 0 0xFFFF0003 = some 0x00000006 ∧
    run3 (.hshrN16x2 3 1 0) 0x00040004 0 0x8000F000 = some 0x08000F00 ∧ run3 (.hshrI16x2 3 1 0) 0x00040004 0 0x8000F000 = some 0xF800FF00 := by
  decide
theorem test_hsel : vOf (exec (.hsel 3 1 0) (withL (fun l => { l with hint := { xv := some ⟨0, 0, 0, 2, 0, 0⟩ } })
    (all4 [(1, 0xAAAABBBB), (2, 1), (3, 0xCCCCDDDD)]))) 0 3 = some 0xCCCCBBBB := by decide
theorem test_hpack : run3 (.hpack 3 1 0) 0xFFFF0000 0 0x00012345 = some 0x80007FFF := by decide
theorem test_hunpack : run3 (.hunpackLoI16 3 1 0) 0x8001FFFE 0 = some 0xFFFFFFFE ∧ run3 (.hunpackHiI16 3 1 0) 0x8001FFFE 0 = some 0xFFFF8001 ∧
    run3 (.hunpackLoN16 3 1 0) 0x8001FFFE 0 = some 0xFFFE ∧ run3 (.hunpackHiN16 3 1 0) 0x8001FFFE 0 = some 0x8001 := by decide
theorem test_pixels : run3 (.pxavg 3 1 0) 0x00010002 0 0x00020002 = some 0x00020002 ∧ run3 (.pxclamp 3 1 0) 0x00080002 0 0x00090001 = some 0x00080002 ∧
    run3 (.pxexpLo 3 1 0) 0x00020001 0 = some 0x3F800000 ∧ run3 (.pxexpHi 3 1 0) 0x00020001 0 = some 0x40000000 ∧
    run3 (.pxpack 3 1 0) 0x40000000 0 0x3F800000 = some 0x00020001 := by decide
theorem test_hacs : (let r := exec (.hacs 4 1 2 0) (all4 [(1, 0x0014000A), (2, 0x00020001), (5, 1)])
    (vOf r 0 4, vOf r 0 5)) = (some 0x000C000B, some 4) := by decide
theorem test_dot_int : run3 (.dot4I8 3 1 2 0) 0x04030201 0x010101FF 5 = some 13 ∧ run3 (.dot4N8 3 1 2 0) 0x04030201 0x010101FF 0 = some 264 ∧
    run3 (.dot8I4 3 1 2 0) 0x11111111 0xFFFFFFFF 0 = some 0xFFFFFFF8 ∧ run3 (.dot8N4 3 1 2 0) 0x11111111 0xFFFFFFFF 0 = some 120 := by decide
theorem test_cvt : run3 (.cvtSrcLow 3 1 14 0 0) 0xC0400000 0 = some 0xFFFFFFFD ∧ run3 (.cvtSrcLow 3 1 3 0 0) 0x3F800000 0 = some 0x38 ∧
    run3 (.cvtSrcHigh 3 1 0 6 0) 0xFFFFFFFF 0 = some 0xBF800000 ∧ run3 (.cvtSrcLow 3 1 13 0 0) 0x40000000 0 = some 0x80 := by decide
theorem test_rndt_exact : run3 (.rndt 3 1 3 0) 0x3F800000 0 = some 0x3F800000 := by decide

/-! ### Uniform words, predicates, cross-lane (R256 to R270) -/

theorem test_uniform_pair : sOf (exec (.sadd 3 1 2 0) (withS [(1, 0xFFFFFFFF), (2, 2)] (all4 []))) 3 = some 1 ∧
    sOf (exec (.ssub 3 1 2 1) (withS [(1, 1)] (all4 []))) 3 = some 0xFFFFFFFF ∧ sOf (exec (.sand 3 1 255 1) (withS [(1, 0xABC)] (all4 []))) 3 = some 0xBC ∧
    sOf (exec (.sor 3 1 2 0) (withS [(1, 5), (2, 2)] (all4 []))) 3 = some 7 ∧ sOf (exec (.sxor 3 1 2 0) (withS [(1, 5), (2, 1)] (all4 []))) 3 = some 4 := by
  decide
theorem test_uniform_family : sOf (exec (.smov 3 1) (withS [(1, 9)] (all4 []))) 3 = some 9 ∧ sOf (exec (.smovi 3 200) (all4 [])) 3 = some 200 ∧
    sOf (exec (.smul 3 1 0) (withS [(1, 5), (3, 7)] (all4 []))) 3 = some 35 ∧ sOf (exec (.sshl 3 33 1) (withS [(3, 7)] (all4 []))) 3 = some 0 ∧
    sOf (exec (.sshr 3 31 1) (withS [(3, 0x80000000)] (all4 []))) 3 = some 1 ∧ sOf (exec (.sshrI32 3 31 1) (withS [(3, 0x80000000)] (all4 []))) 3 = some 0xFFFFFFFF := by
  decide
theorem test_uniform_bank : sOf (exec (.sadd 3 1 2 0) (withL (fun l => { l with hint := { uwin := some (1, 2, 0) } })
    (withS [(513, 10), (2, 1)] (all4 [])))) 259 = some 11 := by decide
theorem test_movs : sOf (exec (.movs 3 6) (all4 [])) 3 = some 4 ∧ sOf (exec (.movs 3 0x20) (all4 [])) 3 = some 0x7F800000 ∧
    causes (exec (.movs 3 1) (all4 [])) = [0x10] := by decide
theorem test_wrs_without_session : causes (exec (.wrs 0x20 1) (all4 [])) = [0x38] := by decide
theorem test_rdlane : sOf (exec (.rdlane 3 1 2) (at4 fun i => [(1, w32 (10 * i))])) 3 = some 20 := by decide
theorem test_scmp_sign : pOf (exec (.scmp 1 2 0 2 1) (withS [(1, 0xFFFFFFFF), (2, 1)] (all4 []))) 1 = [true, true, true, true] ∧
    pOf (exec (.scmp 1 2 1 2 1) (withS [(1, 0xFFFFFFFF), (2, 1)] (all4 []))) 1 = [false, false, false, false] := by decide
theorem test_setp : pOf (exec (.setpI32 1 2 1 2 2) (at4 fun i => [(1, w32 i), (2, 2)])) 1 = [true, true, false, false] ∧
    pOf (exec (.setpI32 1 2 1 2 2) (at4 fun i => [(1, w32 i), (2, 2)])) 2 = [false, false, true, true] ∧
    pOf (exec (.setpN32 1 0 1 2 4) (all4 [(1, 0xFFFFFFFF), (2, 2)])) 1 = [true, true, true, true] ∧
    pOf (exec (.setpF32 1 0 1 2 1) (all4 [(1, 0x7FC00000), (2, 0x7FC00000)])) 1 = [true, true, true, true] := by decide
theorem test_predicate_logic : (let s := withL (fun l => { l with p := if l.id = 0 then 0b1110 else if l.id = 1 then 0b0010 else 0 }) (all4 [])
    (pOf (exec (.pand 4 1 2 0 1 0) s) 4, pOf (exec (.por 4 1 2 0 0 0) s) 4, pOf (exec (.pxor 4 1 2 0 0 0) s) 4,
     pOf (exec (.pnot 4 1 0 0) s) 4, pOf (exec (.pmov 4 1 0 0) s) 4)) =
    ([false, true, false, false], [true, true, false, false], [false, true, false, false],
     [false, false, true, true], [true, true, false, false]) := by decide
theorem test_votes : (let s := withL (fun l => { l with p := if l.id = 1 ∨ l.id = 3 then 2 else 0 }) (all4 [])
    (sOf (exec (.ppop 3 1 0) s) 3, sOf (exec (.voteBallot 3 1 0) s) 3, pOf (exec (.voteAny 1 4 0) s) 4, pOf (exec (.voteAll 1 4 0) s) 4)) =
    (some 2, some 10, [true, true, true, true], [false, false, false, false]) := by decide
theorem test_shuffles : (let s := at4 fun i => [(1, w32 (10 + i)), (2, 3)]
    (vOf (exec (.shflIdx 3 1 2 0) s) 0 3, vOf (exec (.shflUp 3 1 1 0) s) 0 3, vOf (exec (.shflUp 3 1 1 0) s) 2 3,
     vOf (exec (.shflDown 3 1 3 0) s) 0 3, vOf (exec (.shflXor 3 1 1 0) s) 2 3)) =
    (some 13, some 10, some 11, some 13, some 13) := by decide
theorem test_bcast : vOf (exec (.bcast 3 1 2 0) (withS [(2, 5)] (at4 fun i => [(1, w32 (10 + i))]))) 3 3 = some 11 := by decide
theorem test_scans : (let s := withL (fun l => { l with p := if l.id = 2 then 2 else 0 }) (at4 fun i => [(1, w32 (1 + i))])
    (vOf (exec (.scan 3 1 0 0 0) s) 3 3, vOf (exec (.scan 3 1 1 0 0) s) 3 3, vOf (exec (.segscanIncl 3 1 1 0 0) s) 3 3,
     vOf (exec (.segscanExcl 3 1 1 0 0) s) 2 3, vOf (exec (.red 3 1 5 0) s) 0 3)) =
    (some 10, some 6, some 7, some 0, some 4) := by decide

/-! ### Memory, far accesses, synchronisation, copies (R297 to R315) -/

/-- The grid with 4,096 bytes of each die's Granary, joined to a plane session if there is one. -/
def grid4k : Grid := { placedGrid with packet := { placePacket with gran := 4096 }, joined := true }

/-- The state with that grid. -/
def withG (s : State) : State := { s with grids := smSet s.grids placeGrid grid4k }

/-- Tenant 0 of die 0 with a kept translation of its first 64 KiB to the same addresses, readable and writable. -/
def mapped (s : State) : State :=
  { s with
    dies := listMod s.dies 0 fun d => { d with ctl := [(0x4000, 0x10000)], sched := [(0x4000, 0x10000)] }
    trained := []
    tlb := [⟨0, 0, 0, 65536, 2 ^ 61 + 0xE0⟩] }

/-- Shared memory given from offset 0. -/
def withM (bs : List Byte) (s : State) : State := { s with blk := { s.blk with shared := memWrite [] 0 bs } }

/-- A far access of the focused block, not yet performed. -/
def acc (id kind loc : Nat) : FarAcc :=
  { id := id, op := 90, grid := placeGrid, blk := 0, wid := 0, core := 0, kind := kind, cls := 0, scope := 0, set := 0, flag := some 0
    loc := loc, size := 4, aop := 0, aty := 0, lanes := [(0, loc, 3, 7, 0)], got := [], stage := 0, acked := false, st := 0
    after := [], queueTo := 0, born := none, clk := [] }

/-- A warp with an unanswered acquire load. -/
def acquiring (s : State) : State := { s with farQ := [acc 50 1 0] }

/-- A queued shared store of four bytes. -/
def aStore (a : Nat) (x : Nat) : QStore := { serial := 0, space := .shared, addr := a, bytes := leBytes 4 x, after := [], op := none, who := 0, clk := [] }

/-- The warp's store queue given. -/
def withQ (q : List QStore) (s : State) : State := { s with w := { s.w with queue := q } }

theorem test_lds : vOf (exec (.ldsB32 3 1 1 0) (withM (leBytes 8 0x1122334455667788) (all4 []))) 0 3 = some 0x11223344 ∧
    vOf (exec (.ldsB64 4 1 0 0) (withM (leBytes 8 0x1122334455667788) (all4 []))) 0 5 = some 0x11223344 := by decide
theorem test_lds_sees_queue : vOf (exec (.ldsB32 3 1 0 0) (withQ [aStore 0 5, aStore 2 0xABCD] (all4 []))) 0 3 = some 0xABCD0005 := by decide
theorem test_lds_misaligned : causes (exec (.ldsB32 3 1 0 0) (at4 fun i => [(1, w32 i)])) = [0x20] ∧
    causes (exec (.ldsB32 3 1 0 0) (all4 [(1, 0x80000)])) = [0x22] := by decide
theorem test_sts : after (exec (.stsB32 2 1 1 0) (at4 fun i => [(1, w32 (8 * i)), (2, w32 i)])) (fun t =>
    t.w.queue.map (fun q => (q.addr, q.bytes)) == [(4, leBytes 4 0), (12, leBytes 4 1), (20, leBytes 4 2), (28, leBytes 4 3)]) = true ∧
    after (exec (.stsB64 2 1 0 0) (all4 [(2, 1), (3, 2)])) (fun t => (t.w.queue.map (·.bytes)).head? == some (leBytes 8 0x200000001)) = true := by
  decide
theorem test_granary : (let s := withG (all4 [(2, 7)])
    (after (exec (.stgB32 2 1 0 0) s) fun t => t.w.queue.map (·.space) == List.replicate 4 (.granary 0),
     after (exec (.stgB64 2 1 0 0) s) fun t => t.w.queue.length == 4,
     causes (exec (.ldgB32 3 1 0 0) (all4 [])), causes (exec (.ldgB64 4 1 0 0) (withG (all4 [(1, 4096)]))))) =
    (true, true, [0x23], [0x23]) := by decide
theorem test_spill : after (exec (.stk 2 1 3 0) (all4 [(2, 7)])) (fun t => t.w.queue.map (fun q => (q.space, q.addr)) ==
    [(.spill 0, 12), (.spill 1, 12), (.spill 2, 12), (.spill 3, 12)]) = true ∧
    vOf (exec (.ldk 3 1 0 0) (withL (fun l => { l with spill := memWrite [] 0 (leBytes 4 (l.id + 9)) }) (all4 []))) 2 3 = some 11 ∧
    causes (exec (.ldk 3 1 0 0) (all4 [(1, 16384)])) = [0x21] := by decide
theorem test_sld : after (exec (.sld 3 1 1) (withG (all4 []))) (fun t => t.w.gloads.map (fun x => (x.addr, x.size, x.reg, x.dest)) ==
    [(4, 4, 3, .uniform)]) = true ∧ causes (exec (.sld 3 1 0) (withS [(1, 2)] (all4 []))) = [0x20] := by decide
theorem test_atom_add : (let r := exec (.atom 3 1 0 0 0 0) (withM (leBytes 4 5) (all4 [(3, 2)]))
    (vOf r 0 3, vOf r 3 3, after r fun t => memNat t.blk.shared 0 0 4 == 13)) = (some 5, some 11, true) := by decide
theorem test_atom_cas : (let r := exec (.atom 2 1 7 0 0 0) (withM (leBytes 4 5) (at4 fun i => [(2, 5), (3, w32 (i + 20))]))
    (vOf r 0 2, vOf r 1 2, after r fun t => memNat t.blk.shared 0 0 4 == 20)) = (some 5, some 20, true) := by decide
theorem test_fld : after (exec (.fld 4 2 0 0 0 2) (mapped (at4 fun i => [(2, w32 (4 * i))]))) (fun t => t.farQ.length == 1 &&
    t.w.pend.length == 4 && !(t.w.flag 0).ops.isEmpty && t.w.lanes.all (fun l => !l.arrival 0)) = true := by decide
theorem test_fldacq : after (exec (.fldacq 4 2 0 4 1 2) (mapped (at4 fun i => [(2, w32 (64 * i))]))) (fun t =>
    t.acquires.length == 4 && !(t.w.flag 1).ops.isEmpty) = true := by decide
theorem test_fst : after (exec (.fst 4 2 1 0 0 0) (mapped (at4 fun i => [(2, w32 i), (4, 0x1FF)]))) (fun t =>
    t.farQ.map (fun x => (x.kind, x.size, x.lanes.map (·.2.2.2.1))) == [(2, 1, [0xFF, 0xFF, 0xFF, 0xFF])]) = true := by decide
theorem test_fstrel : after (exec (.fstrel 4 2 0 5 0 7) (mapped (all4 []))) (fun t => t.farQ.map (fun x => (x.kind, x.set)) == [(3, 7)]) = true := by
  decide
theorem test_fatom : after (exec (.fatom 4 2 0 0 0 0 0) (mapped (all4 []))) (fun t => t.farQ.map (·.kind) == [4, 4, 4, 4]) = true := by decide
theorem test_far_traps : causes (exec (.fld 4 2 0 0 0 2) (mapped (all4 [(2, 2)]))) = [0x20] ∧
    causes (exec (.fst 4 2 0 0 0 2) (mapped (all4 [(3, 0x2000000)]))) = [0x24] ∧ causes (exec (.fld 4 2 0 0 0 2) (all4 [])) = [0x25] := by decide
theorem test_fence : after (exec (.fnc 4 0) (all4 [])) (fun t => !t.stalled) = true ∧
    after (exec (.fnc 4 0) { all4 [] with farQ := [acc 0 2 0] }) (fun t => t.stalled) = true := by decide
theorem test_hurdle_phase : after (exec (.hurdleArrive 1 3 0) (withM (leBytes 8 0x20004) (all4 []))) (fun t =>
    memNat t.blk.shared 0 0 8 == 0x100010004) = true := by decide
theorem test_hurdle_wait : after (exec (.hurdleWait 1 2 0) (withS [(2, 0)] (withM (leBytes 8 0x100000004) (all4 [])))) (fun t => !t.stalled) = true ∧
    after (exec (.hurdleWait 1 2 0) (withS [(2, 1)] (withM (leBytes 8 0x100000004) (all4 [])))) (fun t => t.stalled) = true := by decide
theorem test_waitst : after (exec (.waitst 1 2 0) (withS [(2, 5)] (withM (leBytes 8 0x50000) (all4 [])))) (fun t => !t.stalled) = true ∧
    after (exec (.waitst 1 2 0) (withS [(2, 6)] (withM (leBytes 8 0x5FFFF) (all4 [])))) (fun t => t.stalled) = true := by decide
theorem test_waitst_granary : after (exec (.waitstGranary 1 2 0) (withG (let s := withS [(2, 5)] (all4 [])
    { s with dies := listMod s.dies 0 fun d => { d with granary := memWrite [] 0 (leBytes 8 0x50000) } }))) (fun t => !t.stalled) = true := by decide
theorem test_waitst_far : after (exec (.waitstFar 4 2 0) { mapped (withS [(2, 5)] (all4 [])) with far := memWrite [] 0 (leBytes 8 0x40000) })
    (fun t => t.stalled) = true := by decide
theorem test_barb : after (exec (.barb 1) (withL (fun l => { l with p := if l.id < 2 then 2 else 0 }) (all4 []))) (fun t =>
    t.w.lanes.map (fun l => (l.arrived.isSome, l.pc)) == [(true, 4), (true, 4), (false, 8), (false, 8)]) = true := by decide
theorem test_copies : after (exec (.cpy 0 0 0 0) (all4 [])) (fun t => t.copies.map (·.kind) == [0]) = true ∧
    causes (exec (.cpyt 0 0 0 0) (all4 [])) = [0x27] ∧ causes (exec (.cpyq 0 0 0 0) (all4 [])) = [0x27] := by decide
theorem test_land : after (exec (.land 2) (withS [(2, 64), (3, 64)] (all4 []))) (fun t => !t.stalled) = true ∧
    causes (exec (.land 2) (withS [(2, 0xC0000000), (3, 64)] (all4 []))) = [0x27] := by decide

/-! ### Control, traps, hints, headers (R215, R224 to R228, R245 to R255, R341 to R353) -/

/-- PC, depth and handler bit of each lane after a step. -/
def pathOf (r : Res) : List (Word × Nat × Bool) := match r with
  | .next t => t.w.lanes.map fun l => (l.pc, l.depth, l.h)
  | _ => []

/-- Lanes 0 and 1 with p1 set. -/
def halfP (s : State) : State := withL (fun l => { l with p := if l.id < 2 then 2 else 0 }) s

theorem test_bra_target : pathOf (exec (.bra (2 ^ 21 - 2) 1) (halfP (all4 []))) = [(0, 0, false), (0, 0, false), (8, 0, false), (8, 0, false)] := by
  decide
theorem test_bru_all_or_none : pathOf (exec (.bru (2 ^ 21 - 2) 1) (halfP (all4 []))) = List.replicate 4 (8, 0, false) ∧
    pathOf (exec (.bru (2 ^ 21 - 2) 0) (all4 [])) = List.replicate 4 (0, 0, false) := by decide
theorem test_branch_outside : causes (exec (.bra (2 ^ 21 - 3) 0) (all4 [])) = [0x14] ∧ causes (exec (.bra 2 0) (all4 [])) = [0x14] ∧
    causes (exec (.bra 1 0) (all4 [])) = [0x10] := by decide
theorem test_call : pathOf (exec (.call (2 ^ 21 - 2) 1) (halfP (all4 []))) = [(0, 1, false), (0, 1, false), (8, 0, false), (8, 0, false)] := by decide
theorem test_loopn : (let r := exec (.loopn 5 (2 ^ 13 - 2) 0) (withS [(5, 2)] (all4 []))
    (pathOf r, sOf r 5)) = (List.replicate 4 (0, 0, false), some 1) := by decide
theorem test_callo_unknown : (let r := exec (.callo 5 256) (withS [(5, 0x101)] (all4 []))
    (pathOf r, sOf r 45, sOf r 42)) = (List.replicate 4 (0, 1, true), some 1, some 1) := by decide
theorem test_ret : pathOf (exec (.ret 1) (withL (fun l => { l with chain := [⟨0x40, none⟩], depth := 1 }) (halfP (all4 [])))) =
    [(0x40, 0, false), (0x40, 0, false), (8, 1, false), (8, 1, false)] ∧ causes (exec (.ret 0) (all4 [])) = [0x13] := by decide
theorem test_exit : after (exec (.exit 1) (halfP (all4 []))) (fun t => t.w.lanes.map (·.st) == [.exited, .exited, .runnable, .runnable]) = true := by
  decide
theorem test_join_without_children : pathOf (exec (.join 0) (all4 [])) = List.replicate 4 (8, 0, false) := by decide
theorem test_launch_not_leader : causes (exec (.launch 2 0) (all4 [])) = [0x17] ∧
    causes (exec (.launch 2 1) (withS [(2, 32)] (withL (fun l => { l with p := if l.id = 0 then 2 else 0 }) (all4 [])))) = [0x20] := by decide
theorem test_reform : after (exec (.reform 1 (2 ^ 14 - 2) 1) (halfP (all4 [(1, 0x305)]))) (fun t => t.w.lanes.map (·.st) ==
    [.vacant, .vacant, .runnable, .runnable] && t.blk.sheaves.map (fun x => (x.pc, x.key, x.threads.length)) == [(0, 5, 2)]) = true := by decide
theorem test_waitf : pathOf (exec (.waitf 1 0) (all4 [])) = List.replicate 4 (8, 0, false) ∧
    after (exec (.waitf 1 0) (let s := all4 []; { s with w := s.w.mark 0 9 false })) (fun t => t.stalled) = true := by decide
theorem test_waitl : after (exec (.waitl 1 0) (withL (fun l => if l.id = 1 then l.setArrival 0 false else l) (all4 []))) (fun t =>
    t.w.lanes.map (·.st) == [.runnable, .late, .runnable, .runnable]) = true := by decide
theorem test_trap : (let r := exec (.trap 7 1) (halfP (all4 []))
    (pathOf r, sOf r 42, sOf r 44, sOf r 45)) =
    ([(0, 1, true), (0, 1, true), (8, 0, false), (8, 0, false)], some 7, some 4, some 2) := by decide
theorem test_trap_in_handler : causes (exec (.trap 7 0) (withL (fun l => { l with h := true }) (all4 []))) = [0x1A] := by decide
theorem test_eret : pathOf (exec (.eret 0) (withL (fun l => { l with h := true, chain := [⟨0x40, none⟩], depth := 1 }) (all4 []))) =
    List.replicate 4 (0x40, 0, false) ∧ causes (exec (.eret 0) (all4 [])) = [0x10] := by decide
theorem test_nop : pathOf (exec (.nop 0) (all4 [])) = List.replicate 4 (8, 0, false) := by decide
theorem test_bkpt : (let r := exec (.bkpt 0) (all4 []); (causes r, pathOf r)) = ([0x3D], List.replicate 4 (8, 0, false)) := by decide
theorem test_svc_without_ring : after (exec (.svc 8 3 0) (all4 [])) (fun t => t.stalled) = true := by decide
theorem test_svc : after (exec (.svc 8 3 1) (let s := withL (fun l => { l with p := if l.id = 0 then 2 else 0 }) (all4 [(8, 5)])
    { s with dies := listMod s.dies 0 fun d => { d with ctl := [(0xA8, 0x80000007)], sched := [(0xA8, 0x80000007)] }, trained := [] })) (fun t =>
    t.w.parked.isSome && t.calls.map (fun c => (c.num, c.mask, c.slots)) == [(3, 1, 2)] && (t.die 0).ctlNat 0xB0 == 2) = true := by decide

/-- A warp whose lanes stand at a hint, with two words of the body left. -/
def atHint : State := withL (fun l => { l with clause := some ⟨0, 1, 2, 0⟩ }) (all4 [])

/-- The hint run of lane 0 after a step. -/
def hintOf (r : Res) : Option HintRun := match r with
  | .next t => (t.w.lanes[0]?).map (·.hint)
  | _ => none

theorem test_hints : hintOf (exec (.hintImm 5) atHint) = some { start := some 4, imm := some 5 } ∧
    hintOf (exec (.hintXv 1 0 2 3 1 0) atHint) = some { start := some 4, xv := some ⟨1, 0, 2, 3, 1, 0⟩ } ∧
    hintOf (exec (.hintUwin 1 2 3) atHint) = some { start := some 4, uwin := some (1, 2, 3) } ∧
    after (exec (.hintSched 1) atHint) (fun t => t.w.boost != 0) = true ∧ causes (exec (.hintImm 5) (all4 [])) = [0x10] := by decide

/-- A warp whose lanes stand at a clause header. -/
def atHeader : State := withL (fun l => { l with pc := 0, clause := none }) (all4 [])

theorem test_header : after (exec (.clauseHeader 0 2 3 4 0 0) atHeader) (fun t => t.w.lanes.map (fun l => (l.pc, l.clause)) ==
    List.replicate 4 (4, some ⟨2, 3, 5, 0⟩)) = true ∧ causes (exec (.clauseHeader 0 15 15 0 0 0) (all4 [])) = [0x10] := by decide
theorem test_header_waits : after (exec (.clauseHeader 1 15 15 0 0 0) (let s := atHeader; { s with w := s.w.mark 0 9 false })) (fun t =>
    t.stalled) = true := by decide

/-! ### Cube, planes, overlays (R317 to R338) -/

/-- A session with one group, its step as given. -/
def aGroup : Group := ⟨0, 0x3F000000, 0, 0x3F000000, 0, 0, 0, 0, 0, 0x3F800000, 0x3F800000, 0, 0, 0, 0x7F800000, false, false⟩

def aSession (st : StepState) : Session :=
  { tenant := 0, seed := 0, ls := 0x3F800000, n := 1, lsmin := 0x3F800000, lsmax := 0x47800000, clean := 0, step := st, ovf := false
    tensors := [(0, ⟨true, 0, 32, 0, 0⟩)], groups := [aGroup], upds := [], ops := [], stopped := [], deadSince := [], nextRound := 1, round := none
    key := 5, trust := [3] }

/-- The joined grid's session, with its step as given. -/
def inStep (st : StepState) (s : State) : State := { withG s with session := some (aSession st) }

/-- Only lane 0, the block leader, has p1 set. -/
def leader (s : State) : State := withL (fun l => { l with p := if l.id = 0 then 2 else 0 }) s

theorem test_baton_arm : after (exec (.batonArm 2 0 1 0) (all4 [])) (fun t => (smGet t.blk.batons 2).map (fun b => (b.expected, b.count)) ==
    some (4, 0)) = true ∧ causes (exec (.batonArm 2 0 2 0) (all4 [])) = [0x32] := by decide
theorem test_sign_unarmed : causes (exec (.sign 2 0) (all4 [])) = [0x31] := by decide
theorem test_acc : after (exec (.accz 3 0) (all4 [])) (fun t => (t.table 0).map (·.op) == [.accZero 3] && !(t.w.flag 0).ops.isEmpty) = true ∧
    causes (exec (.accz 192 0) (all4 [])) = [0x12] ∧ after (exec (.accld 3 1 0) (all4 [(1, 32)])) (fun t => (t.table 0).map (·.op) == [.accLoad 3 1 32]) = true ∧
    after (exec (.accst 3 1 0) (all4 [(1, 0x1000020)])) (fun t => (t.table 0).map (·.op) == [.accStore 3 2 32]) = true ∧
    causes (exec (.accst 3 1 0) (all4 [(1, 8)])) = [0x20] := by decide
theorem test_oprdy : pathOf (exec .oprdy (all4 [])) = List.replicate 4 (8, 0, false) ∧
    after (exec .oprdy (let s := all4 []; { s with w := { s.w with pend := [⟨90, 0, 3⟩] }, farQ := [acc 50 0 0] })) (fun t => t.stalled) = true := by decide
theorem test_step_open : after (exec (.stepOpen 1) (inStep .closed (leader (all4 [])))) (fun t =>
    t.session.map (fun x => (x.step, x.groups.map (fun g => (g.p1, g.bc1)))) == some (.open, [(0x3F000000, 0x3F000000)])) = true ∧
    causes (exec (.stepOpen 0) (inStep .closed (all4 []))) = [0x17] ∧ causes (exec (.stepOpen 1) (inStep .open (leader (all4 [])))) = [0x38] := by decide
theorem test_step_close : after (exec (.stepClose 0 0 1) (inStep .open (leader (all4 [])))) (fun t =>
    t.session.map (fun x => (x.step, x.ops.length)) == some (.closing, 1)) = true := by decide
theorem test_merge : after (exec (.merge 0 1) (inStep .closed (leader (all4 [])))) (fun t =>
    t.session.map (fun x => x.ops.map (fun o => (o.close, o.stage))) == some [(false, 1)]) = true := by decide
theorem test_upd_outside_step : causes (exec (.upd 0 0 0) (inStep .closed (all4 []))) = [0x38] ∧
    causes (exec (.upd 0 0 0) (inStep .open (withS [(4, 5)] (all4 [])))) = [0x39] := by decide
theorem test_overlay_tokens : sOf (exec (.ovq 3 1) (all4 [])) 3 = some 0 ∧
    sOf (exec (.ovq 3 1) { withS [(1, 1)] (all4 []) with loft := [(0, { placedCode 0 with gen := 1, base := [] })] }) 3 = some 0x02000001 := by decide
theorem test_ovld_loads : (let q := all4 []
    let s := { q with loft := [], dies := listMod q.dies 0 fun d => { d with ctl := [(0x1000, 0x80000)], sched := [(0x1000, 0x80000)] }, grids := smSet [] placeGrid { placedGrid with dir := [⟨0, 0, 0, 0⟩, ⟨64, 4096, 1, 77⟩] } }
    (sOf (exec (.ovldImm 3 1 0) s) 3, after (exec (.ovldImm 3 1 0) s) fun t => t.loft.map (fun e => (e.2.hash, e.2.st)) == [(77, .loading)],
     causes (exec (.ovldImm 3 2 0) s), causes (exec (.ovldReg 3 4 0) (withS [(4, 256)] s)))) = (some 1, true, [0x14], [0x14]) := by decide
theorem test_ovpin_unknown : after (exec (.ovpin 3 0) (all4 [])) (fun t => (t.w.flag 0).status == 6) = true ∧
    after (exec (.ovunpin 3 0) (all4 [])) (fun t => (t.w.flag 0).status == 6) = true ∧ pathOf (exec (.ovev 3) (all4 [])) = List.replicate 4 (8, 0, false) := by
  decide

/-! ### States that meet the hypotheses of the claims, claim by claim -/

/-- With a vector prefix: vc is `vc`. -/
def withXv (vc : Nat) (s : State) : State := withL (fun l => { l with hint := { xv := some ⟨0, 0, 0, vc, 0, 0⟩ } }) s

theorem witness_IntegerWords : (∀ i ∈ [Instr.iadd 3 1 2 0, .isub 3 1 2 0, .imul 3 1 2 0, .imad 3 1 2 0, .and 3 1 2 0, .or 3 1 2 0, .xor 3 1 2 0,
    .shl 3 1 2 0, .shr 3 1 2 0, .sar 3 1 2 0, .sel 3 1 2 0, .lea 4 2 1 0, .mov 3 1 0, .not 3 1 0, .iabsI32 3 1 0, .inegI32 3 1 0,
    .popc 3 1 0, .clz 3 1 0, .brev 3 1 0, .movSpecial 3 1 0, .imulhI32 3 1 0, .imulhN32 3 1 0, .iminI32 3 1 0, .iminN32 3 1 0,
    .imaxI32 3 1 0, .imaxN32 3 1 0, .rotl 3 1 0, .bfxI32 3 1 0, .bfxN32 3 1 0, .iaddI32Sat 3 1 0, .iaddN32Sat 3 1 0, .isubI32Sat 3 1 0,
    .isubN32Sat 127 127 15], Ready i (all4 [])) ∧ Ready (.bfi 3 1 0) (withXv 2 (all4 [])) := by unfold Ready; decide

theorem witness_ImmediateWords : ∀ s ∈ [all4 [], withL (fun l => { l with hint := { imm := some 2 } }) (all4 [])],
    ∀ i ∈ [Instr.iaddImm 3 1 127 0, .andImm 3 1 64 0, .movi 3 5 0], Ready i s := by unfold Ready; decide

theorem witness_FloatWords : ∀ i ∈ [Instr.faddF32 3 1 2 0, .fsubF32 3 1 2 0, .fmulF32 3 1 2 0, .ffmaF32 3 1 2 0, .faddF16x2 3 1 2 0,
    .fmulF16x2 3 1 2 0, .ffmaF16x2 3 1 2 0, .faddBf16x2 3 1 2 0, .fmulBf16x2 3 1 2 0, .ffmaBf16x2 3 1 2 0, .frnd 3 1 0 0, .frcp 3 1 1 0,
    .frsq 3 1 2 0, .fsqrt 3 1 0 0, .fexp2 3 1 0 0, .flog2 3 1 0 0, .fsin 3 1 0 0, .fcos 3 1 0 0, .fmin 3 1 0 0, .fmax 3 1 0 0,
    .fsubTwoAddress 3 1 2 0], Ready i (all4 []) := by unfold Ready; decide

theorem witness_FloatExactness : (3 : Nat) ≠ 0 ∧ xrRcp (.num false 1 1) ≠ .nan ∧ xrSqrt (.num false 4 0) ≠ .nan := by decide

theorem witness_Rounding : (6 : Nat) ≤ 6 ∧ 7 < 2 ^ fmtBits 6 ∧ decodeFmt 6 7 ≠ .nan ∧ XR.lt (decodeFmt 3 (maxCode 3)) (.num false 449 0) = true ∧
    XR.lt (decodeFmt 3 (maxCode 3)) (.num false 448 0) = false ∧ rtf (.num false 447 0) 3 2 0 < maxCode 3 := by decide

theorem witness_PackedWords : (∀ i ∈ [Instr.hadd 3 1 2 0, .hsub 3 1 2 0, .hmad 3 1 2 0, .hmul 3 1 0, .haddsI16x2 3 1 0, .haddsN16x2 3 1 0,
    .hsubsI16x2 3 1 0, .hsubsN16x2 3 1 0, .hminI16x2 3 1 0, .hminN16x2 3 1 0, .hmaxI16x2 3 1 0, .hmaxN16x2 3 1 0, .hshl 3 1 0,
    .hshrN16x2 3 1 0, .hshrI16x2 3 1 0, .hpack 3 1 0, .hunpackLoI16 3 1 0, .hunpackHiI16 3 1 0, .hunpackLoN16 3 1 0, .hunpackHiN16 3 1 0,
    .pxavg 3 1 0, .pxsad 3 1 0, .pxclamp 3 1 0, .pxpack 3 1 0, .pxexpLo 3 1 0, .pxexpHi 3 1 0, .hacs 4 1 2 0], Ready i (all4 [])) ∧
    Ready (.hsel 3 1 0) (withXv 2 (all4 [])) := by unfold Ready; decide

theorem witness_ConvertWords : ∀ i ∈ [Instr.dot4I8 3 1 2 0, .dot4N8 3 1 2 0, .dot8I4 3 1 2 0, .dot8N4 3 1 2 0, .dot4E4m3 3 2 1 0,
    .dot4E5m2 3 2 1 0, .dot8E2m1 3 2 1 0, .cvtSrcLow 3 1 15 7 0, .cvtSrcHigh 3 1 13 7 0, .rndt 3 1 6 0], Ready i (all4 []) := by
  unfold Ready; decide

theorem witness_UniformWords : ∀ i ∈ [Instr.sadd 3 1 2 0, .ssub 3 1 2 1, .sand 3 1 2 0, .sor 3 1 2 0, .sxor 3 1 2 0, .smov 3 1, .smovi 3 255,
    .smul 3 1 1, .sshl 3 1 0, .sshr 3 1 0, .sshrI32 3 1 0], Ready i (all4 []) := by unfold Ready; decide

theorem witness_SpecialRegisters : (all4 []).lead.isSome = true ∧ (all4 []).joined = none ∧ (all4 []).grid? = some placedGrid ∧
    (∀ c ∈ [2, 3, 4, 5, 6, 7, 8, 9, 0x0A, 0x0B, 0x0C, 0x0D, 0x10, 0x1F, 0x20, 0x2F, 0x30, 0x3B], Ready (.movs 4 c) (all4 [])) ∧
    (inStep .open (all4 [])).joined = some (aSession .open) ∧ (aSession .open).groups[0]? = some aGroup ∧
    Ready (.wrs 0x20 1) (all4 []) ∧ Ready (.wrs 0x20 1) (inStep .open (all4 [])) ∧
    (∀ c ∈ [0, 1, 6, 0x0C, 0x20], Ready (.movSpecial 4 c 0) (all4 [])) ∧
    (let v : View := ⟨[], [], 0, [5]⟩; Ready (.movs 4 0x20) { all4 [] with w := { (all4 []).w with view := some v } }) ∧
    Ready (.rdlane 3 1 3) (all4 []) ∧ (all4 []).w.lanes[3]?.isSome = true := by unfold Ready; decide

theorem witness_UniformCompare : ∀ cc < 6, ∀ u < 2, Ready (.scmp 1 2 u cc 3) (all4 []) := by unfold Ready; decide

theorem witness_PredicateWords : ∀ i ∈ [Instr.setpI32 1 2 1 2 5, .setpN32 1 2 1 2 0, .setpF32 0 0 1 2 0, .pand 1 2 3 1 0 0, .por 1 2 3 0 1 0,
    .pxor 1 2 3 0 0 1, .pnot 1 2 0 0, .pmov 1 2 1 0, .ppop 3 1 0, .voteAny 1 2 0, .voteAll 1 2 1, .voteBallot 3 1 0], Ready i (all4 []) := by
  unfold Ready; decide

theorem witness_CrossLaneMoves : ∀ i ∈ [Instr.shflIdx 3 1 2 0, .shflUp 3 1 3 0, .shflDown 3 1 0 0, .shflXor 3 1 3 0, .bcast 3 1 2 0],
    Ready i (all4 []) := by unfold Ready; decide

/-- A ragged tile of two rows, of lengths 1 and 2, at offset 16, elements from 32, four to a row. -/
def ragged (w0 w1 w2 : Word) (s : State) : State :=
  withS [(4, w0), (5, w1), (6, w2), (7, 0x20004)] (withM ([1, 0, 2, 0] ++ List.replicate 100 0) s)

theorem witness_ScanWords : (∀ i ∈ [Instr.scan 3 1 0 7 0, .scan 3 1 1 0 0, .segscanIncl 3 1 1 4 0, .segscanExcl 3 1 1 4 0, .red 3 1 2 0,
    .glean 3 1 4 0], Ready i (all4 [])) ∧
    (all4 []).actives 1 = [] ∧ (all4 []).actives 0 ≠ [] ∧ (all4 []).acquires = [] ∧
    Ready (.glean 3 1 4 0) (ragged 0x80000 0 0 (all4 [])) ∧ Ready (.glean 3 1 4 0) (ragged 1 0 0 (all4 [])) ∧
    Ready (.glean 3 1 4 0) (ragged 0x7FFFE 0 0x10000 (all4 [])) ∧ (all4 []).sharedSize < 0x7FFFE + 2 * 1 + 2 ∧
    Ready (.glean 3 1 4 0) (acquiring (ragged 0 32 0 (all4 []))) ∧ (acquiring (all4 [])).acquires ≠ [] ∧
    Ready (.glean 3 1 4 0) (ragged 0 32 0 (all4 [])) ∧ 32 + 4 * (1 * 4 + 1) + 4 ≤ (all4 []).sharedSize ∧
    after (exec (.glean 3 1 4 0) (ragged 0 32 0 (all4 []))) (fun t => t.w.sraw 6 == 0x20000 && t.w.lanes.map (·.pget 1) == [true, true, false, true]) = true := by
  unfold Ready; decide

theorem witness_OnChipLoads : Ready (.ldsB32 3 1 127 0) (all4 []) ∧ Ready (.ldsB64 4 1 0 0) (all4 []) ∧ Ready (.ldgB32 3 1 0 0) (withG (all4 [])) ∧
    Ready (.ldgB64 4 1 0 0) (withG (all4 [])) ∧ Ready (.ldk 3 1 0 0) (all4 []) ∧ Ready (.sld 3 1 0) (withG (all4 [])) ∧
    (withG (all4 [])).granaryOk placeGrid 0 4088 8 = true ∧ (withG (all4 [])).granaryOk placeGrid 0 4092 8 = false ∧
    (all4 []).sharedSize = 524288 ∧ (all4 []).pkt.spl * 256 = 16384 ∧ (all4 []).acquires = [] ∧ (acquiring (all4 [])).acquires ≠ [] := by
  unfold Ready; decide

theorem witness_OnChipStores : Ready (.stsB32 3 1 0 0) (all4 []) ∧ Ready (.stsB64 4 1 0 0) (all4 []) ∧ Ready (.stgB32 3 1 0 0) (withG (all4 [])) ∧
    Ready (.stgB64 4 1 0 0) (withG (all4 [])) ∧ Ready (.stk 3 1 0 0) (all4 []) ∧
    ((at4 fun i => [(1, w32 i)]).actives 0).find? (fun l => ((at4 fun i => [(1, w32 i)]).vget l 1).toNat % 4 != 0) ≠ none ∧
    ((all4 [(1, 0x80000)]).actives 0).find? (fun l => !(all4 []).sharedOk ((all4 [(1, 0x80000)]).vget l 1).toNat 4) ≠ none ∧
    (all4 []).granaryOk placeGrid 0 0 4 = false := by unfold Ready; decide

theorem witness_OnChipAtomics : Ready (.atom 4 1 7 0 0 0) (all4 []) ∧ Ready (.atom 4 1 0 1 2 0) (withG (all4 [])) ∧ (all4 []).w.queue = [] ∧
    (withQ [aStore 0 1] (all4 [])).w.queue ≠ [] ∧ (all4 []).copies = [] ∧ (all4 []).order = {} ∧ (all4 []).dies.length = 4 ∧
    atomOp 2 1 0xFFFFFFFF 1 0 = 1 ∧ XR.lt (decodeFmt 0 0) (decodeFmt 0 0x3F800000) = true := by unfold Ready; decide

theorem witness_FarIssues : let s := mapped (all4 [])
    (∀ i ∈ [Instr.fld 4 2 0 0 0 3, .fst 4 2 1 5 0 0, .fldacq 4 2 2 4 1 1, .fstrel 4 2 0 0 0 7, .fatom 4 2 0 0 0 7 2], Ready i s) ∧
    s.w.lanes.Pairwise (fun l m => l.id < m.id) ∧ (∀ l ∈ s.w.lanes, s.w.lanes[l.id]? = some l) ∧
    ∀ need < 3, s.heldVa 0 0 0 = false ∧ s.translate s.dieNo s.blk.tenant need 0 = .ok 0 := by unfold Ready; decide

theorem witness_FarTraps : let s := mapped (all4 [])
    Ready (.waitstFar 4 2 0) s ∧ 2 % 4 ≠ 0 ∧ 2 ^ 57 ≤ 2 ^ 32 * 0x2000000 ∧
    ({ s with shoots := [⟨0, 0, 0, 4096, [], [50], 0⟩], farQ := [acc 50 0 0] } : State).heldVa 0 0 0 = true ∧
    s.translate 0 0 0 65536 ≠ .ok 65536 ∧ (all4 []).translate 0 0 0 0 = .bad 0x41 0 := by unfold Ready; decide

theorem witness_Fences : Ready (.fnc 7 5) (all4 []) ∧ Ready (.fnc 4 0) { all4 [] with farQ := [acc 0 2 0] } ∧ (acc 0 2 0).id < (all4 []).serial ∧
    (acc 0 2 0).cls = 0 ∧ (acc 0 2 0).stage < 2 := by unfold Ready; decide

theorem witness_HurdlesAndBarrier : Ready (.hurdleArrive 1 127 0) (all4 []) ∧ Ready (.hurdleWait 1 2 0) (all4 []) ∧ Ready (.barb 0) (all4 []) ∧
    ((all4 []).issuing.filter (·.pget 0)).head?.isSome = true ∧ (all4 []).issuing.filter (·.pget 1) = [] ∧
    causes (exec (.hurdleArrive 1 1 0) (all4 [(1, 4)])) = [0x20] ∧ causes (exec (.hurdleArrive 1 1 0) (all4 [(1, 0x80000)])) = [0x22] ∧
    causes (exec (.hurdleWait 1 2 0) (withM (leBytes 8 0x10000) (all4 []))) = [0x26] ∧
    after (exec (.hurdleWait 1 2 0) (acquiring (withM (leBytes 8 1) (all4 [])))) (fun t => t.stalled) = true := by unfold Ready; decide

theorem witness_StampWaits : Ready (.waitst 1 2 0) (all4 []) ∧ Ready (.waitstGranary 1 2 0) (withG (all4 [])) ∧
    Ready (.waitstFar 4 2 0) (mapped (all4 [])) ∧ (mapped (all4 [])).translate 0 0 0 0 = .ok 0 ∧ (mapped (all4 [])).readFree 0 = true ∧
    Ready (.land 2) (withS [(2, 64), (3, 64)] (all4 [])) ∧
    Ready (.land 2) (withS [(2, 0), (3, 0)] (all4 [])) ∧
    Ready (.land 2) (withS [(2, 0xC0000000), (3, 0)] (all4 [])) ∧
    Ready (.land 2) (withS [(2, 0x7FFF0), (3, 64)] (all4 [])) ∧
    Ready (.land 2) (withS [(2, 0x40000000), (3, 64)] (all4 [])) := by unfold Ready; decide

theorem witness_ClauseHeaders : (all4 []).cur.isSome = true ∧ (all4 []).lead.map (·.clause.isSome) = some true ∧
    atHeader.lead.map (·.clause) = some none ∧ (Instr.clauseHeader 2 3 4 15 1 1).wf = true ∧ atHeader.free 4 = true ∧
    atHeader.accTrap 2 = false ∧ atHeader.w.anyBehind 0 0 = false ∧ atHeader.otherReady = false ∧
    (withL (fun l => if l.id = 3 then { l with depth := 1 } else l) atHeader).w.anyBehind 0 0 = true ∧
    (let s := atHeader
     let w : Warp := { s.w with flags := [(1, { ops := [], status := 0, cube := true, lost := true })] }
     ({ s with blk := { s.blk with accLost := true }, w := w } : State).accTrap 2) = true ∧ Ready (.waitf 2 0) (all4 []) := by unfold Ready; decide

theorem witness_Branches : Ready (.bra 0 0) (all4 []) ∧ Ready (.bru 0 0) (all4 []) ∧ Ready (.call 0 0) (all4 []) ∧ Ready (.loopn 1 0 0) (all4 []) ∧
    (all4 []).fetch 8 = .word plainHeader ∧ isHeader plainHeader = true ∧ (all4 []).fetch 12 = .word 0xCE000000 ∧ isHeader 0xCE000000 = false ∧
    (all4 []).fetch 16 = .past ∧ (withL (fun l => { l with depth := 255 }) (all4 [])).issuing.any (fun l => l.depth == 255) = true ∧
    (halfP (all4 [])).issuing.any (·.pget 1) = true ∧ (halfP (all4 [])).issuing.all (·.pget 1) = false := by unfold Ready; decide

theorem witness_ReturnsAndExits : Ready (.ret 0) (all4 []) ∧ Ready (.eret 0) (all4 []) ∧ Ready (.exit 0) (all4 []) ∧ (all4 []).blk.batons = [] ∧
    (∀ e ∈ (all4 []).loft, e.2.st ≠ .evictPending) ∧ (all4 []).issuing.any (fun l => l.depth == 0 && !l.h) = true := by unfold Ready; decide

theorem witness_CompletionFlags : Ready (.waitf 0xFFF 0) (all4 []) ∧ Ready (.waitl 1 0) (all4 []) ∧ Warp.empty.flag 11 = Flag.clear ∧
    (Warp.empty.mark 3 9 false).flagOf 9 = some 3 ∧ smWf (Warp.empty.mark 3 9 false).flags = true ∧ ((Warp.empty.mark 3 9 false).flag 3).ops ≠ [] := by
  unfold Ready; decide

theorem witness_OverlayCallsAndTraps : Ready (.callo 1 256) (all4 []) ∧ Ready (.trap 255 0) (all4 []) ∧ (all4 []).tokEntry 0 0 0 = none ∧
    (all4 []).handlerOk = true ∧ (let s := withS [(1, 1)] (all4 [])
      ({ s with loft := [(0, { placedCode 0 with gen := 1 })] } : State).tokEntry 0 0 1).map (fun e => (e.1, e.2.st, e.2.ovx, e.2.entries)) =
      some (0, .resident, 0, [0]) := by unfold Ready; decide

theorem witness_NopsAndHints : Ready (.nop 0) (all4 []) ∧ Ready (.bkpt 0) (all4 []) ∧ atHint.clause = some ⟨0, 1, 2, 0⟩ ∧ atHint.cur.isSome = true ∧
    (∀ i ∈ [Instr.hintImm 0, .hintXv 0 0 0 0 0 0, .hintUwin 0 0 0, .hintSched 0], i.wf = true) := by unfold Ready; decide

theorem witness_SharedChecks : issueTrap (.iadd 128 0 0 0) (all4 []) = some { cause := 0x10 } ∧ issueTrap (.bfi 3 1 0) (all4 []) = some { cause := 0x10 } ∧
    issueTrap (.iadd 127 0 0 0) (let s := all4 []; { s with w := { s.w with budget := 64 } }) = some { cause := 0x11 } ∧
    (encode (.iadd 128 0 0 0)).isSome = true ∧ (shapeOf 32 (.iadd 128 0 0 0)).op < 0x70 := by decide

theorem witness_Launches : Ready (.join 0) (all4 []) ∧ Ready (.launch 2 1) (leader (all4 [])) ∧ (all4 []).blk.launched = [] ∧
    (let s := all4 []; ({ s with blk := { s.blk with launched := [(5, 0)], launchCount := 1 } } : State).blk.launched.any (fun c => c.2 < 1)) = true ∧
    ((leader (all4 [])).issuing.filter (·.pget 1)).map (·.tid) = [0] ∧ (all4 []).grid?.map (·.depth) = some 0 ∧ smWf (all4 []).grids = true ∧
    after (exec (.launch 2 1) (leader (all4 []))) (fun t => t.blk.held.map (·.cause) == [0x19]) = true := by unfold Ready; decide

theorem witness_Regrouping : Ready (.reform 1 (2 ^ 14 - 2) 1) (halfP (all4 [])) ∧ (all4 []).blk.sheaves = [] ∧ (all4 []).w.role = 0 ∧
    (all4 []).w.queue = [] ∧ (∀ l ∈ (all4 []).w.lanes, l.arr = 0xFFF) ∧ fileInto 2 0 8 0 0 5 (placedLane 0 0) 0 [] ≠ none ∧
    fileInto 2 0 8 0 0 5 (placedLane 0 0) 8 [] = none := by unfold Ready; decide

theorem witness_ServiceCallIssue : Ready (.svc 8 16383 0) (all4 []) ∧ (all4 []).farDone 0 0 7 5 1 = true ∧ (all4 []).w.queue = [] ∧
    (let d : Die := { Die.reset with ctl := [(0xA8, 0x80000007)], sched := [(0xA8, 0x80000007)] }
     d.ctlNat 0xA8 / 2 ^ 31 % 2 = 1 ∧ d.svcUsed + 4 + 1 ≤ d.svcSlots) := by unfold Ready; decide

theorem witness_CopyIssues : Ready (.cpy 0 2 5 0) (all4 []) ∧ Ready (.cpyt 0 0 0 0) (all4 []) ∧ Ready (.cpyq 0 0 0 1) (all4 []) ∧
    (all4 []).w.role = 0 ∧ (all4 []).w.wid = 0 ∧ (let ws := List.replicate 32 0
      walkForm ws (parseWalk ws) = true ∧ walkKind 0 (parseWalk ws) = true ∧ walkKind 1 (parseWalk ws) = false ∧ walkAligned 0 (parseWalk ws) = true) ∧
    (all4 []).rangeTrap 0 (0, 31) = none ∧ (all4 []).rangeTrap 0 (0, 524288) ≠ none := by unfold Ready; decide

/-- A baton of the warp's four lanes, with a descriptor recorded for warp 0. -/
def aBaton : Baton :=
  { w0 := 0, c := 1, expected := 4, count := 0, descs := [(0, ⟨[0, 0, 0, 0], 0, 1, 0, 7⟩)], signed := [], frags := [], agreed := false, clk := [] }

theorem witness_Batons : Ready (.batonArm 15 0 1 0) (all4 []) ∧ Ready (.sign 2 0) (all4 []) ∧ Ready (.sign 2 1) (halfP (all4 [])) ∧ Ready (.cube 4 0 1 0 2) (all4 []) ∧
    (all4 []).pkt.warps = 1 ∧ (all4 []).roleOf 0 = 0 ∧ (all4 []).core = (all4 []).blk.onCore ∧ (smGet aBaton.descs 0).isSome = true ∧
    (let s := all4 []
     after (exec (.sign 2 1) (halfP { s with blk := { s.blk with batons := [(2, aBaton)] } })) (fun t =>
       (smGet t.blk.batons 2).map (·.count) == some 2)) = true ∧
    (let s := all4 []
     after (exec (.sign 2 0) { s with blk := { s.blk with batons := [(2, aBaton)] } }) (fun t => (t.table 0).length == 1 && t.blk.batons.isEmpty)) = true ∧
    cReserved [0, 0, 0, 0] = true := by unfold Ready; decide

theorem witness_CubeOperations : (all4 []).lead.isSome = true ∧ Ready (.cubestn 4 0) (all4 []) ∧ Ready (.cubestw 4 1) (all4 []) ∧ Ready (.accld 0 1 0) (all4 []) ∧
    Ready (.accst 191 1 0) (all4 []) ∧ Ready (.accz 191 0) (all4 []) ∧ Ready .oprdy (all4 []) ∧ (all4 []).table 0 = [] ∧
    stnReserved [0, 0, 0, 0] = true := by unfold Ready; decide

theorem witness_TileWords : Ready (.cvtTrl 4 1 3 0 0) (all4 []) ∧ Ready (.cvtChk 4 3 0 0) (all4 []) ∧ (all4 []).rangeTrap 0 (0, 31) = none ∧
    (all4 []).rangeTrap 0 (524280, 524311) ≠ none ∧ (mapped (all4 [])).farFail 1 0 32 = none ∧ (all4 []).farFail 1 0 32 ≠ none ∧
    (all4 []).w.windows = [] ∧ (all4 []).cur = some ((all4 []).blk.key, (all4 []).w.wid) := by unfold Ready; decide

theorem witness_PlaneWords : (∀ i ∈ [Instr.stepOpen 1, .stepClose 1 0 1, .merge 1 1, .upd 8 0 1], Ready i (inStep .closed (leader (all4 [])))) ∧
    (inStep .closed (all4 [])).joined = some (aSession .closed) ∧ (aSession .closed).ops = [] ∧ (all4 []).joined = none ∧
    ((leader (all4 [])).issuing.filter (·.pget 1)).map (·.tid) = [0] ∧
    (inStep .open (all4 [])).updOk (aSession .open) [0, 0, 0, 32, 0, 0, 0, 0] = true := by unfold Ready; decide

/-- The word's own overlay under a token, as the Loft of core 0 holds it. -/
def tokenState : State := { withS [(1, 1)] (all4 []) with loft := [(0, { placedCode 0 with gen := 1, base := [] })] }

theorem witness_OverlayWords : Ready (.ovldImm 3 0 0) (all4 []) ∧ Ready (.ovldReg 3 1 1) (all4 []) ∧ Ready (.ovpin 1 0) tokenState ∧ Ready (.ovunpin 1 0) tokenState ∧
    Ready (.ovev 1) tokenState ∧ Ready (.ovq 3 1) tokenState ∧ (tokenState.tokEntry 0 0 1).isSome = true ∧ (tokenState.findKey 0 0 0).isSome = true ∧
    (all4 []).findKey 0 0 77 = none ∧ smWf tokenState.loft = true ∧ (all4 []).makeRoom 0 0 1 [] = none ∧ ((all4 []).makeRoom 0 0 0 []).isSome = false ∧
    ((all4 []).grid?.bind fun g => g.dir[1]?) = none := by unfold Ready; decide

/-! ### Events (R32 to R56, R115 to R185, R298 to R426) -/

/-- One block of one warp on core 0, nothing in focus. -/
def pl : State := { State.reset.place 0x40000000 with trained := [] }

/-- That block changed. -/
def withB (f : Block → Block) : State := { pl with blocks := smMod pl.blocks 0 f }

/-- Its warp changed. -/
def withW (f : Warp → Warp) : State := withB fun b => { b with warps := smMod b.warps 0 f }

/-- Every lane of it changed. -/
def withLanes (f : Lane → Lane) : State := withW fun w => { w with lanes := w.lanes.map f }

/-- The block after a step. -/
def blockOf (r : Res) : Option Block := match r with
  | .next t => smGet t.blocks 0
  | _ => none

/-- The warp after a step. -/
def warpOf (r : Res) : Option Warp := (blockOf r).bind fun b => smGet b.warps 0

/-- The step changes nothing. -/
def stays (i : Instr) (s : State) : Bool := after (exec i s) (· == s)

/-- Whether a property holds of the warp after a step. -/
def warpIs (r : Res) (f : Warp → Bool) : Bool := ((warpOf r).map f).getD false

/-- Whether a property holds of the block after a step. -/
def blockIs (r : Res) (f : Block → Bool) : Bool := ((blockOf r).map f).getD false

theorem test_store_drains : (let r := exec (.storeQueueDrain 0 0 0) (withW fun w => { w with queue := [aStore 4 7] })
    (warpIs r fun w => w.queue.isEmpty, blockIs r fun b => memNat b.shared 0 4 4 == 7)) = (true, true) ∧
    warpIs (exec (.storeQueueDrain 0 0 1) (withW fun w => { w with queue := [aStore 4 7, aStore 6 8] })) (fun w => w.queue.length == 2) = true := by
  decide
theorem test_release : warpIs (exec (.reconvergenceRelease 0 0) (withLanes fun l => { l with st := .waiting })) (fun w =>
    w.lanes.all (·.st == .runnable)) = true := by decide
theorem test_late_arrival : warpIs (exec (.lateLaneArrival 0 0) (withLanes fun l => { l with st := .late, lateMask := 1 })) (fun w =>
    w.lanes.all (·.st == .runnable)) = true := by decide
theorem test_barrier_opens : warpIs (exec (.barrierOpen 0) (withLanes fun l => { l with arrived := some 1 })) (fun w =>
    w.lanes.all fun l => l.arrived.isNone && l.pc == 8) = true := by decide

/-- A sheaf of one thread. -/
def aSheaf : Sheaf := { pc := 8, key := 5, role := 0, budget := 64, threads := [placedLane 0x40000000 7], since := 0, due := true }

theorem test_sheaf_waits : stays (.sheafIssue 0) (withB fun b => { b with sheaves := [aSheaf] }) = true := by decide
theorem test_sheaf_age : blockIs (exec (.sheafAgeLimit 0 0) (let s := withB fun b => { b with sheaves := [{ aSheaf with due := false }] }
    { s with dies := listMod s.dies 0 fun d => { d with clock := 1024 } })) (fun b => b.sheaves.map (·.due) == [true]) = true := by decide
theorem test_warp_freed : after (exec (.warpFree 0 0) (withLanes fun l => { l with st := .exited })) (fun t => (smGet t.blocks 0).isNone &&
    (smGet t.grids placeGrid).map (·.blocksEnded) == some 1) = true := by decide
theorem test_line_store : after (exec (.lineAccessPerform 50) { pl with farQ := [acc 50 2 64] }) (fun t => memNat t.far 0 64 4 == 7 && t.farQ.map (·.stage) == [2]) =
    true := by decide
theorem test_line_load : after (exec (.lineAccessPerform 50) { pl with farQ := [acc 50 0 64], far := memWrite [] 64 (leBytes 4 9) }) (fun t =>
    t.farQ.map (fun x => (x.stage, x.got)) == [(2, [(0, 9)])]) = true := by decide
theorem test_far_reply : warpIs (exec (.farReply 50) { withW fun w => w.mark 0 90 false with farQ := [{ acc 50 0 64 with stage := 2, got := [(0, 9)] }] }) (fun w =>
    (w.lanes.map (·.vraw 3)).head? == some 9 && (w.flag 0).ops.isEmpty) = true := by decide
theorem test_far_ack : warpIs (exec (.farAcknowledgement 50) { withW fun w => w.mark 0 90 false with farQ := [{ acc 50 2 64 with stage := 2 }] }) (fun w =>
    (w.flag 0).ops.isEmpty) = true := by decide
theorem test_timeout_too_early : stays (.systemTimeout 0 50) { pl with farQ := [{ acc 50 0 64 with born := some 0 }] } = true := by decide

/-- A copy of the block: one element of one byte, shared memory to shared memory, its stamp in shared memory. -/
def aCopy : Copy :=
  { id := 60, op := 90, grid := placeGrid, blk := 0, wid := 0, flag := 0, core := 0, tenant := 0, kind := 0, cls := 0, scope := 0
    walk := { parseWalk (List.replicate 32 0) with sbase := 8, dbase := 16, stampa := 64, seq := 3, ext := [1, 1, 1, 1, 1, 1] }
    accepted := false, next := 0, pixels := [], landOn := false, srcOn := false, status := 0, stopAt := none, failed := (0, 0), slot := 64
    resv := none, idx := 0, hostAcks := [], after := [], out := [], spoilt := [], deadSince := none, clk := [] }

theorem test_copy_accepted : after (exec (.copyAccept 60) { withW fun w => w.mark 0 90 false with copies := [aCopy] }) (fun t =>
    t.copies.map (fun c => (c.accepted, c.landOn)) == [(true, true)] && warpIs (.next t) fun w => (w.flag 0).ops.isEmpty) = true := by decide
theorem test_copy_element : after (exec (.copyElement (2 ^ 64 * 60)) { withB fun b => { b with shared := [(8, 0x5A)] } with copies := [{ aCopy with accepted := true }] })
    (fun t => t.copies.map (fun c => (c.next, c.out.map fun q => (q.loc, q.bytes))) == [(1, [(16, [0x5A])])]) = true ∧
    (let r := exec (.copyElement (2 ^ 64 * 60 + 1)) { pl with copies := [{ aCopy with accepted := true, next := 1, out := [⟨16, [0x5A], 0⟩] }] }
     (blockIs r fun b => memNat b.shared 0 16 1 == 0x5A, after r fun t => t.copies.map (·.out) == [[]])) = (true, true) := by decide
theorem test_copy_stamp : (let r := exec (.copyStampWrite 60) { pl with copies := [{ aCopy with accepted := true, next := 1 }] }
    (blockIs r fun b => memNat b.shared 0 64 8 == 0x30000, after r fun t => t.copies.isEmpty)) = (true, true) := by decide
theorem test_copy_drop : after (exec (.dropNotice 60) { pl with copies := [{ aCopy with accepted := true }] }) (fun t => t.copies.map (·.resv) == [some 1]) = true ∧
    after (exec (.reservationWindowExpiry 60) { pl with copies := [{ aCopy with resv := some 1 }] }) (fun t => t.copies.map (·.resv) == [some 2]) = true := by decide
theorem test_load_without_tenant : after (exec (.overlayLoadComplete 0 0) { pl with loft := [(0, { placedCode 0 with st := .loading })] }) (fun t =>
    t.loft.map (·.2.st) == [.absent]) = true := by decide

/-- An entry of the engine's table that clears tile 3. -/
def clearing : EngineEntry :=
  { id := 70, blk := 0, prio := 0, op := .accZero 3, flags := [(0, 0, 90)], passes := 0, lastGrant := 0, eligSince := some 0, starved := false
    status := 0, done := false, rows := [], cols := [], bad := [], buf := [], after := 0, acq := [], clk := [] }

theorem test_cube_accept : after (exec (.cubeAccept 0 2) (withB fun b => { b with batons := [(2, { aBaton with agreed := true })] })) (fun t =>
    (t.table 0).length == 1) = true := by decide
theorem test_engine_pass : (let s := withB fun b => { b with tiles := [(3 * 1024, 5), (4 * 1024, 6)] }
    (after (exec (.enginePass 0) { s with engines := [(0, [{ clearing with op := .accStore 3 1 0 }])] }) fun t => (t.table 0).map (·.passes) == [1],
     blockIs (exec (.enginePass 0) { s with engines := [(0, [{ clearing with op := .accStore 3 1 0 }])] }) fun b => memNat b.shared 0 0 4 == 5)) = (true, true) := by
  decide
theorem test_starvation : after (exec (.entryStarvation 0 70) { pl with engines := [(0, [clearing])], dies := listMod pl.dies 0 fun d => { d with clock := 4096 } })
    (fun t => (t.table 0).map (·.starved) == [true]) = true := by decide
theorem test_acc_completes : (let r := exec (.accumulatorOpComplete 0 70) { withW fun w => w.mark 0 90 true with engines := [(0, [{ clearing with done := true }])] }
    (after r fun t => (t.table 0).isEmpty, warpIs r fun w => (w.flag 0).ops.isEmpty)) = (true, true) ∧
    stays (.cubeComplete 0 70) { pl with engines := [(0, [clearing])] } = true ∧
    stays (.stationLoadComplete 0 70) { pl with engines := [(0, [clearing])] } = true := by decide
theorem test_engine_error : blockIs (exec (.engineInternalError 0) (withB fun b => { b with batons := [(2, aBaton)] })) (fun b =>
    b.batons.isEmpty && b.accLost) = true := by decide
theorem test_hang : after (exec (.cubeHangTimeout 0) { pl with engines := [(0, [clearing])], dies := listMod pl.dies 0 fun d => { d with clock := 0x40000 } }) (fun t =>
    (t.table 0).isEmpty) = true ∧ after (exec (.cubeHangTimeout 0) { pl with engines := [(0, [clearing])] }) (fun t => (t.table 0).length == 1) = true := by decide
theorem test_cubectl : after (exec (.cubectlRst 0 0x80000100) { pl with engines := [(0, [clearing])] }) (fun t => (t.table 0).isEmpty) = true := by decide

/-- With a session that no grid has joined. -/
def sess (x : Session) : State := { pl with session := some x }

/-- A close operation of the session. -/
def aClose : PlaneOp := { op := 90, blk := 0, wid := 0, flag := 0, close := true, merge := false, stage := 0, status := 0, after := 0, acq := [], clk := [] }

theorem test_step_closes : after (exec .stepCloseComplete (sess { aSession .closing with ops := [aClose] })) (fun t =>
    t.session.map (fun x => (x.step, x.ls, x.ops.length)) == some (.closed, 0x40000000, 0)) = true ∧
    after (exec .stepCloseComplete (sess { aSession .closing with ops := [aClose], ovf := true })) (fun t => t.session.map (·.ls) == some 0x3F800000) = true := by
  decide
theorem test_merge_waits : stays .mergePoint (sess { aSession .closed with ops := [{ aClose with close := false, stage := 1 }], groups := [{ aGroup with div := true }] }) = true := by decide
theorem test_upd_on_overflow : stays (.updSliceApply 0) (sess (aSession .open)) = true := by decide

/-- The round that the session takes part in. -/
def aRound : Round := { r := 1, mask := 1, isls := [7], deadline := 100, got := [], sent := [] }

theorem test_round_abandoned : after (exec .roundAbandon (let s := sess { aSession .closed with round := some aRound }
    { s with dies := listMod s.dies 0 fun d => { d with ref := 100 } })) (fun t => t.session.map (fun x => (x.round, x.nextRound)) == some (none, 2)) = true ∧
    stays .fold (sess { aSession .closed with round := some aRound }) = true ∧
    stays (.pacerBlock 0 0) (sess { aSession .closed with round := some aRound }) = true := by decide
theorem test_records_ignored : stays (.segmentRecord [0]) (sess (aSession .closed)) = true ∧
    stays (.roundManifest [0]) (sess { aSession .closed with round := some aRound }) = true := by decide
theorem test_divergence_not_ready : stays (.divergenceTrap 0 0) pl = true := by decide

/-- With a leader, and a session of the owner. -/
def served : State :=
  { pl with dies := listMod pl.dies 0 fun d => { d with ctl := [(0xB8, 0x80000004)], sched := [(0xB8, 0x80000004)], running := some 0 }
            rpcs := [{ token := 5, tenant := 0, owner := true, word := 0, seq := 0, journal := [], openCmds := [], closing := none, codes := [] }] }

/-- A grid of two blocks that has not started, with what each core starts queued. -/
def waiting : Grid := { placedGrid with packet := { placePacket with gx := 2 }, depOk := false, dies := [], counter := 0 }

theorem test_grid_reject : after (exec (.gridAccept 0) { served with inbound := [⟨0, 64, 0, none, some (5, 1), none⟩] }) (fun t => t.inbound.isEmpty && t.outbox.length == 1 &&
    t.grids == pl.grids) = true := by decide
theorem test_grid_start_waits : stays (.gridStart placeGrid 0) { pl with grids := [(placeGrid, waiting)] } = true ∧
    stays (.waitaPoll placeGrid) pl = true := by decide
theorem test_claim : after (exec (.blockClaim 0) { pl with blocks := [], dies := listMod pl.dies 0 (fun d => { d with ctl := [(0x1000, 0x80000), (0x4000, 0x10000), (0x4004, 96), (0x4008, 1)], sched := [(0x1000, 0x80000), (0x4000, 0x10000), (0x4004, 96), (0x4008, 1)] }), grids := [(placeGrid, { waiting with depOk := true, dies := [⟨0, 0, []⟩] })], loft := [(0, placedCode 0)] }) (fun t =>
    (smGet t.grids placeGrid).map (·.counter) == some 1) = true := by decide
theorem test_claim_starved : after (exec (.claimStarvation placeGrid 0) { pl with grids := [(placeGrid, { placedGrid with skipSince := [(0, 0)] })], dies := listMod pl.dies 0 fun d => { d with clock := 2 ^ 20 } }) (fun t =>
    (smGet t.grids placeGrid).map (·.barring) == some [0]) = true := by decide
theorem test_admit : after (exec (.blockAdmit 0) { pl with blocks := [], dies := listMod pl.dies 0 (fun d => { d with startQ := [(0, [(placeGrid, 0)])], ctl := [(0x1000, 0x80000), (0x4000, 0x10000), (0x4004, 96), (0x4008, 1)], sched := [(0x1000, 0x80000), (0x4000, 0x10000), (0x4004, 96), (0x4008, 1)] }) }) (fun t =>
    t.blocks.map (fun b => (b.2.grid, b.2.idx, b.2.core)) == [(placeGrid, 0, some 0)] && t.startQueue 0 == []) = true := by decide
theorem test_quantum : blockIs (exec (.quantumEnd 0) { pl with dies := listMod pl.dies 0 fun d => { d with clock := 65536 } }) (·.quantumOver) = true ∧
    blockIs (exec (.quantumEnd 0) { pl with dies := listMod pl.dies 0 fun d => { d with clock := 65535 } }) (·.quantumOver) = false := by decide
theorem test_no_swap : stays (.idleSwap 0) pl = true ∧ stays (.waitingForCore 0) pl = true ∧ stays (.swapOut 0 0) pl = true ∧
    stays (.swapIn 0 0) (withB fun b => { b with save := some 0 }) = true := by decide
theorem test_swap_asked : blockIs (exec (.swapOut 0 1) pl) (·.swapReason == some 2) = true ∧
    blockIs (exec (.swapOut 0 1) (withB fun b => { b with swapReason := some 4 })) (·.swapReason == some 4) = true := by decide
theorem test_grid_stands : stays (.gridRetire 5) pl = true := by decide
theorem test_gkill : (let r := exec (.gkill 0 placeGrid) pl
    (after r fun t => t.grids.map (·.2.ended) == [true], blockIs r (·.stopped))) = (true, true) := by decide
theorem test_machine_check : blockIs (exec (.machineCheck 0) pl) (·.stopped) = true := by decide
theorem test_shootdown : (let s := { pl with tlb := [⟨0, 0, 0, 65536, 0⟩, ⟨0, 1, 0, 65536, 0⟩] }
    (after (exec (.shootdown 0 0x80000000) s) fun t => t.tlb.map (·.slot) == [1] && t.shoots.length == 1,
     after (exec (.shootdownDone 0) s) fun t => t.tlb.length == 2)) = (true, true) := by decide
theorem test_migration : after (exec (.migration 0 0x80000000) { pl with dies := listMod pl.dies 0 fun d => { d with ctl := [(0x80, 0x10000)], sched := [(0x80, 0x10000)] } }) (fun t =>
    t.moves.map (fun m => (m.src, m.dst, m.size, m.switched)) == [(0, 0x10000, 0x10000, false)]) = true ∧
    after (exec (.migrationDone 0 257) { pl with moves := [⟨0, 0, 64, 64, false, [], [0], false⟩], far := [(3, 9)] }) (fun t =>
      memNat t.far farTag 67 1 == 9 && t.moves.map (fun m => (m.gone, m.held)) == [([0], [])]) = true ∧
    after (exec (.migrationDone 0 0) { pl with moves := [⟨0, 0, 64, 64, false, [0], [], false⟩] }) (fun t => t.moves.map (·.ended) == [true]) = true := by
  decide
theorem test_plane_registers : after (exec (.planeDrain 0 1) pl) (fun t => (t.die 0).drain 0 && !(t.die 0).drain 1) = true ∧
    after (exec (.planeMapWrite 0 0xFAC681) pl) (fun t => (t.die 0).planeMap 0 == 1 && (t.die 0).planeMap 7 == 7) = true := by decide
theorem test_resumea : blockIs (exec (.resumea 0 64) (withB fun b => { b with save := some 64, held := [⟨1, 0, 0, 0, 0, 0, 0, 0, true⟩] })) (fun b => b.held.isEmpty) = true := by
  decide
theorem test_loft_quota : after (exec (.loftQuotaWrite 0 0 0 0x1000000) pl) (fun t => (t.die 0).ctlNat 0x1000 == 0x1000000) = true ∧
    after (exec (.loftQuotaWrite 0 0 0 0x1010000) pl) (fun t => (t.die 0).ctlNat 0x1000 == 0) = true := by decide
theorem test_leader_claim : after (exec (.leaderClaim 0 0x80000004) pl) (fun t => (t.die 0).ctlNat 0xB8 == 0x80000004) = true ∧
    after (exec (.leaderClaim 0 0x80000008) pl) (fun t => (t.die 0).ctlNat 0xB8 == 0) = true := by decide
theorem test_ring_heads : after (exec (.faultRingHeadWrite 0 5) pl) (fun t => (t.die 0).ctlNat 0x5C == 5) = true ∧
    after (exec (.requestRingHeadWrite 0 5) { pl with dies := listMod pl.dies 0 fun d => { d with svcDone := 5 } }) (fun t => (t.die 0).ctlNat 0xAC == 5) = true := by decide
theorem test_control_write : after (exec (.controlRegisterWrite 0 0x20 0xFFFFFFFF) pl) (fun t => (t.die 0).ctlNat 0x20 == 0xFFFF && (t.die 1).ctlNat 0x20 == 4) = true := by
  decide
theorem test_pair_health : after (exec (.lockStepMismatch 1) pl) (fun t => (t.die 1).pairFailed) = true ∧ stays (.heartbeatTimeout 0) pl = true ∧
    after (exec (.dieIsolation 0) { pl with failedCores := List.range 48, dies := listMod pl.dies 0 fun d => { d with pairFailed := true } }) (fun t => (t.die 0).isolated && t.grids.map (·.2.ended) == [true]) = true := by decide
theorem test_reset_event : after (exec .packageReset pl) (fun t => t.blocks.isEmpty && t.grids.isEmpty && t.dies == List.replicate 4 Die.reset) = true := by decide
theorem test_boot : after (exec (.coldBoot 0) { pl with images := [⟨1, 0, [1], true⟩, ⟨2, 0, [2], true⟩] }) (fun t => (t.die 0).running == some 1 && (t.die 0).ctlNat 0xB8 == 0x80000004) = true := by
  decide
theorem test_reliability : stays (.patrolScrub 0) pl = true ∧ after (exec (.patrolScrub 24) pl) (fun t => t.badLines == [2]) = true ∧ after (exec (.rowRepair 2 0) pl) (fun t => t.frozen 128 && !t.frozen 192) = true := by decide
theorem test_sag : after (exec (.supplySagTrip 0) pl) (fun t => (t.die 0).sag == some (0, false)) = true ∧
    after (exec (.supplyRecovery 0) { pl with dies := listMod pl.dies 0 fun d => { d with sag := some (64, false) } }) (fun t => (t.die 0).sag == none) = true := by decide
theorem test_fabric : after (exec (.switchPlaneFailure 3) pl) (fun t => t.deadPlanes == [3]) = true ∧
    after (exec (.linkTrainingComplete 1 0) State.reset) (fun t => t.trained.getD 1 false && !t.trained.getD 0 false) = true := by decide
theorem test_spare : after (exec (.spareCoreReplacement 5) { pl with failedCores := [5], dies := listMod pl.dies 0 fun d => { d with ctl := [(0x114, 0x10400)], sched := [(0x114, 0x10400)] } }) (fun t =>
    t.failedCores.isEmpty && (t.die 0).sparesUsed == 1) = true ∧ stays (.spareCoreReplacement 0) pl = true := by decide

/-- The header of a command of that session (R415). -/
def cmd (code seq : Nat) : List Nat := rpcHeader code 0 5 seq 0

/-- Command code, status, session and sequence number in the header of the last reply (R415). -/
def replyOf (r : Res) : List Nat := match r with
  | .next t => (t.outbox.getLast?.map fun x => (x.2.drop 4).take 4 ++ [x.2.getD 8 0, x.2.getD 16 0]).getD []
  | _ => []

theorem test_commands : replyOf (exec (.unknownCommand (cmd 0x99 1) [] []) served) = [0x99, 0, 1, 0, 5, 1] ∧ replyOf (exec (.islandSet (cmd 0x12 1) [] 3 2) served) = [0x12, 0, 2, 0, 5, 1] ∧
    replyOf (exec (.islandSet (cmd 0x12 1) [] 3 2) { served with grids := [], blocks := [] }) = [0x12, 0, 0, 0, 5, 1] ∧ replyOf (exec (.gridWait (cmd 0x21 1) [] 3) served) = [0x21, 0, 0, 0, 5, 1] ∧
    replyOf (exec (.tenantSet (cmd 0x10 1) [] 0 [0x10000, 1, 1, 0, 0, 0, 0, 0] []) served) = [0x10, 0, 0, 0, 5, 1] ∧
    stays (.sessionClose (cmd 0x02 2) []) served = true ∧ after (exec (.hostLaunch (cmd 0x20 1) [] 64 0 0) served) (fun t => t.inbound.length == 1) = true ∧
    after (exec (.gridKill (cmd 0x22 1) [] placeGrid) served) (fun t => t.grids.map (·.2.ended) == [true]) = true := by decide
theorem test_session : after (exec (.sessionOpen (cmd 0x01 1) 0 0x7F) { served with certs := [(0, false)] }) (fun t => t.rpcs.length == 2 &&
    t.outbox.map (fun x => (x.2.drop 24).take 1 ++ (x.2.drop 32).drop 8) == [[12, 0x3F, 0, 0, 0]]) = true ∧ stays (.sessionOpen (cmd 0x01 1) 0 0x7F) served = true ∧
    after (exec (.certificateRevocation 10) served) (fun t => t.rpcs.isEmpty) = true ∧ stays (.rpcReconnect 5) served = true := by decide
theorem test_host_store : after (exec (.hostAccess 1 1 8 77 0) pl) (fun t => t.hostStores == [⟨1, 2 ^ 59 + 8, 77, []⟩] && t.hostView.isEmpty) = true ∧
    after (exec (.hostAccess 1 0 8 0 0) { pl with hostStores := [⟨1, 2 ^ 59 + 8, 77, []⟩] }) (fun t => t.outbox == [(3, [1, 2 ^ 59 + 8, 77])]) = true := by decide

/-- A warp parked at an SVC with its reply there. -/
def parkedState : State :=
  { withW fun w => { w with parked := some ⟨1, 8, 1⟩ } with
    calls := [{ id := 1, die := 0, blk := 0, wid := 0, tenant := 0, num := 3, mask := 1, slots := 2, args := [(0, [])], replies := [(0, [7, 0, 0, 0, 0, 0, 0, 0])], consumed := true }] }

theorem test_svc_resumes : warpIs (exec (.svcResume 0 0) parkedState) (fun w => w.parked.isNone && (w.lanes.map (fun l => (l.pc, l.vraw 8))).head? == some (8, 7)) = true := by
  decide
theorem test_unknown_service : parkedState.calls.map (fun c => (pl.serve c false [] []).1) = [List.replicate 8 0xFFFFFFFF] := by decide



/-! ### Witnesses of the statements about events -/

theorem witness_WarpEvents : pl.cur = none ∧ smWf pl.blocks = true ∧ (smGet pl.blocks 0).isSome = true ∧
    (smGet (withLanes fun l => { l with arrived := some 1 }).blocks 0).map (fun b => (b.barrierReady, b.core, b.stopped, smWf b.warps)) =
      some (true, some 0, false, true) ∧
    (smGet pl.blocks 0).map (·.barrierReady) = some false ∧
    (smGet (withLanes fun l => { l with st := .exited }).blocks 0).bind (fun b => (smGet b.warps 0).map (·.freeable)) = some true ∧
    (smGet pl.blocks 0).bind (fun b => (smGet b.warps 0).map (·.freeable)) = some false ∧
    (aStore 0 1).meets (aStore 2 1) = true ∧ ({ aStore 0 1 with space := .granary 0 } : QStore).meets (aStore 0 1) = false := by decide
theorem witness_WarpEvents_sheaf : (let s : State := { withB fun b => { b with sheaves := [aSheaf], template := List.replicate 64 9 } with
      grids := [(placeGrid, { placedGrid with packet := { placePacket with t := 64 } })] }
    (smGet s.blocks 0).map (fun b => (b.dueSheaf == some aSheaf, s.freeWid b, b.template.length,
      decide ((s.pktOf b).width * aSheaf.budget ≤ (s.freeWords b.onCore (s.pktOf b)).getD (mostFree (s.freeWords b.onCore (s.pktOf b))) 0)))) =
    some (true, some 1, 64, true) := by decide

theorem witness_FarEvents : (let s : State := { pl with farQ := [acc 50 2 64] }
    s.cur = none ∧ s.canPerform (acc 50 2 64) = true ∧ s.canPerform (acc 50 0 64) = true ∧ s.canPerform (acc 50 4 64) = true ∧ s.bad 64 1 = false ∧
      locHost 64 = false) ∧ ({ pl with badLines := [1] } : State).bad 64 1 = true ∧ pl.chks = [] ∧
    (smGet pl.blocks 0).map (fun b => (b.save, (smGet b.warps 0).map (·.windows))) = some (none, some []) ∧
    pl.completeAt { acc 50 3 64 with stage := 2 } 0 = true ∧ ({ pl with hostQ := [(50, 2 ^ 59, [0])] } : State).completeAt { acc 50 3 (2 ^ 59) with stage := 1 } 5 = false := by decide

theorem witness_CopyEvents : (let s : State := { pl with copies := [aCopy] }
    let c : Copy := { aCopy with accepted := true }
    s.cur = none ∧ aCopy ∈ s.copies ∧ s.canAccept aCopy = true ∧ s.slotOf aCopy = .inl 64 ∧ c.walk.total = 1 ∧ c.walk.dsp = 0 ∧
      s.slotOpen aCopy = true ∧ s.copyAcked aCopy = true ∧ c.walk.stsp = 0) := by decide
theorem witness_CopyEvents_read : (let s : State := { pl with copies := [{ aCopy with accepted := true }] }
    (match s.copyRead aCopy (aCopy.walk.srcAddr 0) with | .ok _ _ => true | _ => false, match s.copyReach aCopy (aCopy.walk.dstAddr 0) with | .ok _ _ => true | _ => false)) =
    (true, true) := by decide

theorem witness_LoftEvents : (let e : LoftEntry := { placedCode 0 with st := .loading }
    (smGet ({ pl with loft := [(0, e)] } : State).loft (0 * 256 + 0) = some e ∧ e.st = .loading ∧ e.evictMark = false ∧ e.forced = false ∧
      (match pl.loadImage 0 e with | .inl _ => true | .inr _ => false) = true ∧ pl.loadImage 0 { e with forced := true } = .inl 4)) ∧
    (∀ j < 16, ((List.range 16).map fun x => ((pl.die 0).ctlWrite (0x1000 + 4 * j) 0x1000000).ctlField (0x1000 + 4 * x) 16 9).sum = 256) := by decide

theorem witness_EngineEvents : (let s : State := { withB fun b => { b with batons := [(2, { aBaton with agreed := true })] } with
      engines := [(0, [clearing])], dies := listMod pl.dies 0 fun d => { d with clock := 0x40000 } }
    s.cur = none ∧ smWf s.blocks = true ∧ smWf s.engines = true ∧ (s.table 0).length = 1 ∧ s.eligible 0 = [clearing] ∧
      clearing.eligSince = some 0 ∧ (s.die 0).hang = 0x40000 ∧ clearing.op.isCube = false ∧ clearing.op.loads = false ∧
      (smGet s.blocks 0).map (fun k => (k.core.isSome, k.warps.length, smWf k.warps, (smGet k.batons 2).map (·.agreed))) = some (true, 1, true, some true)) ∧
    pl.eligible 0 = [] := by decide

theorem witness_EnginePasses : (let s : State := { pl with engines := [(0, [clearing])] }
    s.cur = none ∧ bestEntry (s.eligible 0) = some clearing ∧ (smGet s.blocks clearing.blk).isSome = true ∧ clearing.bad = []) := by decide

/-- An update of element 0 of the session's tensor. -/
def anUpd : UpdOp :=
  { op := 90, blk := 0, wid := 0, flag := 0, tid := 0, first := 0, cnt := 1, gsp := 0, gaddr := 0, gfmt := 0
    core := 0, tenant := 0, after := 0, acq := [], clk := [] }

theorem witness_PlaneSteps : (let x : Session := { aSession .open with upds := [anUpd], ops := [aClose] }
    let s : State := { withB fun b => { b with shared := memWrite [] 0 (leBytes 4 0x3F800000) } with session := some x }
    s.cur = none ∧ s.session = some x ∧ (x.upds.find? fun u => (x.tensor? u.tid).map (·.hdie) == some 0) = some anUpd ∧
      x.stopped.contains 0 = false ∧ s.mayBegin 0 0 0 [] = true ∧ (x.ops.find? fun o => o.close && o.stage == 0) = some aClose ∧ aClose.merge = false ∧
      x.groups[0]? = some aGroup ∧ (match (s.gradients anUpd ⟨true, 0, 32, 0, 0⟩ [0]).1 with | .ok _ _ => true | _ => false) = true ∧
      (s.gradients anUpd ⟨true, 0, 32, 0, 0⟩ [0]).2 = [0x3F800000]) := by decide
theorem witness_PlaneSteps_merge : (let m := { aClose with close := false, stage := 1 }
    let x : Session := { aSession .closed with ops := [m] }
    (x.ops.find? fun o => o.stage == 1) = some m ∧ (∀ g ∈ x.groups, g.div = false) ∧ x.groups.length ≤ 16 ∧
      ((List.range 16).filter fun g => x.groups[g]?.map (·.pv) == some true) = [] ∧
      (match ((sess x).tensorsReach 0 [0, 1, 2, 3] []).1 with | .ok _ _ => true | _ => false) = true) := by decide
/-- The session with a kept translation of its first 2 MiB. -/
def planesMapped (x : Session) : State := { mapped (sess x) with tlb := [⟨0, 0, 0, 2 ^ 21, 2 ^ 61 + 0xE0⟩] }

theorem witness_PlaneSteps_reach : (match ((planesMapped (aSession .open)).planesReach 0 ⟨true, 0, 32, 0, 0⟩ [0, 1, 2, 4, 5] [0]).1 with | .ok _ _ => true | _ => false) =
    true := by decide

/-- A segment record of round 1 from island 7: one block of tensor 0. -/
def aSegment : List Nat := [1, 0, 0, 0, 0, 0, 0, 0, 7, 0, 0, 0, 0, 0, 0, 0, 1, 0, 0, 0, 0, 0, 0, 0] ++ List.replicate 8 127 ++ List.replicate 32 0

theorem witness_PlaneRounds : (let bs : List Byte := aSegment.map fun x => BitVec.ofNat 8 x
    numAt bs 0 8 = aRound.r ∧ numAt bs 8 2 = 7 ∧ numAt bs 10 2 = 0 ∧ numAt bs 16 2 = 1 ∧ numAt bs 18 6 = 0 ∧ numAt bs 12 4 = 0 ∧
      bs.length = 24 + 8 + 32 ∧ aRound.mask.testBit 0 = true) ∧
    (sess (aSession .closed)).session.map (·.round) = some none ∧
    (let y : Round := { aRound with isls := [0] }
     (pl.die 0).isl = 0 ∧ y.isls.contains 0 = true ∧ aRound.isls.contains 0 = false ∧ aGroup.pv = false ∧ (0, 0) ∉ y.sent ∧
       (aSession .closed).complete y = false ∧ (aSession .closed).complete { y with mask := 0 } = true) := by decide
theorem witness_PlaneRounds_reach : (match ((planesMapped (aSession .closed)).planesReach 0 ⟨true, 0, 32, 0, 0⟩ [0, 1, 2, 7] [0, 31]).1 with | .ok _ _ => true | _ => false) =
    true ∧ (match ((sess (aSession .closed)).tensorsReach 0 [2, 3, 6] []).1 with | .ok _ _ => true | _ => false) = true := by decide

/-- Nothing resident, with room and the base overlay on core 0. -/
def empty0 : State :=
  { pl with blocks := [], loft := [(0, placedCode 0)]
            dies := listMod pl.dies 0 fun d => { d with ctl := [(0x1000, 0x80000), (0x4000, 0x10000), (0x4004, 96), (0x4008, 1)], sched := [(0x1000, 0x80000), (0x4000, 0x10000), (0x4004, 96), (0x4008, 1)] } }

theorem witness_GridEvents_accept : (let i : Inbound := ⟨0, 64, 0, none, some (5, 1), none⟩
    let s : State := { pl with inbound := [i] }
    s.cur = none ∧ (s.inbound.find? fun i => i.die == 0) = some i ∧ s.pendingOn 0 < 64 ∧ (match s.judge i with | .inl _ => true | _ => false) = true) := by
  decide
theorem witness_GridEvents : (let s : State := { empty0 with grids := [(placeGrid, { waiting with depOk := true })] }
     (smGet s.grids placeGrid).map (fun g => (g.ended, g.depOk, g.packet.diem.testBit 0, g.dies.length)) = some (false, true, true, 0) ∧
     (smGet s.grids placeGrid).map (fun g => (s.granaryRoom 0 g.tenant (g.packet.gran + 49152), g.id == placeGrid,
       s.vaBytes 0 g.tenant 0 g.packet.csa g.packet.cslen)) = some (true, true, some [])) ∧
    (let s : State := { pl with blocks := [], grids := [(placeGrid, { placedGrid with blocksEnded := placedGrid.total })] }
     s.gridQuiet placeGrid = true ∧ smWf s.grids = true ∧ (smGet s.grids placeGrid).map (fun g => (g.children, g.packet.cnta)) = some (0, 0)) ∧
    ({ pl with farQ := [acc 50 0 0] } : State).gridQuiet placeGrid = false ∧ (smGet pl.grids placeGrid).isSome = true ∧ smGet pl.grids 3 = none ∧
    (match (mapped pl).translate 0 0 1 64 with | .ok l => l == 64 | _ => false) = true := by decide

theorem witness_BlockAdmission : (let s : State := { empty0 with grids := [(placeGrid, { waiting with depOk := true, dies := [⟨0, 0, []⟩] })] }
    (s.die 0).coreOff 0 = false ∧ s.startQueue 0 = [] ∧ s.waiterFor [0] none = false ∧ s.dies.length = 4 ∧ smWf s.grids = true ∧
      smWf (s.die 0).startQ = true ∧ (∀ x ∈ s.grids, x.2.id = x.1) ∧
      (bestGrid (((s.grids.map (·.2)).filter (s.qualifies 0)).filter (s.claimFits 0))).map (fun g => (g.id, g.packet.chunk)) =
        some (placeGrid, 1)) := by decide
theorem witness_BlockAdmission_admit : (let s : State := { empty0 with dies := listMod empty0.dies 0 fun d => { d with startQ := [(0, [(placeGrid, 0)])] } }
    s.startQueue 0 = [(placeGrid, 0)] ∧ (smGet s.grids placeGrid).map (fun g => (g.ended, g.id == placeGrid, s.fitsNew 0 g, (s.loadBases 0 g).basesReady 0 g)) =
      some (false, true, true, true) ∧ s.waiterFor [0] none = false) := by decide

/-- The block's warp at the header of its overlay, with no clause, at a safe point. -/
def resting (f : Block → Block) : State :=
  { pl with loft := [(0, { placedCode 0x40000000 with safe := [(0, 4)] })], blocks := smMod (withLanes fun l => { l with pc := 0, clause := none }).blocks 0 f }

theorem witness_SwapEvents : pl.cur = none ∧ (smGet pl.blocks 0).map (fun b => (b.core, b.save, b.swapReason, b.held, b.stopped)) =
      some (some 0, none, none, [], false) ∧
    (let s := { withB fun b => { b with idleSince := some 0 } with dies := listMod pl.dies 0 fun d => { d with clock := 2 ^ 20 } }
     (s.die 0).idleDelay ≠ 0 ∧ (s.die 0).idleDelay ≤ 2 ^ 20 ∧ (s.die 0).quantum (s.gridPrio placeGrid) ≤ 2 ^ 20) ∧
    (let s := { resting fun b => { b with swapReason := some 0 } with dies := listMod pl.dies 0 fun d => { d with ctl := [(0x6C, 16)], sched := [(0x6C, 16)] } }
     (smGet s.blocks 0).map (fun b => (s.atRest 0 b, (findRoom (s.savesOn 0) ((s.die 0).ctl64 0x64) ((s.die 0).ctl64 0x64 + 16 * 2 ^ 20) 64
       (s.saveSize b (s.masksOf 0 b)) 0).isSome)) = some (true, true)) ∧
    (smGet pl.blocks 0).map (fun b => pl.atRest 0 b) = some false := by decide
theorem witness_SwapEvents_in : (let s : State := { empty0 with blocks := (withB fun b => { b with core := none, save := some 64 }).blocks }
    (smGet s.blocks 0).map (fun b => (s.able 0 b, s.roomBack 0 b, s.waiterFor [0] (some b.adm), ((s.pktOf b).cores 0).all fun c => s.overlayOn c b 0)) =
      some (true, true, false, true)) ∧
    (let s : State := { pl with blocks := (withB fun b => { b with core := none, save := some 64 }).blocks, loft := [] }
     (smGet s.blocks 0).map (fun b => ((s.pktOf b).cores 0).all fun c => s.overlayOn c b 0) = some false) := by decide

theorem witness_ControlWrites : pl.cur = none ∧ pl.dies.length = 4 ∧ ctlActs 0x20 = false ∧ (0x20 : Nat) ≠ 0xB4 ∧ (pl.die 0).backlog = [] ∧
    (pl.die 0).shooting = false ∧ (0x80000003 : Nat).testBit 31 = true ∧ pl.session = none ∧ (sess (aSession .closed)).session.isSome = true ∧
    (let d : Die := { pl.die 0 with ctl := [(0x4C, 0x80000000)], sched := [(0x4C, 0x80000000)] }
     d.shooting = true ∧ d.faultUsed < d.faultSlots) ∧
    (0x80000004 : Nat) / 4 % 2 ^ 16 = ((pl.die 0).ctlNat 0xB8 / 4 % 2 ^ 16 + 1) % 2 ^ 16 := by decide

theorem witness_PageEvents : pl.cur = none ∧ pl.dies.length = 4 ∧ ((pl.die 0).ctlNat 0x88).testBit 31 = false ∧
    locatorBad 0 ((pl.die 0).ctl64 0x78) = false ∧ locatorBad 0 1 = true ∧
    (let s : State := { pl with moves := [⟨0, 0, 64, 64, false, [], [], false⟩], farQ := [{ acc 50 0 64 with born := some 0 }]
                                dies := listMod pl.dies 0 fun d => { d with ref := 2 ^ 24 } }
     (s.moves.find? fun x => x.die == 0 && decide (0 < 4) && !x.ended) = some ⟨0, 0, 64, 64, false, [], [], false⟩ ∧ s.badLines = [] ∧ Memory.wf s.far = true ∧
       0 + 1200 * (s.die 0).tms ≤ (s.die 0).ref ∧ ¬ 0 + 1200 * (pl.die 0).tms ≤ (pl.die 0).ref) ∧
    (smGet pl.blocks 0).map (fun b => (b.core.isSome, b.stopped)) = some (true, false) := by decide
theorem witness_PageEvents_dead : (let m (s : State) : State := { mapped s with deadPlanes := [0, 1, 2, 3, 4, 5, 6, 7], tlb := [⟨0, 0, 0, 65536, 2 ^ 61 + 2 ^ 48 + 0xE0⟩] }
    let c : Copy := { aCopy with accepted := true, walk := { aCopy.walk with ssp := 2, sbase := 0 } }
    (m { pl with copies := [c] }).copyDead c) = [(0, 2 ^ 48, 0)] := by decide

theorem witness_HealthEvents : pl.cur = none ∧ pl.dies.length = 4 ∧
    (let s : State := { pl with images := [⟨1, 0, [1], true⟩, ⟨2, 0, [2], true⟩] }
     (s.die 0).pairFailed = false ∧ (s.die 0).isolated = false ∧ (s.die 0).running = none ∧ s.fusedRollback = 0 ∧ s.images.length = 2 ∧ pl.images = []) ∧
    (let d := { pl.die 0 with ref := 12000000 }
     d.ctlNat 0xB8 = 0 ∧ d.beatSince + 1200000 * 10 ≤ d.ref) ∧ ¬ (pl.die 0).beatSince + 1200000 * 10 ≤ (pl.die 0).ref ∧
    (∀ e < 4, (pl.die e).isolated = false ∧ (pl.die e).ctlNat 0xB8 = 0) ∧
    (let d := { pl.die 0 with ctl := [(0x114, 0x10400)], sched := [(0x114, 0x10400)] }
     d.coreOff 5 = true ∧ d.sparesUsed < 4 ∧ pl.blocks.all (fun b => !pl.runsOn b.2 5) = true) ∧ (pl.die 0).coreOff 5 = false := by decide

theorem witness_WarpResumptions : (let s := parkedState
    s.cur = none ∧ smWf s.blocks = true ∧ (s.calls.find? fun c => c.id == 1 && c.blk == 0) = s.calls.head? ∧
      s.calls.map (fun c => (c.replies.length + 1, c.slots)) = [(2, 2)] ∧
      (smGet s.blocks 0).map (fun b => (b.core, b.save, smWf b.warps)) = some (some 0, none, true) ∧
      ((smGet s.blocks 0).bind fun b => (smGet b.warps 0).map fun w => (w.parked.isSome, w.windows.isEmpty)) = some (true, true)) ∧
    pl.leader = none ∧ (pl.focus 0 0).divReady = false := by decide
theorem witness_WarpResumptions_call : (let s : State :=
      { parkedState with dies := served.dies, calls := parkedState.calls.map fun c => { c with replies := [], consumed := false } }
    s.leader.isSome = true ∧ ((s.calls.find? fun c => c.die == 0 && !c.consumed).map fun c => (c.args.length, c.num)) = some (1, 3)) := by decide
theorem witness_WarpResumptions_trap : (let t := (resting fun b => { b with warps := smMod b.warps 0 fun w => { w with divPend := true } }).focus 0 0
    t.cur = some (0, 0) ∧ t.divReady = true ∧ t.firstPath.isSome = true) := by decide
theorem witness_WarpResumptions_entry : (let t := (resting fun b => { b with warps := smMod b.warps 0 fun w => { w with divPend := true } }).focus 0 0
    match t.firstPath with
    | some p => (match ({ t with im := p.mask } : State).kernelTrap p.mask (fun l => { l.rewind with arrived := none }) id ({ t with im := p.mask } : State).divFrame with
      | .go _ => true
      | _ => false)
    | none => false) = true := by decide

theorem witness_HostCommands : (let s := served
    s.cur = none ∧ s.leader.isSome = true ∧ (s.rpcs.find? fun x => x.token == 5) = s.rpcs.head? ∧
      s.rpcs.map (fun r => (r.journal, r.seq + 1, r.closing, r.owner)) = [([], 1, none, true)] ∧ s.dies.length = 4 ∧ s.session = none ∧
      s.anyShooting = false ∧ smGet s.grids 3 = none ∧ (smGet s.grids placeGrid).isSome = true ∧ rangeOk 0 0 0 1 = true ∧ rangeOk 0 1 0 1 = false) ∧
    (let s := mapped served
     (s.die 0).tenVal 0 = true ∧ (s.vaBytes 0 0 0 0 1).isSome = true ∧ (match s.translate 0 0 1 64 with | .ok l => l == 64 | _ => false) = true) ∧
    pteBad 0 (2 ^ 61 + 7 * 32) = false ∧ pteBad 0 (2 ^ 61 + 5 + 7 * 32) = true := by decide
theorem witness_HostCommands_read : (let s : State := { mapped served with far := [(64, 9)] }
    s.vaBytes 0 0 0 64 1) = some [9] := by decide
theorem witness_HostCommands_image : (parseImage [0]).valid = false := by decide

theorem witness_HostEvents : pl.cur = none ∧ pl.leader = none ∧ served.leader.isSome = true ∧ pl.hostStores = [] ∧ pl.atomRace (2 ^ 59) = false ∧
    (({ pl with hostStores := [⟨1, 2 ^ 59 + 8, 77, []⟩] } : State).hostStores.filter fun x => x.host == 1) = [⟨1, 2 ^ 59 + 8, 77, []⟩] := by decide

theorem witness_StepRunsWord : (let s := State.reset.place 0x40601020
    s.agenda = [] ∧ s.slots.length = 1 ∧ s.cur = none) ∧ (State.reset.agenda = [] ∧ State.reset.slots = []) ∧
    (match (all4 []).lead with | some l => l.clause.isSome | none => false) = true ∧ (all4 []).fetch 4 = .word 0x40000000 ∧ (decode 0x40000000).isSome = true ∧
    (all4 []).fetch 12 = .word 0xCE000000 ∧ (all4 []).fetch 64 = .past := by decide

theorem witness_StepGoes : State.reset.agendaOk := by intro e he; cases he
theorem witness_SoundKept : pl.Sound ∧ (match step pl with | .next _ => true | _ => false) = true :=
  ⟨⟨(fun _ h => nomatch h), by decide, by decide, by decide, by decide, by decide⟩, by decide⟩
theorem witness_RoundTrip : (Instr.iadd 3 1 2 0).wf = true ∧ (encode (.iadd 3 1 2 0)).isSome = true ∧ (decode 0x40000000).isSome = true := by decide

theorem witness_WarpEvents_load : (let s := withW fun w => { w with gloads := [⟨4, 0, 8, 4, 3, .lane, [], []⟩] }
    (smGet s.blocks 0).bind (fun b => (smGet b.warps 0).map fun w => (b.core.isSome, w.queue.length, w.gloads[0 - w.queue.length]?, w.windows.isEmpty)) =
      some (true, 0, some ⟨4, 0, 8, 4, 3, .lane, [], []⟩, true)) ∧
    warpIs (exec (.storeQueueDrain 0 0 0) { withW fun w => { w with gloads := [⟨4, 0, 8, 4, 3, .lane, [], []⟩] } with dies := listMod pl.dies 0 fun d => { d with granary := [(8, 5)] } })
      (fun w => w.gloads.isEmpty) = true := by decide

theorem witness_FarEvents_host : (let s : State := { pl with hostQ := [(50, 2 ^ 59, [7])] }
    (s.hostQ.filter fun q => q.1 == 50) = [(50, 2 ^ 59, [7])] ∧ (s.hostQ.filter fun q => q.1 != 50) = [] ∧ s.frozen (2 ^ 59) = false ∧ s.farQ = []) ∧
    (planesMapped (aSession .open)).planePages 0 ⟨true, 0, 32, 0, 0⟩ ≠ [] ∧ Tensor.elemAt ⟨true, 0, 32, 0, 0⟩ 5 = some (4, 2) := by decide

theorem witness_CopyEvents_lands : (let c : Copy := { aCopy with accepted := true, next := 1, out := [⟨16, [0x5A], 0⟩] }
    c.out[0]? = some ⟨16, [0x5A], 0⟩ ∧ c.walk.dsp ≠ 2 ∧ c.unitOpen 2 = false ∧ c.spoilt = [] ∧ (smGet pl.blocks c.blk).map (·.core.isSome) = some true ∧
      pl.cut 0 64 = false ∧ pl.frozen 64 = false) := by decide

theorem witness_PlaneSteps_begin : (sess (aSession .open)).mayBegin 0 0 0 [] = true ∧
    ({ pl with farQ := [acc 50 1 64] } : State).mayBegin 0 0 0 [50] = false := by decide

theorem witness_PlaneRounds_part : (let y : Round := { aRound with got := [(7, 0, 3, 256 * 127 + 8)] }
    (7, 0, 3, 256 * 127 + 8) ∈ y.got ∧ (∀ z ∈ y.got, z.1 = 7 → z.2.1 = 0 → z.2.2.1 = 3 → z.2.2.2 = 256 * 127 + 8) ∧ (8 : Nat) < 256) ∧
    (aSession .open).tensor? 0 = some ⟨true, 0, 32, 0, 0⟩ ∧ (aSession .open).trust = [3] := by decide

theorem witness_GridEvents_more : served.leader.isSome = true ∧ (let s : State := { served with inbound := [⟨0, 64, 0, none, some (5, 1), none⟩] }
      s.launchHeld ⟨0, 64, 0, none, some (5, 1), none⟩ = false) ∧
    (match pl.readWaita { placedGrid with packet := { placePacket with waita := 64 } } with | .bad _ _ _ => true | _ => false) = true ∧
    placedGrid.retireAt = [] ∧ { placedGrid with packet := { placePacket with reta := 64 } }.retireAt = [(64, 8, 1)] ∧ (mapped pl).vaHeld 0 0 1 64 = false ∧
    pl.session = none := by decide

theorem witness_PageEvents_lines : (let s : State := { pl with moves := [⟨0, 0, 64, 64, false, [], [0], false⟩] }
    (s.moves.find? fun x => x.die == 0 && decide (0 < 4) && !x.ended) = some ⟨0, 0, 64, 64, false, [], [0], false⟩ ∧ s.frozen 8 = true ∧ s.home 8 = 8 ∧
      Memory.wf s.far = true) ∧ ({ pl with moves := [⟨0, 0, 64, 64, false, [0], [], false⟩] } : State).home 8 = 72 ∧
    (let g : Grid := { placedGrid with depOk := false, packet := { placePacket with waita := 64 } }
     (({ mapped pl with deadPlanes := [0, 1, 2, 3, 4, 5, 6, 7] } : State).noteGrid g).deadSince = [(0, ⟨0, [(0, 64)], 64, 0⟩)]) := by decide

theorem witness_HealthEvents_more : (let s : State := { pl with failedCores := List.range 48, dies := listMod pl.dies 0 fun d => { d with pairFailed := true, running := some 0 } }
    (s.die 0).pairFailed = true ∧ (∀ i < 48, 48 * 0 + i ∈ s.failedCores) ∧ (s.die 0).running.isSome = true) ∧ pl.failedCores = [] ∧ smWf pl.blocks = true ∧
    (smGet pl.blocks 0).map (fun b => pl.runsOn b 0) = some true ∧ pl.outcomes = [] ∧ pl.laneSets = [] ∧ pl.grids ≠ [] ∧ (sess (aSession .closed)).session.isSome = true ∧
    after (exec (.machineCheck (9 * 2 ^ 33 + 2 ^ 32))  pl) (fun t => t.failedCores == [0] && t.blocks.all (·.2.stopped)) = true := by decide

theorem witness_HostCommands_more : served.buffers = [] ∧ served.identFree = false ∧ served.busyRpc 5 = false ∧ (5 : Nat) ≠ 0 ∧
    (mapped served).rangeHeld 0 0 0 64 1 = false ∧ (mapped served).rangeHeld 0 0 1 64 1 = false ∧ served.joinedLive = placedGrid.joined ∧
    (served.syncWaits 1 = false) ∧ (aSession .closed).carriesAll [0] [0 :: List.replicate 64 0] = true := by decide

theorem witness_HostEvents_more : (let s : State := { served with certs := [(0, false)] }
    (0, (0 : Nat) == 1) ∈ s.certs ∧ (∀ r ∈ s.rpcs, r.token ≠ s.serial)) ∧ (0, (0 : Nat) == 1) ∉ served.certs ∧
    (served.rpcs.find? fun x => x.token == 5).isSome = true ∧ served.buffers = [] ∧
    (let s : State := { pl with hostQ := [(50, 2 ^ 59, [0])], farQ := [acc 50 4 (2 ^ 59)] }
     s.atomHeld (2 ^ 59) = true ∧ pl.atomHeld (2 ^ 59) = false ∧ pl.frozen (2 ^ 59) = false) ∧
    (let bs : List Byte := (rpcReply 1 2 3 4 [9]).map fun x => BitVec.ofNat 8 x
     numAt bs 4 2 = 1 ∧ numAt bs 6 2 = 2 ∧ numAt bs 8 8 = 3 ∧ numAt bs 16 8 = 4 ∧ numAt bs 24 4 = 1) := by decide

theorem witness_StepRunsWord_slotA : (let s := State.reset.place 0x40601020
    match s.slots with
    | [] => false
    | sl :: r =>
      let z : State := { s with slots := r }
      let cs := z.candidates sl.core sl.part 0
      let y := z.useHints (z.warpsOn sl.core sl.part 0) cs
      match cs with
      | [] => false
      | c :: _ =>
        (match (y.focus c.blk c.wid).readyPaths with
          | [] => false
          | p :: _ =>
            let g := y.at c.blk c.wid p.mask
            sl.slot == 0 && !z.narrow sl.core && !z.busySlot sl 0 && !(z.at c.blk c.wid p.mask).atHeader && g.partner p.mask == 0 &&
              (ranWord g).2 && (ranWord (g.beside p.mask)).2)) = true := by decide

/-- Two paths, the lanes of the second of which slot B issues after slot A. -/
def secondState : State :=
  { withW fun w => { w with second := 1, lanes := w.lanes.map fun l => if l.id = 0 then { l with depth := 1 } else l } with
    slots := [⟨0, 0, 1⟩], issue := [(issueKey 0 0 0, ⟨some (0, 0), 0, true, none, none, false, 0, none⟩)] }

theorem witness_StepRunsWord_slotB : (let f : State := { secondState.focus 0 0 with im := (secondState.focus 0 0).w.second }
    (secondState.issueOf 0 0 0).last = some (0, 0) ∧ secondState.narrow 0 = false ∧ f.im ≠ 0 ∧ (ranWord f).2 = true ∧
      f.lead.map (·.clause.isSome) = some true ∧ secondState.trapWaits ⟨0, 0, 1⟩ 1 f (ranWord f).1 = false) := by decide

/-! ### States for further clauses -/

theorem witness_SharedChecks_formed : (let s := all4 []
    let i : Instr := .iadd 127 1 2 0
    let sh := shapeOf s.W i
    let t : State := { s with w := { s.w with budget := 64 } }
    (i.wf && widthOk s.W i && placeOk s sh && hintsOk i sh s.hint && fsOk s sh) = true ∧ 127 ∈ srcV sh t.hint ++ sh.vw ∧ t.w.budget ≤ 127 ∧
      (∀ n ∈ srcV sh s.hint ++ sh.vw, n < s.w.budget) ∧ (∀ n ∈ uniR s sh false, n < s.pkt.ub) ∧ fsOk s (shapeOf s.W (.movs 200 6)) = true ∧
      (let u : State := { s with grids := [(placeGrid, { placedGrid with packet := { placePacket with ub := 64 } })] }
       (uniR u (shapeOf u.W (.smovi 200 1)) false).any (fun n => decide (u.pkt.ub ≤ n)) = true)) := by decide

theorem witness_Launches_reads : (let s : State := { mapped (leader (all4 [])) with deadPlanes := [0, 1, 2, 3, 4, 5, 6, 7] }
    let i : Inbound := ⟨0, 0, 0, some (s.blk.grid, s.blk.key), none, none⟩
    (s.launchDead i).isEmpty = false ∧ s.wordSent = none ∧ s.w.queue = [] ∧ s.acquires = []) ∧
    (let s : State := { mapped (leader (all4 [])) with dies := listMod (mapped (all4 [])).dies 0 fun d => { d with ctl := [(0x74, 0xFF), (0x4000, 0x10000)], sched := [(0x74, 0xFF), (0x4000, 0x10000)] } }
     let i : Inbound := ⟨0, 0, 0, some (s.blk.grid, s.blk.key), none, none⟩
     s.launchDead i = [] ∧ s.launchHeld i = true) := by decide

theorem witness_Regrouping_target : causes (exec (.reform 1 (2 ^ 14 - 3) 0) (all4 [])) = [0x14] ∧ causes (exec (.reform 1 2 0) (all4 [])) = [0x14] ∧
    causes (exec (.reform 1 1 0) (all4 [])) = [0x10] := by decide

theorem witness_ServiceCallIssue_room : (let q := all4 []
    let s : State := { q with dies := listMod q.dies 0 fun d => { d with ctl := [(0xA8, 0x80000007)], sched := [(0xA8, 0x80000007)] }, trained := [] }
    s.w.parked = none ∧ s.w.queue = [] ∧ s.w.gloads = [] ∧ s.farDone s.blk.key s.w.wid 7 5 s.serial = true ∧ s.dieNo < s.dies.length ∧ s.moves = [] ∧
      (∀ j < 5, s.areaHeld 0 (64 * j) 64 = false) ∧ s.svcStalls 4 = false ∧ (s.issuing.filter (·.pget 0)).length = 4) := by decide

theorem witness_TileWords_granary : (let s := withG (withS [(4, 0), (6, 0x200000)] (all4 []))
    Ready (.cvtChk 4 3 0 0) s ∧ 0x200000 / 2 ^ 21 % 4 = 1 ∧ s.rangeTrap 1 (0, 31) = none ∧ s.acquires = [] ∧
      after (exec (.cvtChk 4 3 0 0) s) (fun t => t.chks.length == 1 && t.w.gloads.all (fun x => x.dest == .tile) && !t.w.gloads.isEmpty) = true) := by
  unfold Ready; decide

theorem witness_WarpEvents_uniform : (let x : GLoad := ⟨4, 0, 8, 4, 3, .uniform, [], []⟩
    let s : State := { withW fun w => { w with gloads := [x] } with dies := listMod pl.dies 0 fun d => { d with granary := memWrite [] 8 (leBytes 4 5) } }
    warpIs (exec (.storeQueueDrain 0 0 0) s) (fun w => w.gloads.isEmpty && w.sraw 3 == 5) = true) := by decide

/-- A CVT.chk of a tile in the Granary with two bytes still to come. -/
def aChk : ChkOp := { op := 90, blk := 0, wid := 0, lanes := [0], words := [0, 0, 0x200000, 0], sub := 3, k := 0, bytes := [], st := 0, clk := [] }

theorem witness_WarpEvents_tile : (let xs : List GLoad := [⟨4, 0, 8, 1, 90, .tile, [], []⟩, ⟨5, 1, 9, 1, 90, .tile, [], []⟩]
    let s : State := { withW fun w => { w with gloads := xs } with chks := [aChk] }
    (smGet s.blocks 0).map (·.save) = some none ∧ s.chks.find? (·.op == 90) = some aChk ∧
      after (exec (.storeQueueDrain 0 0 0) s) (fun t => t.chks.map (fun c => c.bytes.map (·.1)) == [[0]]) = true) := by decide

theorem witness_FarEvents_lanes : (let x : FarAcc := { acc 50 2 64 with lanes := [(0, 64, 3, 7, 0), (1, 66, 3, 9, 0)] }
    let s : State := { pl with farQ := [x] }
    s.session = none ∧ s.canPerform x = true ∧ (∀ l ∈ x.lanes, ∀ j < 4, s.home (l.2.1 + j) = s.home l.2.1 + j) ∧
      after (exec (.lineAccessPerform 50) s) (fun t => memNat t.far 0 64 4 == 0x90007 && memNat t.far 0 66 4 == 9) = true) ∧
    (let x := acc 50 2 64
     ∀ p ∈ (sess (aSession .open)).planePages 0 ⟨true, 0, 32, 0, 0⟩, ∀ l ∈ x.lanes, ∀ j < x.size, l.2.1 + j < p.2 ∨ p.2 + 65536 ≤ l.2.1 + j) ∧
    smWf pl.blocks = true ∧ (∀ b ∈ pl.blocks, smWf b.2.warps = true) ∧ ({ pl with farQ := [acc 50 1 64] } : State).canPerform (acc 50 1 64) = true := by decide

theorem witness_CopyEvents_stamps : (let w (sp : Nat) : Copy := { aCopy with accepted := true, next := 1, walk := { aCopy.walk with stsp := sp } }
    (∀ sp < 3, ({ pl with copies := [w sp] } : State).slotOpen (w sp) = true ∧ ({ pl with copies := [w sp] } : State).copyAcked (w sp) = true) ∧
      (smGet pl.blocks aCopy.blk).map (·.core.isSome) = some true ∧ aCopy.status < 0x11 ∧ aCopy.die < pl.dies.length ∧ pl.session = none ∧
      (∀ j < 8, pl.home (aCopy.slot + j) = pl.home aCopy.slot + j)) ∧ locHost (pl.home (2 ^ 59)) = true ∧ locHost (pl.home 64) = false := by decide

theorem witness_PlaneSteps_several : (let u := { anUpd with cnt := 2 }
    let x : Session := { aSession .open with upds := [u] }
    let s : State := { withB fun b => { b with shared := memWrite [] 0 (leBytes 8 0x3F8000003F800000) } with session := some x }
    (s.gradients u ⟨true, 0, 32, 0, 0⟩ [0, 1]).2 = [0x3F800000, 0x3F800000] ∧
      (∀ g ∈ (s.gradients u ⟨true, 0, 32, 0, 0⟩ [0, 1]).2, finite32 (r32 (xrDiv (decodeFmt 0 g) (f32 x.ls))) = true)) ∧
    (match ((planesMapped (aSession .open)).planesReach 0 ⟨true, 0, 32, 0, 0⟩ [0, 1, 2, 4, 5] [0, 1]).1 with | .ok _ _ => true | _ => false) = true := by decide
theorem witness_PlaneSteps_merged : (let m := { aClose with close := false, stage := 1 }
    let x : Session := { aSession .closed with ops := [m], groups := [{ aGroup with pv := true }], tensors := [(0, ⟨true, 0, 1, 0, 0⟩)] }
    ((List.range 16).filter fun g => x.groups[g]?.map (·.pv) == some true) = [0] ∧ (x.ofGroup 0).length = 1 ∧
      (match ((planesMapped x).tensorsReach 0 [0, 1, 2, 3] (x.ofGroup 0)).1 with | .ok _ _ => true | _ => false) = true) := by decide
theorem witness_PlaneRounds_fold : (let y : Round := { aRound with isls := [0], got := [(0, 0, 0, 256 * 127 + 8)] }
    let x : Session := { aSession .closed with round := some y, tensors := [(0, ⟨true, 0, 1, 0, 0⟩)] }
    let s := planesMapped x
    y.isls.contains (s.die 0).isl = true ∧ x.complete y = true ∧ (∀ g < 16, y.mask.testBit g = true → x.groups[g]?.map (·.pv) ≠ some true) ∧
      (match (s.tensorsReach 0 [2, 3, 6] (x.ofGroup 0)).1 with | .ok _ _ => true | _ => false) = true) := by decide

theorem witness_GridEvents_held : (let s : State := { mapped pl with dies := listMod (mapped pl).dies 0 fun d => { d with ctl := [(0x74, 0xFF), (0x4000, 0x10000)], sched := [(0x74, 0xFF), (0x4000, 0x10000)] } }
    s.rangeHeld 0 0 0 0 8 = true ∧ (mapped pl).rangeHeld 0 0 0 0 8 = false) ∧
    (let c := { aCopy with accepted := false }
     let s : State := { pl with copies := [c] }
     s.descends placeGrid 11 placeGrid = true ∧ (smGet s.grids placeGrid).isSome = true) := by decide

theorem witness_SwapEvents_cut : (let s : State := { pl with deadPlanes := [0, 1, 2, 3, 4, 5, 6, 7] }
    s.areaCut 0 64 64 = true ∧ s.areaHeld 0 64 64 = true ∧ pl.areaHeld 0 64 64 = false ∧ pl.areaCut 0 64 64 = false) := by decide

theorem witness_ControlWrites_acting : (∀ o ∈ [0x4C, 0x5C, 0x70, 0x74, 0x88, 0x98, 0x9C, 0x90, 0xAC, 0xB8], ctlActs o = true) ∧ (4 : Nat) ≤ 4 ∧ 0x20 < 2 ^ 24 ∧
    after (exec (.controlRegisterWrite 4 (0x00F000000000 + 0x01000000 * 2 + 0x20) 9) pl) (fun t => (t.die 2).ctlNat 0x20 == 9 && (t.die 0).ctlNat 0x20 == 4) = true ∧
    after (exec (.controlRegisterWrite 0 0x70 1) pl) (fun t => (t.die 0).planeMap 0 == 1) = true := by decide

theorem witness_PageEvents_controllers : (let i : Inbound := ⟨0, 64, 0, none, none, some ⟨0, [(0, 64)], 64, 0⟩⟩
    let e : LoftEntry := { placedCode 0 with st := .loading, cont := 64, deadSince := some ⟨0, [(0, 64)], 64, 0⟩ }
    let s : State := { mapped pl with deadPlanes := [0, 1, 2, 3, 4, 5, 6, 7], inbound := [i], loft := [(0, e)]
                                      dies := listMod (mapped pl).dies 0 fun d => { d with ref := 2 ^ 24 } }
    (s.inbound.find? fun i => i.die == 0) = some i ∧ (s.launchDead i).isEmpty = false ∧ 0 + 1200 * (s.die 0).tms ≤ (s.die 0).ref ∧
      smGet s.loft (0 * 256 + 0) = some e ∧ (s.overlayDead 0 e).isEmpty = false) := by decide
theorem witness_PageEvents_copies : (let c : Copy := { aCopy with accepted := true, deadSince := some ⟨0, [(0, 64)], 64, 0⟩, walk := { aCopy.walk with ssp := 2, sbase := 0 } }
    let s : State := { mapped pl with deadPlanes := [0, 1, 2, 3, 4, 5, 6, 7], copies := [c], dies := listMod (mapped pl).dies 0 fun d => { d with ref := 2 ^ 24 } }
    (s.copyDead c).isEmpty = false ∧ 0 + 1200 * (s.die c.die).tms ≤ (s.die c.die).ref) := by decide

/-- A leader, and a call that no service has answered. -/
def calling : State := { parkedState with dies := served.dies, calls := parkedState.calls.map fun c => { c with replies := [], consumed := false } }

theorem witness_WarpResumptions_serve (c : SvcCall) : calling.serveStops c false [] [] = false := by
  have h (d a n : Nat) : calling.areaHeld d a n = false := areaHeld_open rfl (by decide) rfl rfl d a n
  simp [State.serveStops, h]

theorem witness_HostCommands_pages : (let u := mapped served
    u.tablesCut 0 0 65536 1 = false ∧ u.anyShooting = false ∧ rangeOk 0 65536 0 1 = true ∧ (u.die 0).root 0 = none ∧
      pteBad 0 (2 ^ 61 + 0 + 7 * 32) = false ∧ (0 : Nat) + 1 * 2 ^ levelShift 0 ≤ 2 ^ 47 ∧ u.leafPlace 0 0 65536 false = some (none, u)) ∧
    (let u : State := { mapped served with shoots := [], dies := listMod (mapped served).dies 0 fun d => { d with ctl := [(0x4C, 0x80000000)], sched := [(0x4C, 0x80000000)] } }
     u.anyShooting = true) := by decide
theorem witness_HostCommands_anchor : (let x : Session := { aSession .closed with tensors := [(0, ⟨true, 0, 1, 0, 0⟩)] }
    let s : State := { planesMapped x with rpcs := served.rpcs }
    s.syncWaits 1 = false ∧ x.step = .closed ∧ (x.ofGroup 0).length = 1 ∧
      (match (s.tensorsReach 0 [0, 1, 2, 3, 6] (x.ofGroup 0)).1 with | .ok _ _ => true | _ => false) = true ∧ (0 : Nat) = x.valid.head?.map (·.1)) := by decide
theorem witness_HostCommands_header : ∃ (lo : Nat → List Nat) (hi : List Nat), ∀ c < 2 ^ 16, readHeader (lo c ++ hi) = some (c, 5, 1) :=
  ⟨fun c => rpcHeader c 0 5 1 0, [], fun c h => by
    rw [List.append_nil]
    exact readHeader_command c 5 1 0 h (by decide) (by decide) (by decide)⟩

theorem witness_HostEvents_revoked : served.leader.isSome = true ∧ (∀ x ∈ served.rpcs, ∀ y ∈ served.rpcs, x.token = y.token → x = y) ∧ served.buffers = [] ∧
    (served.rpcs.find? fun x => x.token == 6) = none ∧ pl.planeCells (2 ^ 59 + 8) 4 = [] := by decide

/-! ### Broken bytes, unanswered reads, and what else a clause names -/

theorem witness_FloatExactness_root : (3 : Nat) ≠ 0 ∧ xrRsq (.num false 4 0) ≠ .nan ∧
    decodeFmt 0 0x7FC00000 = .nan ∧ (decodeFmt 1 0x8000).isZero = true ∧ decodeFmt 0 0xFF800000 = .inf true ∧
    (match decodeFmt 0 0x4B800000 with | .num false m e => decide (fmtM 0 ≤ (Nat.log2 m : Int) + e) && decide (m ≠ 0) | _ => false) = true ∧
    (match decodeFmt 0 0x3FC00000 with | .num false m e => decide ((Nat.log2 m : Int) + e < fmtM 0) && decide (m ≠ 0) | _ => false) = true := by decide

/-- An uncorrectable error stands in a byte of the block's shared memory. -/
def chipped (a : Nat) (s : State) : State := { s with badChip := [(sharedTag s.blk.key, a)] }

theorem witness_broken_bytes : (all4 []).brokenAt 0 8 = false ∧ (chipped 3 (all4 [])).brokenAt 0 4 = true ∧ (chipped 3 (all4 [])).brokenAt 4 4 = false ∧
    (chipped 3 (withQ [aStore 0 1] (all4 []))).brokenAt 0 4 = false ∧ Ready (.ldsB32 3 1 0 0) (chipped 3 (all4 [])) ∧
    Ready (.atom 4 1 0 0 0 0) (chipped 3 (all4 [])) ∧ Ready (.hurdleArrive 1 1 0) (chipped 3 (all4 [])) ∧
    Ready (.waitst 1 2 0) (chipped 3 (all4 [])) ∧ Ready (.glean 3 1 4 0) (chipped 2 (ragged 0 32 0 (all4 []))) ∧
    (∀ i ∈ [Instr.ldsB32 3 1 0 0, .atom 4 1 0 0 0 0, .hurdleArrive 1 1 0, .hurdleWait 1 2 0, .waitst 1 2 0],
      after (exec i (chipped 3 (all4 []))) (fun t => t.agenda == [.machineCheck 0]) = true) := by unfold Ready; decide

theorem witness_StampWaits_dead : (let s : State := { mapped (all4 []) with deadPlanes := [0, 1, 2, 3, 4, 5, 6, 7] }
    let x : Sent := ⟨0, [(0, 0)], 0, 0⟩
    let u : State := withL (fun l => { l with hint := { l.hint with sent := some x } }) s
    Ready (.waitstFar 4 2 0) s ∧ s.wordSent = none ∧ s.stampsDead [(0, 0)] ≠ [] ∧ Ready (.waitstFar 4 2 0) u ∧ u.wordSent = some x ∧
      u.timeUp u.dieNo x.since = false ∧ ({ u with dies := listMod u.dies 0 fun d => { d with ref := 2 ^ 24 } } : State).timeUp u.dieNo x.since = true ∧
      (mapped (all4 [])).stampsDead [(0, 0)] = []) ∧
    (let c : Copy := { aCopy with id := 60, landOn := true, accepted := true }
     let s := withS [(2, 0), (3, 64)] (all4 [])
     Ready (.land 2) { s with copies := [c] } ∧ after (exec (.land 2) { s with copies := [c] }) (fun t => t.stalled && t.w.lanes.all (fun l => l.hint.land == [60])) = true ∧
       after (exec (.land 2) s) (fun t => !t.stalled) = true) := by unfold Ready; decide

theorem witness_ReturnsAndExits_armed : (let s := all4 []
    let t : State := { s with blk := { s.blk with batons := [(2, aBaton)] } }
    Ready (.exit 0) t ∧ after (exec (.exit 0) t) (fun u => u.w.lanes.all (·.st == .exited)) = true ∧
      after (exec (.exit 1) (halfP t)) (fun u => (smGet u.blk.batons 2).map (·.count) == some 2) = true) := by unfold Ready; decide

theorem witness_TileWords_broken : (let s := withS [(4, 0), (6, 0)] (all4 [])
    Ready (.cvtChk 4 3 0 0) (chipped 3 s) ∧ (chipped 3 s).brokenAt 0 32 = true ∧ s.brokenAt 0 32 = false ∧ s.rangeTrap 0 (0, 31) = none) := by unfold Ready; decide

theorem witness_OverlayWords_full : (let e : LoftEntry := { placedCode 0 with tenant := 1, slots := 256, base := [] }
    ({ empty0 with loft := [(0, e)] } : State).makeRoom 0 0 1 [] = none ∧ ({ empty0 with loft := [(0, e)] } : State).slotsUsed 0 0 = 0 ∧
      ({ empty0 with loft := [(0, e)] } : State).slotsOn 0 = 256 ∧ (({ empty0 with loft := [(0, { e with slots := 255 })] } : State).makeRoom 0 0 1 []).isSome = true) := by
  decide

theorem witness_WarpEvents_landed : (let q : QStore := { aStore 0 1 with after := [60], op := some 90, bytes := [1] }
    let s : State := { withW fun w => { w.mark 0 90 false with queue := [q, { q with addr := 1 }] } with copies := [aCopy] }
    stays (.storeQueueDrain 0 0 0) s = true ∧
      warpIs (exec (.storeQueueDrain 0 0 1) { s with copies := [] }) (fun w => w.queue.map (·.addr) == [0] && !(w.flag 0).ops.isEmpty) = true) := by decide

theorem witness_FarEvents_planes : (let s := planesMapped (aSession .open)
    let u : Tensor := ⟨true, 0, 32, 0, 0⟩
    (0, u) ∈ (aSession .open).valid ∧ (0, 0) ∈ s.planePages 0 u ∧ s.home (0 + 0) = s.home (0 + 0) ∧ u.elemAt (0 + 0) = some (0, 2) ∧ smWf s.far = true ∧
      smGet ({ s with far := [(0, 9)] } : State).far 0 = some 9 ∧ smGet (({ s with far := [(0, 9)] } : State).softWrite 50 0 [5]).far 0 = none) ∧
    (let s : State := { pl with hostQ := [(50, 2 ^ 59, [0, 0, 0, 0])], farQ := [acc 51 0 (2 ^ 59)] }
     s.canPerform (acc 51 0 (2 ^ 59)) = true ∧ (s.sawHost [(2 ^ 59, 4)]).hostSeen = [50]) := by decide

/-- That copy accepted, with its kind and where it reads from and writes to. -/
def aWalk (kind ssp dsp : Nat) : Copy := { aCopy with accepted := true, kind := kind, walk := { aCopy.walk with ssp := ssp, dsp := dsp, sbase := 0, dbase := 64 } }

theorem witness_CopyEvents_far : (let c := aWalk 0 2 2
    let s : State := { mapped pl with copies := [c] }
    (match s.copyRead c 0, s.copyReach c 64 with | .ok l bs, .ok d _ => l == 0 && bs.length == 1 && d == 64 | _, _ => false) = true ∧
      (match ({ pl with copies := [c] } : State).copyRead c 0 with | .bad _ _ _ => true | _ => false) = true ∧
      after (exec (.copyElement (2 ^ 64 * 60)) s) (fun t => t.copies.map (fun c => c.out.map fun p => (p.loc, p.bytes.length)) == [[(64, 1)]]) = true ∧
      (let d := { c with out := [⟨64, [7], 0⟩], next := 1 }
       (s.cut d.die 64 = false ∧ s.frozen 64 = false) ∧ locHost (s.home 64) = false ∧
         after (exec (.copyElement (2 ^ 64 * 60 + 1)) { s with copies := [d] }) (fun t => memNat t.far farTag 64 1 == 7) = true)) := by decide
theorem witness_CopyEvents_tile : (let c := aWalk 1 2 0
    let s : State := { mapped pl with copies := [c], far := memWrite [] 0 (leBytes 8 8) }
    (match s.copyBytes c 0 8 with | (.ok _ hd, _) => leNat (hd.take 2) == 8 | _ => false) = true ∧
      decodeTile (leBytes 8 0) = .inr 0x15 ∧ decodeTile (leBytes 8 8) = .inr 0x15 ∧ decodeTile (leBytes 2 8200 ++ leBytes 2 2 ++ leBytes 4 0) = .inr 0x15 ∧
      (match ({ pl with copies := [c] } : State).copyBytes c 0 8 with | (.bad _ _ _, _) => true | _ => false) = true ∧
      takeCode 2 [true, false, true, false, true] = some (-3, [true]) ∧ predPixel 1 1 5 9 7 = 7) ∧
    (let c := { aWalk 1 2 0 with pixels := [5] }
     (match ({ mapped pl with copies := [c] } : State).copyReach c 64 with | .ok _ _ => true | _ => false) = true) := by decide
theorem witness_CopyEvents_trailer : (let c (sp : Nat) : Copy := { aWalk 2 sp 0 with next := 1, pixels := [5] }
    (∀ sp < 3, let s : State := { mapped pl with copies := [c sp] }
      s.slotOpen (c sp) = true ∧ s.copyAcked (c sp) = true ∧ (c sp).going = false) ∧
    pl.srcBroken (c 0) 16 16 = false ∧ (match (mapped pl).copyBytes (c 2) 16 16 with | (.ok _ tr, _) => tr.length == 16 | _ => false) = true) ∧
    (let c := { aWalk 0 0 1 with next := 1, status := 0x12, stopAt := some (0, 5, 1), walk := { (aWalk 0 0 1).walk with stsp := 1 } }
     let s : State := { pl with copies := [c] }
     c.going = false ∧ s.slotOpen c = true ∧ c.walk.total = 1 ∧ c.walk.ext.length = 6 ∧ c.die < s.dies.length ∧
       after (exec (.copyStampWrite 60) s) (fun t => memNat (t.die 0).granary 0 64 8 == 0x30012 && memNat (t.die 0).granary 0 84 8 == 5) = true) := by decide

/-- Fragments of 32 lanes, one row of A of ones each, and the descriptor of their warp: 32 x 32 x 8 binary16 elements. -/
def cubeFrags : List Fragment := (List.range 32).map fun l => ⟨0, l, (List.range 4).map fun r => (r, 0x3C003C00), []⟩
def cubeSeq : List (Nat × Nat) := (List.range 64).map fun l => (0, l % 32)
def cubeDescs (mode : Nat) : SMap CubeDesc := [(0, ⟨[8, 0, 0, 64], mode, 1, 0, 7⟩)]
/-- A station that holds B: 2 in its first element. -/
def cubeStation : Station := ⟨1, 0, 1, 8, 32, [(0, 0x4000)], []⟩
/-- The CUBE, in a block with that station. -/
def cubing (mode : Nat) : EngineEntry := { clearing with op := .cube mode 1 [8, 0, 0, 64] cubeFrags cubeSeq (cubeDescs mode) }
def cubingIn (mode : Nat) : State := { withB fun b => { b with stations := [(0, cubeStation)] } with engines := [(0, [cubing mode])] }

theorem witness_EnginePasses_cube : (∀ mode < 5, bestEntry ((cubingIn mode).eligible 0) = some (cubing mode)) ∧
    (smGet (cubingIn 0).blocks 0).map (fun b => (b.stationsOk 1 [8, 0, 0, 64], b.oneLoad 1 [8, 0, 0, 64], smGet b.stations (cStb [8, 0, 0, 64]))) =
      some (true, true, some cubeStation) ∧
    (∀ mode < 5, ∀ k < 8, (cubeTerm mode 1 [8, 0, 0, 64] cubeFrags cubeSeq (cubeDescs mode) cubeStation 31 0 k).isSome = true) ∧
    cubeTerm 0 1 [8, 0, 0, 64] cubeFrags cubeSeq (cubeDescs 0) cubeStation 0 0 0 = some [(0x3C00, 127), (0x4000, 127)] := by decide
theorem witness_EnginePasses_load : (let ws : List Nat := [0, 0, 16, 2 ^ 21 + 8]
    let e : EngineEntry := { clearing with op := .load false ws }
    let s : State := { pl with engines := [(0, [e])] }
    bestEntry (s.eligible 0) = some e ∧ cubeFmt (ws.getD 3 0 / 2 ^ 21 % 2 ^ 4) = true ∧ ws.getD 3 0 % 2 ^ 14 % cubeKs 1 = 0 ∧ smWf e.buf = true ∧ e.op.total = 4 ∧
      128 * (e.passes + 1) < 8 * (32 * 2)) := by decide

theorem witness_PlaneSteps_unanswered : (let x : Session := { aSession .open with upds := [anUpd], deadSince := [(0, ⟨0, [(0, 64)], 64, 90⟩)] }
    stays (.updSliceApply 0) (sess x) = true ∧ smGet x.deadSince (4 * 0) ≠ none) ∧
    (let q : State := { pl with hostQ := [(50, 2 ^ 59, [0])] }
     (q.block? 0).map (·.grid) = some placeGrid ∧ (smGet q.grids placeGrid).isSome = true) := by decide

theorem witness_GridEvents_counts : (let g : Grid := { placedGrid with blocksEnded := placedGrid.total, packet := { placePacket with cnta := 64, reta := 128 }, dies := [⟨0, 0, [(1, 7)]⟩] }
    let s : State := { mapped pl with blocks := [], grids := [(placeGrid, g)], far := memWrite [] 68 (leBytes 4 0xFFFFFFFE) }
    s.gridQuiet placeGrid = true ∧ g.counts = [(68, 7)] ∧ s.reachVa g.home g.tenant 2 68 = .ok 68 ∧ s.rangeHeld g.home g.tenant 2 68 4 = false ∧
      after (exec (.gridRetire placeGrid) s) (fun t => memNat t.far farTag 68 4 == 2 ^ 32 - 1 &&
        (smGet t.grids placeGrid).map (fun h => h.counts.isEmpty) == some true) = true ∧
      stays (.gridRetire placeGrid) { s with grids := [(placeGrid, { g with deadSince := [(0, ⟨0, [(0, 64)], 64, 1⟩)] })] } = true) := by decide

theorem witness_ControlWrites_claim : (let v : Nat := 0x80000005
    let s : State := served
    v.testBit 31 = true ∧ v / 4 % 2 ^ 16 = ((s.die 1).ctlNat 0xB8 / 4 % 2 ^ 16 + 1) % 2 ^ 16 ∧ s.outcomes = [] ∧ s.leader = some 0) ∧
    (let s : State := { pl with deadPlanes := [0, 1, 2, 3, 4, 5, 6, 7], trained := List.replicate 8 false }
     s.recordCut 0 = true ∧ pl.recordCut 0 = false) := by decide

/-- The reference time is well past the system timeout on every die, and no plane answers. -/
def overdue (s : State) : State := { s with deadPlanes := [0, 1, 2, 3, 4, 5, 6, 7], dies := s.dies.map fun d => { d with ref := 2 ^ 24 } }

theorem witness_PageEvents_flag : (let x : FarAcc := { acc 50 0 64 with born := some 0 }
    let s : State := overdue { withW fun w => w.mark 0 90 false with farQ := [x] }
    s.regsHeld x.blk = false ∧ 0 + 1200 * (s.die (x.core / 48)).tms ≤ (s.die (x.core / 48)).ref ∧
      (s.warp? 0 0).map (fun w => (w.flagOf 90, (smGet w.flags 0).map (·.ops.length))) = some (some 0, some 1)) := by decide
theorem witness_PageEvents_late : (let c := aWalk 0 0 2
    let a : Copy := { c with out := [⟨64, [7], 0⟩] }
    let b : Copy := { c with scope := 5, hostAcks := [(70, 0)] }
    let d : Copy := { c with deadSince := some ⟨0, [(0, 0)], 0, 0⟩ }
    let s (x : Copy) : State := overdue { mapped pl with copies := [x], hostQ := [(70, 2 ^ 59, [0])] }
    (∃ p ∈ a.out, 0 + 1200 * ((s a).die a.die).tms ≤ ((s a).die a.die).ref ∧ p.born = 0) ∧ (∃ n ∈ b.hostAcks, ∃ q ∈ (s b).hostQ, q.1 = n.1) ∧
      (d.deadSince.map (·.since)) = some 0 ∧ ∀ x ∈ [a, b, d], stays (.systemTimeout 1 60) { s x with dies := pl.dies } = true) := by decide
theorem witness_PageEvents_engines : (let w : Sent := ⟨0, [(0, 64)], 64, 90⟩
    let x (n : Nat) : Session := { aSession .open with upds := [anUpd], deadSince := [(n, { w with op := if n = 0 then 90 else 0 })] }
    let s (n : Nat) : State := overdue { withW fun w => w.mark 0 90 false with session := some (x n) }
    (x 0).upds.find? (fun v => v.op == w.op) = some anUpd ∧
      (match exec (.systemTimeout 2 0) (s 0) with | .next t => t.session.map (fun z => (z.upds.length, z.stopped)) | _ => none) = some (0, []) ∧
      warpIs (exec (.systemTimeout 2 0) (s 0)) (fun w => (w.flag 0).status == 0x17) = true ∧
      ∀ n ∈ [1, 2, 3, 7, 15], (match exec (.systemTimeout 2 n) (s n) with | .next t => t.session.map (fun z => (z.upds.length, z.stopped)) | _ => none) = some (1, [n / 4])) := by
  decide
theorem witness_PageEvents_grids : (let w (op : Nat) : Sent := ⟨0, [(0, 64)], 64, op⟩
    let g (op : Nat) : Grid := { placedGrid with blocksEnded := placedGrid.total, packet := { placePacket with reta := 64 }, deadSince := [(0, w op)] }
    let s (op : Nat) : State := overdue { mapped pl with blocks := [], grids := [(placeGrid, g op)] }
    smGet (g 1).deadSince 0 = some (w 1) ∧ (g 1).id = placeGrid ∧ (g 1).counts = [] ∧ smWf (s 1).grids = true ∧ (s 1).timeUp 0 0 = true) := by decide
theorem witness_PageEvents_byte : after (exec (.machineCheck 5) pl) (fun t => t.badChip == [(sharedTag 0, 4)]) = true ∧
    (let s : State := { pl with moves := [⟨0, 0, 64, 64, false, [], [0], false⟩], hostQ := [(50, 0, [0])] }
     stays (.migrationDone 0 257) s = true ∧ lineOf 0 = lineOf (s.home (0 + 64 * 0))) := by decide

theorem witness_HealthEvents_link : (let bs : List Byte := aSegment.map fun x => BitVec.ofNat 8 x
    let x : Session := { aSession .closed with round := some aRound }
    x.tensor? (numAt bs 10 2) = some ⟨true, 0, 32, 0, 0⟩ ∧ bs.length = 24 + (numAt bs 16 2 + 7) / 8 * 8 + 32 * numAt bs 16 2 ∧ numAt bs 16 2 = 1 ∧ numAt bs 18 6 = 0 ∧
      numAt bs 12 4 % 32 = 0 ∧ numAt bs 0 8 = aRound.r ∧ aRound.mask.testBit 0 = true ∧ aRound.got = [] ∧ (segmentParts bs 32).length = 32) ∧
    (let m : List Byte := ([1, 0, 0, 0, 0, 0, 0, 0, 0, 0, 1, 0, 1, 0, 0, 0, 9, 0, 0, 0, 0, 0, 0, 0, 7, 0] ++ List.replicate 64 1).map fun x => BitVec.ofNat 8 x
     m.length = 24 + 2 * numAt m 10 2 + 64 ∧ numAt m 10 2 = 1 ∧ numAt m 14 2 = 0 ∧ numAt m 20 4 = 0 ∧ numAt m 0 8 = (aSession .closed).nextRound ∧
       [numAt m 24 2].Pairwise (· < ·) ∧ (aSession .closed).round = none ∧ (aSession .closed).trust = [3]) := by decide

/-- A call of a service by lane 0 with words given. -/
def asking (num : Nat) (words : List Word) : State :=
  { calling with calls := calling.calls.map fun c => { c with num := num, args := [(0, words)] } }

theorem witness_WarpResumptions_services : (let ws : List Word := [4096, 12, 0, 0, 0, 0, 0, 0]
    ((asking 7 ws).calls.find? fun c => c.die == 0 && !c.consumed).map (fun c => (c.num, c.args)) = some (7, [(0, ws)]) ∧ (4096 : Nat) % 2 ^ 12 = 0 ∧
      (∀ p ∈ [(0 : Nat)], (asking 7 ws).bufferPage 0 p = some false) ∧ ((asking 7 ws).die 0).tenSlot 0 = none ∧
      (({ asking 7 ws with dies := listMod served.dies 0 fun d => { d with ctl := [(0x4000, 0x10000)], sched := [(0x4000, 0x10000)] } } : State).die 0).tenSlot 0 = some 0 ∧
      (asking 7 ws).calls.map (fun c => ((asking 7 ws).serve c true [4095, 12, 0, 0, 0, 0, 0, 0] []).1.take 3) = [[0, 0, 2]]) := by
  decide
theorem witness_WarpResumptions_stopped : (let s : State := { calling with blocks := smMod calling.blocks 0 fun b => { b with stopped := true } }
    after (exec (.serviceCall 0 1 [[1]]) s) (fun t => t.calls.map (fun c => (c.consumed, c.replies)) == [(true, [])] && (t.die 0).svcDone == 2) = true) ∧
    after (exec (.serviceCall 0 1 [[1]]) { calling with blocks := [] }) (fun t => t.calls.isEmpty) = true := by decide

theorem witness_HostCommands_repeated : (let r : Rpc := { token := 5, tenant := 0, owner := true, word := 0, seq := 1, journal := [(1, 2, [9])], openCmds := [], closing := none, codes := [(1, 0x12)] }
    let s : State := { served with rpcs := [r] }
    (s.rpcs.find? fun x => x.token == 5) = some r ∧ (r.journal.find? fun j => j.1 == 1) = some (1, 2, [9]) ∧ smGet r.codes 1 = some 0x12 ∧
      (∀ i ∈ [Instr.islandSet (cmd 0x12 1) [] 3 2, .unmap (cmd 0x11 1) [] 0 65536 0 1, .anchorSync (cmd 0x41 1) [] 1 0 [], .unknownCommand (cmd 0x99 1) [] []],
        replyOf (exec i s) = [0x12, 0, 2, 0, 5, 1]) ∧
      (∀ i ∈ [Instr.islandSet (cmd 0x12 3) [] 3 2, .telemetry (cmd 0x70 3) []], stays i s = true)) ∧ readHeader (cmd 0x12 3) = some (0x12, 5, 3) := by decide
theorem witness_HostCommands_several : (let u := mapped served
    rangeOk 0 65536 0 2 = true ∧ u.tablesCut 0 0 65536 2 = false ∧ (u.leafPlace 0 0 65536 false).isSome = true ∧ (u.leafPlace 0 0 131072 false).isSome = true ∧
      u.anyShooting = false ∧ (0 : Nat) + 2 * 2 ^ levelShift 0 ≤ 2 ^ 47) := by decide

theorem witness_HostEvents_first : readHeader (cmd 1 1) = some (1, 5, 1) ∧ readHeader (cmd 1 2) = some (1, 5, 2) ∧ readHeader [0] = none ∧
    readHeader ((cmd 1 1).set 6 1) = none ∧ readHeader ((cmd 1 1).set 0 0) = none ∧ pl.hostCut (2 ^ 59 + 8) = false := by decide

/-- The package with no stack trained. -/
def untrained : State := { pl with trained := List.replicate 8 false }

theorem witness_HostEvents_cut : untrained.hostCut 64 = true := by
  have h := (by decide : ∀ n < 8, untrained.trained.getD n true = false) (stackOf 64) (Nat.mod_lt _ (by decide))
  have e : untrained.home 64 = 64 := by decide
  have g : locHere 64 = true := by decide
  simp only [State.hostCut, e, g, h, Bool.not_false, Bool.and_self, Bool.or_true]

/-- The header's WAIT mask names flag 3, and the lanes stand at the first word of its clause. -/
def atFirst (ops : List FlagOp) : State :=
  let s := withL (fun l => { l with clause := some ⟨0, 1, 2, 8⟩ }) (all4 [])
  { s with w := { s.w with flags := [(3, { ops := ops, status := 0, cube := false, lost := false })] } }

theorem witness_StepRunsWord_wait : (let s := atFirst []
    let t := atFirst [⟨90, none, false⟩]
    let u : State := { t with blk := { t.blk with accLost := true }, w := { t.w with flags := [(3, { ops := [], status := 0, cube := true, lost := true })] } }
    s.lead.map (fun l => (l.clause.map (·.wait)).getD 0) = some 8 ∧ s.accTrap 8 = false ∧ s.w.seen.flagsClear 8 = true ∧ t.w.seen.flagsClear 8 = false ∧
      u.accTrap 8 = true ∧ (s.fetch 8 = .word plainHeader ∨ s.lead.isSome = true)) := by decide
theorem witness_StepRunsWord_header : (let s : State := { withLanes (fun l => { l with pc := 0, clause := none }) with slots := [⟨0, 0, 0⟩] }
    match s.slots with
    | [] => false
    | sl :: r =>
      let z : State := { s with slots := r }
      let cs := z.candidates sl.core sl.part 0
      let y := z.useHints (z.warpsOn sl.core sl.part 0) cs
      match cs with
      | [] => false
      | c :: _ =>
        (match (y.focus c.blk c.wid).readyPaths with
          | [] => false
          | p :: _ =>
            let g := y.at c.blk c.wid p.mask
            !z.narrow sl.core && !z.busySlot sl 0 && (z.at c.blk c.wid p.mask).atHeader && g.lead.map (·.clause) == some none)) = true := by decide

end Sys2Proof.Tests
end

section
/-! SUPPORT. The uniform arithmetic words (R256, R257): their shifts as arithmetic on the count, and the proof of their
statement. -/

namespace Sys2Proof.Machine

/-! ### Shifts by any count (R257, R274) -/

/-- From a count of 32 up every bit of the word has been shifted out. -/
theorem shl32_eq_ofNat (x c : Word) : shl32 x c = BitVec.ofNat 32 (x.toNat * 2 ^ c.toNat) := by
  unfold shl32
  split
  case isTrue => apply BitVec.eq_of_toNat_eq; simp [Nat.shiftLeft_eq]
  case isFalse h =>
    obtain ⟨k, hk⟩ := Nat.exists_eq_add_of_le (Nat.le_of_not_lt h)
    have hz : x.toNat * 2 ^ c.toNat % 2 ^ 32 = 0 :=
      Nat.mod_eq_zero_of_dvd (Dvd.dvd.mul_left (hk ▸ Nat.pow_dvd_pow 2 (Nat.le_add_right 32 k)) _)
    exact BitVec.eq_of_toNat_eq hz.symm

theorem shr32_eq_ofNat (x c : Word) : shr32 x c = BitVec.ofNat 32 (x.toNat / 2 ^ c.toNat) := by
  have hx : x.toNat / 2 ^ c.toNat < 2 ^ 32 := lt_of_le_of_lt (Nat.div_le_self _ _) x.isLt
  apply BitVec.eq_of_toNat_eq
  rw [BitVec.toNat_ofNat, Nat.mod_eq_of_lt hx]
  unfold shr32
  split
  case isTrue => rw [BitVec.toNat_ushiftRight, Nat.shiftRight_eq_div_pow]
  case isFalse h =>
    have hc : 2 ^ 32 ≤ 2 ^ c.toNat := Nat.pow_le_pow_right (by decide) (Nat.le_of_not_lt h)
    exact (Nat.div_eq_of_lt (lt_of_lt_of_le x.isLt hc)).symm

/-- From a count of 32 up the quotient rounds down to 0 or to -1, as the sign says. -/
theorem toInt_div_two_pow_of_le (x : Word) {n : Nat} (hn : 32 ≤ n) :
    x.toInt / 2 ^ n = if x.msb then -1 else 0 := by
  have hp : (2 : Int) ^ 32 ≤ 2 ^ n := pow_le_pow_right₀ (by decide) hn
  have hlo : -2 ^ 31 ≤ x.toInt := BitVec.le_toInt x
  have hhi : x.toInt < 2 ^ 31 := BitVec.toInt_lt
  have hs := BitVec.msb_eq_toInt (x := x)
  generalize (2 : Int) ^ n = p at hp
  split
  case isTrue h =>
    have hneg : x.toInt < 0 := by simpa [h] using hs
    exact Int.ediv_eq_iff_of_pos (by omega) |>.mpr ⟨by omega, by omega⟩
  case isFalse h =>
    have hpos : ¬ x.toInt < 0 := by simpa [h] using hs
    exact Int.ediv_eq_zero_of_lt (by omega) (by omega)

theorem sar32_eq_ofInt (x c : Word) : sar32 x c = BitVec.ofInt 32 (x.toInt / 2 ^ c.toNat) := by
  unfold sar32
  split
  case isTrue => rw [BitVec.sshiftRight, Int.shiftRight_eq_div_pow]; norm_cast
  case isFalse h => rw [toInt_div_two_pow_of_le x (Nat.le_of_not_lt h)]; split <;> rfl

/-! ### The statement -/

/-- A uniform word whose result the model spells otherwise than the statement does. -/
theorem uni_word_eq {s : State} {i : Instr} {d : Nat} {x y : Word} (hxy : x = y)
    (he : exec i s = issue i s (.go (s.sdone d x))) (hvw : (shapeOf s.W i).vw = []) : s.uni i [(s.sname 1 d, y)] :=
  hxy ▸ uni_word he hvw

/-- Settles O8: each word is one write of its first field, `uni_word`; the shifts are arithmetic on the count. -/
theorem uniformWords : Obligations.UniformWords := by
  unfold Obligations.UniformWords
  refine ⟨fun s sd sa sb x => ?_, fun s sd sa x imm => ?_⟩
  · exact ⟨uni_word rfl rfl, uni_word rfl rfl, uni_word rfl rfl, uni_word rfl rfl, uni_word rfl rfl,
      rfl, rfl, rfl, rfl, rfl⟩
  · exact ⟨uni_word rfl rfl, uni_word rfl rfl, uni_word rfl rfl, uni_word_eq (shl32_eq_ofNat ..) rfl rfl,
      uni_word_eq (shr32_eq_ofNat ..) rfl rfl, uni_word_eq (sar32_eq_ofInt ..) rfl rfl⟩

end Sys2Proof.Machine
end

section
/-! SUPPORT. SCMP (R260): the comparison codes over an order, a predicate written in every issuing lane, and the proof
of the statement. -/

namespace Sys2Proof.Machine

/-! ### The comparison codes (R237) -/

/-- Over a linear order the codes .eq, .ne, .lt, .le, .gt and .ge are its six comparisons. -/
theorem ccHolds_linearOrder {α : Type} [LinearOrder α] (cc : Nat) (x y : α) :
    ccHolds cc (decide (x = y)) (decide (x < y)) (decide (y < x)) =
      [decide (x = y), !decide (x = y), decide (x < y), decide (x ≤ y), decide (y < x), decide (y ≤ x)].getD cc false := by
  match cc with
  | 0 | 1 | 2 | 4 => rfl
  | 3 => simp [ccHolds, le_iff_lt_or_eq]
  | 5 => simp [ccHolds, le_iff_lt_or_eq, eq_comm]
  | n + 6 => rfl

theorem cmpWord_unsigned (cc : Nat) (a b : Word) : cmpWord cc true a b =
    [a.toNat == b.toNat, a.toNat != b.toNat, decide (a.toNat < b.toNat), decide (a.toNat ≤ b.toNat),
      decide (b.toNat < a.toNat), decide (b.toNat ≤ a.toNat)].getD cc false := by
  have he : (a == b) = decide (a.toNat = b.toNat) := by rw [Bool.eq_iff_iff]; simp [BitVec.toNat_inj]
  show ccHolds cc (a == b) (BitVec.ult a b) (BitVec.ult b a) = _
  rw [he]
  exact ccHolds_linearOrder cc a.toNat b.toNat

theorem cmpWord_signed (cc : Nat) (a b : Word) : cmpWord cc false a b =
    [a.toInt == b.toInt, a.toInt != b.toInt, decide (a.toInt < b.toInt), decide (a.toInt ≤ b.toInt),
      decide (b.toInt < a.toInt), decide (b.toInt ≤ a.toInt)].getD cc false := by
  have he : (a == b) = decide (a.toInt = b.toInt) := by rw [Bool.eq_iff_iff]; simp [BitVec.toInt_inj]
  show ccHolds cc (a == b) (BitVec.slt a b) (BitVec.slt b a) = _
  rw [he]
  exact ccHolds_linearOrder cc a.toInt b.toInt

/-! ### A predicate written in every issuing lane -/

theorem Lane.keeps_pput (l : Lane) {k : Nat} (v : Bool) (hk : k < 16) : l.keeps (l.pput k v) [] [k] := by
  refine ⟨Lane.rest_pput .., fun n _ => Lane.vraw_pput .., fun n hn => ?_⟩
  have hn' : n ≠ k := by simpa using hn
  rw [Lane.pget_pput l k n v hk, if_neg hn']
  split
  case isTrue h => subst h; rfl
  case isFalse => rfl

/-- A write of p0 is discarded (R59). -/
theorem Lane.pget_pput_same (l : Lane) {k : Nat} (v : Bool) (hk : k < 16) :
    (l.pput k v).pget k = if k = 0 then true else v := by
  rw [Lane.pget_pput l k k v hk, if_pos rfl]

/-- A word that writes one predicate, the same value in every issuing lane whatever its guard. -/
theorem pputAll_word {s : State} {i : Instr} {k : Nat} {v : Bool}
    (he : exec i s = issue i s (.go (s.mapIm fun l => l.pput k v).advance)) (hvw : (shapeOf s.W i).vw = [])
    (hk : Ready i s → k < 16) :
    s.lanesOnly i fun l m => m.pc = l.pc + 4 ∧ l.keeps m [] [k] ∧ m.pget k = if k = 0 then true else v := fun hR => by
  have hid (l : Lane) : (l.pput k v).id = l.id := (congrArg Lane.id (Lane.rest_pput l k v) :)
  refine lanes_word (f := fun l => (l.pput k v).next) ?_ hvw (fun _ => Lane.rest_pput ..) (fun l _ => ⟨?_, ?_, ?_⟩) hR
  · rw [he, mapIm_advance s _ hid]
  · exact congrArg (· + 4) (Lane.pc_pput l k v)
  · exact Lane.keeps_next (l.keeps_pput v (hk hR))
  · exact l.pget_pput_same v (hk hR)

/-! ### The statement -/

theorem scmp_pred_lt {s : State} {sa sb u cc k : Nat} (h : Ready (.scmp sa sb u cc k) s) : k < 16 := by
  have hw : (_ && WellFormed.fits 4 k) = true := h.wf
  simpa using (Bool.and_eq_true_iff.mp hw).2

/-- Settles O10: SCMP writes `cmpWord` of its two registers to predicate k in every issuing lane, and `cmpWord` is the
comparison of the two words as numbers. -/
theorem uniformCompare : Obligations.UniformCompare := by
  unfold Obligations.UniformCompare
  intro s sa sb u cc k _ _ a b c
  have hc : cmpWord cc (u == 1) a b = c := by
    by_cases hu : u = 1
    · subst hu; exact cmpWord_unsigned cc a b
    · simpa only [c, if_neg hu, beq_false_of_ne hu] using cmpWord_signed cc a b
  exact ⟨rfl, hc ▸ pputAll_word rfl rfl scmp_pred_lt⟩

end Sys2Proof.Machine
end

section
/-! SUPPORT. The immediate integer words (R275): what the immediate operand is with a HINT.IMM and without one, and the
proof of their statement. -/

namespace Sys2Proof.Machine

/-! ### The immediate operand (R225, R275) -/

/-- HINT.IMM supplies the bits above the seven of the word. -/
theorem State.immS_of_hint {s : State} {p : Nat} (h : s.hint.imm = some p) (imm : Nat) :
    s.immS imm = BitVec.ofNat 32 (p * 128 + imm) := by
  unfold State.immS; rw [h]

theorem State.immS_of_no_hint {s : State} (h : s.hint.imm = none) (imm : Nat) :
    s.immS imm = BitVec.ofInt 32 (if imm % 128 < 64 then (imm % 128 : Nat) else ((imm % 128 : Nat) : Int) - 128) := by
  unfold State.immS; rw [h]; rfl

/-! ### The statement -/

/-- Settles O2: each form is one vector write, `vec_word`, of a value of the immediate operand, and that operand is the
one of the hint or the sign-extended field. -/
theorem immediateWords : Obligations.ImmediateWords := by
  unfold Obligations.ImmediateWords
  intro s vd va imm g b
  have hb : s.immS imm = b := by
    cases h : s.hint.imm with
    | some p => simpa only [b, h] using State.immS_of_hint h imm
    | none => simpa only [b, h] using State.immS_of_no_hint h imm
  have hvd : [vd].Nodup := List.nodup_singleton vd
  rw [← hb]
  exact ⟨vec_word rfl hvd rfl, vec_word rfl hvd rfl, vec_word rfl hvd rfl, rfl, rfl, rfl⟩

end Sys2Proof.Machine
end
